-- ==== Sys2Proof/Word.lean ====
section
/-! DEFINITION. The word and byte of the machine (00: R4; 05: R88) and their plainest arithmetic. -/

namespace Sys2Proof

/-- A register-space word, a scalar register, an address (00: R1; 05: R88). -/
abbrev Word := BitVec 64

/-- A byte of memory (00: R4). -/
abbrev Byte := BitVec 8

end Sys2Proof
end

