-- ==== Sys2Proof/Config.lean ====
section
/-! DEFINITION. What an implementation fixes, and the values the spec leaves open. A free value has no body: nothing
can prove what it is (assumption log 2). -/

namespace Sys2Proof.Config

/-- Cycles of a core's clock that pass between two reads of CYCLE beyond one per retired instruction
(05: R100; log 8). -/
opaque idleCycles : Nat → BitVec 64

/-- A special-function result: selector (0 EXP, 1 EXP2, 2 LOG2, 3 RSQRT, 4 RCP, 5 TANH, 6 SIGMOID), element format
code, operand code (14: R295 gives bounds only; log 12). -/
opaque specialFunction : Nat → Nat → Nat → Nat

/-- The bits of an unstated result: a number for the case and the counter of free values (log 2). -/
opaque freeWord : Nat → Nat → BitVec 64

/-- The CRC of a link frame, over its flit and the low half of its control word (18: R382; log 137). -/
opaque crc64 : BitVec 512 → BitVec 64 → BitVec 64

/-- The device attestation key, derived inside the device from a fused seed (18: R385; log 13). -/
opaque attestKey : Nat

/-- The number used once in the signature over some bytes (18: R385; log 13). -/
opaque attestNonce : List (BitVec 8) → Nat

end Sys2Proof.Config
end

