-- ==== Sys2Proof/Syntax.lean ====
section
/-! DEFINITION. The rows of the operation table as ONE inductive (04: R74-R83; 95: the steps). One constructor per row:
first the 247 rows with an encoding, whose operands are the fields of the encoding, then the 92 rows without one, the
device's own indivisible steps, whose operands name the unit that acts and what comes from outside the model
(measured values, host data, a position reached). Register fields stay bit vectors: they are what the words hold. -/

namespace Sys2Proof

/-- A register field of a 32-bit form: s0-s63 (04: R75). -/
abbrev Reg := BitVec 6

/-- A register field of a 16-bit form: s0-s15 (04: R76). -/
abbrev Reg4 := BitVec 4

/-- A register field of a V form: v0-v31, or s0-s31 where the instruction says so (04: R74, 14: R284). -/
abbrev VReg := BitVec 5

/-- A core that issues instructions: tile core `k = 4·(128·y + x) + c` (00: R1), or island core `8·region + i`
(16: R352). -/
inductive CoreRef where
  | tile (k : Nat)
  | island (k : Nat)
  deriving DecidableEq, Repr

/-- The memory side that serves a request (09: R185): a cluster's request queue, a region's SRAM, an edge stack's
bridge, a host port. -/
inductive ServeAt where
  | cluster (pos : Nat)
  | sram (region : Nat)
  | stack (n : Nat)
  | host (port : Nat)
  deriving DecidableEq, Repr

/-- What a hub request reads or writes (17: R358): `k` a core, `pos` a cluster. -/
inductive HubPlace where
  | regWord (k n : Nat)
  | tcmWord (k n : Nat)
  | csr (k n : Nat)
  | spadWord (pos n : Nat)
  | handlerMask (k ch : Nat)
  | barrier (pos b : Nat)
  | watch (pos n : Nat)
  | trace (pos : Nat)
  deriving DecidableEq, Repr

/-- Where a release flag comes from (15: R330; 18: R383): the port that received it, its source wafer and the tag of its
source partition. -/
structure FlagSource where
  port : Nat
  wafer : Nat
  tag : Nat
  deriving DecidableEq, Repr

/-- What an inbound PCIe request is for (18: R378): a BAR, or what the device does not use. -/
inductive HostTarget where
  | bar (n : Nat)
  | atomicOp
  | peerToPeer
  | ats
  | pri
  | other
  deriving DecidableEq, Repr

/-- An operation of the table. -/
inductive Instr where
  /-- `ADD` (R106). Writes the sum of s(ra) and s(rb), modulo 2^64, to rd. -/
  | add (w : BitVec 1) (cs : BitVec 2) (rb : BitVec 6) (ra : BitVec 6) (rd : BitVec 6)
  /-- `SUB` (R106). Writes s(ra) minus s(rb), modulo 2^64, to rd. -/
  | sub (w : BitVec 1) (cs : BitVec 2) (rb : BitVec 6) (ra : BitVec 6) (rd : BitVec 6)
  /-- `AND` (R106). Writes the bitwise AND of two registers to rd. -/
  | and (w : BitVec 1) (cs : BitVec 2) (rb : BitVec 6) (ra : BitVec 6) (rd : BitVec 6)
  /-- `OR` (R106). Writes the bitwise OR of two registers to rd. -/
  | or (w : BitVec 1) (cs : BitVec 2) (rb : BitVec 6) (ra : BitVec 6) (rd : BitVec 6)
  /-- `XOR` (R106). Writes the bitwise XOR of two registers to rd. -/
  | xor (w : BitVec 1) (cs : BitVec 2) (rb : BitVec 6) (ra : BitVec 6) (rd : BitVec 6)
  /-- `ANDN` (R106). Writes s(ra) AND NOT s(rb) to rd. -/
  | andn (w : BitVec 1) (cs : BitVec 2) (rb : BitVec 6) (ra : BitVec 6) (rd : BitVec 6)
  /-- `SHL` (R106). Shifts s(ra) left by b[5:0] bits. -/
  | shl (w : BitVec 1) (cs : BitVec 2) (rb : BitVec 6) (ra : BitVec 6) (rd : BitVec 6)
  /-- `SHR` (R106). Shifts s(ra) right logically by b[5:0] bits. -/
  | shr (w : BitVec 1) (cs : BitVec 2) (rb : BitVec 6) (ra : BitVec 6) (rd : BitVec 6)
  /-- `SAR` (R106). Shifts s(ra) right arithmetically by b[5:0] bits. -/
  | sar (w : BitVec 1) (cs : BitVec 2) (rb : BitVec 6) (ra : BitVec 6) (rd : BitVec 6)
  /-- `ROR` (R106). Rotates s(ra) right by b[5:0] bits. -/
  | ror (w : BitVec 1) (cs : BitVec 2) (rb : BitVec 6) (ra : BitVec 6) (rd : BitVec 6)
  /-- `MUL` (R106). Writes the low 64 bits of the product. -/
  | mul (w : BitVec 1) (cs : BitVec 2) (rb : BitVec 6) (ra : BitVec 6) (rd : BitVec 6)
  /-- `MULH` (R106). Writes the high 64 bits of the signed 128-bit product. -/
  | mulh (w : BitVec 1) (cs : BitVec 2) (rb : BitVec 6) (ra : BitVec 6) (rd : BitVec 6)
  /-- `MULHU` (R106). Writes the high 64 bits of the unsigned product. -/
  | mulhu (w : BitVec 1) (cs : BitVec 2) (rb : BitVec 6) (ra : BitVec 6) (rd : BitVec 6)
  /-- `DIV` (R107). Signed division rounding toward zero, with fixed results and DZ or SAT for the borderline cases. -/
  | div (w : BitVec 1) (cs : BitVec 2) (rb : BitVec 6) (ra : BitVec 6) (rd : BitVec 6)
  /-- `DIVU` (R107). Unsigned division, with a fixed result and DZ on a zero divisor. -/
  | divu (w : BitVec 1) (cs : BitVec 2) (rb : BitVec 6) (ra : BitVec 6) (rd : BitVec 6)
  /-- `REM` (R107). Signed remainder; 0 with DZ on a zero divisor. -/
  | rem (w : BitVec 1) (cs : BitVec 2) (rb : BitVec 6) (ra : BitVec 6) (rd : BitVec 6)
  /-- `REMU` (R107). Unsigned remainder; 0 with DZ on a zero divisor. -/
  | remu (w : BitVec 1) (cs : BitVec 2) (rb : BitVec 6) (ra : BitVec 6) (rd : BitVec 6)
  /-- `MIN` (R106). Writes the signed minimum of two registers. -/
  | min (w : BitVec 1) (cs : BitVec 2) (rb : BitVec 6) (ra : BitVec 6) (rd : BitVec 6)
  /-- `MAX` (R106). Writes the signed maximum of two registers. -/
  | max (w : BitVec 1) (cs : BitVec 2) (rb : BitVec 6) (ra : BitVec 6) (rd : BitVec 6)
  /-- `MINU` (R106). Writes the unsigned minimum of two registers. -/
  | minu (w : BitVec 1) (cs : BitVec 2) (rb : BitVec 6) (ra : BitVec 6) (rd : BitVec 6)
  /-- `MAXU` (R106). Writes the unsigned maximum of two registers. -/
  | maxu (w : BitVec 1) (cs : BitVec 2) (rb : BitVec 6) (ra : BitVec 6) (rd : BitVec 6)
  /-- `SLT` (R106). Writes 1 when s(ra) is less than s(rb) as signed values, otherwise 0. -/
  | slt (w : BitVec 1) (cs : BitVec 2) (rb : BitVec 6) (ra : BitVec 6) (rd : BitVec 6)
  /-- `SLTU` (R106). Writes 1 when s(ra) is less than s(rb) as unsigned values, otherwise 0. -/
  | sltu (w : BitVec 1) (cs : BitVec 2) (rb : BitVec 6) (ra : BitVec 6) (rd : BitVec 6)
  /-- `SEQ` (R106). Writes 1 when the two registers are equal, otherwise 0. -/
  | seq (w : BitVec 1) (cs : BitVec 2) (rb : BitVec 6) (ra : BitVec 6) (rd : BitVec 6)
  /-- `SEL` (R106). Writes s(ra) to rd if s(rd) is nonzero, otherwise s(rb). -/
  | sel (w : BitVec 1) (cs : BitVec 2) (rb : BitVec 6) (ra : BitVec 6) (rd : BitVec 6)
  /-- `CLZ` (R108). Counts the leading zero bits of s(ra). -/
  | clz (ra : BitVec 6) (rd : BitVec 6)
  /-- `CTZ` (R108). Counts the trailing zero bits of s(ra). -/
  | ctz (ra : BitVec 6) (rd : BitVec 6)
  /-- `POPC` (R108). Counts the one bits of s(ra). -/
  | popc (ra : BitVec 6) (rd : BitVec 6)
  /-- `BSWAP` (R108). Reverses the byte order of s(ra). -/
  | bswap (ra : BitVec 6) (rd : BitVec 6)
  /-- `SEXTB` (R108). Sign-extends the low byte of s(ra). -/
  | sextb (ra : BitVec 6) (rd : BitVec 6)
  /-- `SEXTH` (R108). Sign-extends the low halfword of s(ra). -/
  | sexth (ra : BitVec 6) (rd : BitVec 6)
  /-- `SEXTW` (R108). Sign-extends the low word of s(ra). -/
  | sextw (ra : BitVec 6) (rd : BitVec 6)
  /-- `ZEXTW` (R108). Zero-extends the low word of s(ra). -/
  | zextw (ra : BitVec 6) (rd : BitVec 6)
  /-- `BEXT` (R109). Packs the bits of s(ra) that mask s(rb) selects into the low end of rd. -/
  | bext (w : BitVec 1) (cs : BitVec 2) (rb : BitVec 6) (ra : BitVec 6) (rd : BitVec 6)
  /-- `BDEP` (R109). Spreads the low bits of s(ra) into the positions of the one bits of s(rb). -/
  | bdep (w : BitVec 1) (cs : BitVec 2) (rb : BitVec 6) (ra : BitVec 6) (rd : BitVec 6)
  /-- `ADDI` (R110). Adds a signed 9-bit immediate to s(ra). -/
  | addi (imm : BitVec 9) (ra : BitVec 6) (rd : BitVec 6)
  /-- `ANDI` (R110). ANDs s(ra) with the sign-extended immediate. -/
  | andi (imm : BitVec 9) (ra : BitVec 6) (rd : BitVec 6)
  /-- `ORI` (R110). ORs s(ra) with the sign-extended immediate. -/
  | ori (imm : BitVec 9) (ra : BitVec 6) (rd : BitVec 6)
  /-- `SHLI` (R111). Shifts s(ra) left by a constant n. -/
  | shli (n : BitVec 6) (ra : BitVec 6) (rd : BitVec 6)
  /-- `SHRI` (R111). Shifts s(ra) right logically by a constant n. -/
  | shri (n : BitVec 6) (ra : BitVec 6) (rd : BitVec 6)
  /-- `SARI` (R111). Shifts s(ra) right arithmetically by a constant n. -/
  | sari (n : BitVec 6) (ra : BitVec 6) (rd : BitVec 6)
  /-- `RORI` (R111). Rotates s(ra) right by a constant n. -/
  | rori (n : BitVec 6) (ra : BitVec 6) (rd : BitVec 6)
  /-- `FADD` (R114). Adds two binary32 values and rounds once under FCSR.RM. -/
  | fadd (w : BitVec 1) (cs : BitVec 2) (rb : BitVec 6) (ra : BitVec 6) (rd : BitVec 6)
  /-- `FSUB` (R114). Subtracts two binary32 values and rounds once. -/
  | fsub (w : BitVec 1) (cs : BitVec 2) (rb : BitVec 6) (ra : BitVec 6) (rd : BitVec 6)
  /-- `FMUL` (R114). Multiplies two binary32 values and rounds once. -/
  | fmul (w : BitVec 1) (cs : BitVec 2) (rb : BitVec 6) (ra : BitVec 6) (rd : BitVec 6)
  /-- `FDIV` (R114). Divides two binary32 values and rounds once, setting DZ for a finite value divided by zero. -/
  | fdiv (w : BitVec 1) (cs : BitVec 2) (rb : BitVec 6) (ra : BitVec 6) (rd : BitVec 6)
  /-- `FFMA` (R114). Computes d + x·y, rounded once, with rd both source and destination. -/
  | ffma (w : BitVec 1) (cs : BitVec 2) (rb : BitVec 6) (ra : BitVec 6) (rd : BitVec 6)
  /-- `FMIN` (R115). Returns the smaller binary32 operand, with −0 below +0 and NaNs passed over. -/
  | fmin (w : BitVec 1) (cs : BitVec 2) (rb : BitVec 6) (ra : BitVec 6) (rd : BitVec 6)
  /-- `FMAX` (R115). Returns the larger binary32 operand, with −0 below +0 and NaNs passed over. -/
  | fmax (w : BitVec 1) (cs : BitVec 2) (rb : BitVec 6) (ra : BitVec 6) (rd : BitVec 6)
  /-- `FSQRT` (R114). Writes the square root of a binary32 value, rounded once. -/
  | fsqrt (w : BitVec 1) (cs : BitVec 2) (ra : BitVec 6) (rd : BitVec 6)
  /-- `FCMP_EQ` (R116). Writes 1 when two binary32 values are equal and neither is a NaN. -/
  | fcmpEq (rb : BitVec 6) (ra : BitVec 6) (rd : BitVec 6)
  /-- `FCMP_LT` (R116). Writes 1 when x < y and neither is a NaN; any NaN sets NV. -/
  | fcmpLt (rb : BitVec 6) (ra : BitVec 6) (rd : BitVec 6)
  /-- `FCMP_LE` (R116). Writes 1 when x ≤ y and neither is a NaN; any NaN sets NV. -/
  | fcmpLe (rb : BitVec 6) (ra : BitVec 6) (rd : BitVec 6)
  /-- `FCMP_UNORD` (R116). Writes 1 when either operand is a NaN. -/
  | fcmpUnord (rb : BitVec 6) (ra : BitVec 6) (rd : BitVec 6)
  /-- `FCVT_F32_S64` (R117). Converts a signed 64-bit integer to binary32 under FCSR.RM. -/
  | fcvtF32S64 (ra : BitVec 6) (rd : BitVec 6)
  /-- `FCVT_S64_F32` (R117). Converts binary32 to a signed 64-bit integer, saturating with NV. -/
  | fcvtS64F32 (ra : BitVec 6) (rd : BitVec 6)
  /-- `FCVT_F32_BF16` (R117). Converts BF16 to binary32 exactly. -/
  | fcvtF32Bf16 (ra : BitVec 6) (rd : BitVec 6)
  /-- `FCVT_BF16_F32` (R117). Rounds binary32 to BF16. -/
  | fcvtBf16F32 (ra : BitVec 6) (rd : BitVec 6)
  /-- `FCVT_F32_F16` (R117). Converts binary16 to binary32 exactly. -/
  | fcvtF32F16 (ra : BitVec 6) (rd : BitVec 6)
  /-- `FCVT_F16_F32` (R117). Rounds binary32 to binary16. -/
  | fcvtF16F32 (ra : BitVec 6) (rd : BitVec 6)
  /-- `FCVT_F32_FMT` (R117). Converts a code of the format in format register fN to binary32. -/
  | fcvtF32Fmt (fn : BitVec 3) (ra : BitVec 6) (rd : BitVec 6)
  /-- `FCVT_FMT_F32` (R117). Converts binary32 into the format in fN, under that format's special-value policy. -/
  | fcvtFmtF32 (fn : BitVec 3) (ra : BitVec 6) (rd : BitVec 6)
  /-- `FNEG` (R118). Inverts the sign bit of a binary32 value. -/
  | fneg (ra : BitVec 6) (rd : BitVec 6)
  /-- `FABS` (R118). Clears the sign bit of a binary32 value. -/
  | fabs (ra : BitVec 6) (rd : BitVec 6)
  /-- `FCOPYSIGN` (R118). Takes the magnitude of s(ra) and the sign of s(rb). -/
  | fcopysign (rb : BitVec 6) (ra : BitVec 6) (rd : BitVec 6)
  /-- `FCLASS` (R119). Writes a descriptor of the class, sign, integrality and exponent of a binary32 value. -/
  | fclass (ra : BitVec 6) (rd : BitVec 6)
  /-- `MOVK` (R112). Writes constant-window word kN to rd. -/
  | movk (w : BitVec 1) (k : BitVec 8) (rd : BitVec 6)
  /-- `ADDK` (R112). Adds constant-window word kN to s(ra). -/
  | addk (w : BitVec 1) (k : BitVec 8) (ra : BitVec 6) (rd : BitVec 6)
  /-- `BEQ` (R120). Branches when two registers are equal. -/
  | beq (imm : BitVec 9) (rb : BitVec 6) (ra : BitVec 6)
  /-- `BNE` (R120). Branches when two registers differ. -/
  | bne (imm : BitVec 9) (rb : BitVec 6) (ra : BitVec 6)
  /-- `BLT` (R120). Branches when s(ra) < s(rb), signed. -/
  | blt (imm : BitVec 9) (rb : BitVec 6) (ra : BitVec 6)
  /-- `BGE` (R120). Branches when s(ra) ≥ s(rb), signed. -/
  | bge (imm : BitVec 9) (rb : BitVec 6) (ra : BitVec 6)
  /-- `BLTU` (R120). Branches when s(ra) < s(rb), unsigned. -/
  | bltu (imm : BitVec 9) (rb : BitVec 6) (ra : BitVec 6)
  /-- `BGEU` (R120). Branches when s(ra) ≥ s(rb), unsigned. -/
  | bgeu (imm : BitVec 9) (rb : BitVec 6) (ra : BitVec 6)
  /-- `J` (R121). Jumps to pc + 2·off21. -/
  | j (imm : BitVec 21)
  /-- `JL` (R121). Writes the link to s63, then jumps to pc + 2·off21. -/
  | jl (imm : BitVec 21)
  /-- `JR` (R122). Writes the link to rd and jumps to s(ra). -/
  | jr (w : BitVec 1) (cs : BitVec 2) (ra : BitVec 6) (rd : BitVec 6)
  /-- `LOOP` (R123). Jumps to the end label when the count is 0; otherwise decrements the count. -/
  | loop (imm : BitVec 9) (ra : BitVec 6)
  /-- `DONE` (R135). Waits for outstanding work, raises any enabled flag trap, otherwise ends the activation and returns the entry to FILLING. -/
  | done
  /-- `DONE_REPOST` (R136). Ends the activation as DONE does, but returns the entry straight to READY with its buffers kept. -/
  | doneRepost
  /-- `BFE` (R124). Branches when a register-space word is empty, without waiting. -/
  | bfe (imm : BitVec 9) (rb : BitVec 6) (ra : BitVec 6)
  /-- `WAITFE` (R125). Waits until a range of register-space words are all full. -/
  | waitfe (rb : BitVec 6) (ra : BitVec 6)
  /-- `CSRW` (R126). Writes a CSR from s(ra) and returns the old value to rd. -/
  | csrw (csr : BitVec 9) (ra : BitVec 6) (rd : BitVec 6)
  /-- `CSRS` (R126). Sets the CSR bits named by s(ra) and returns the old value. -/
  | csrs (csr : BitVec 9) (ra : BitVec 6) (rd : BitVec 6)
  /-- `CSRC` (R126). Clears the CSR bits named by s(ra) and returns the old value. -/
  | csrc (csr : BitVec 9) (ra : BitVec 6) (rd : BitVec 6)
  /-- `CSRR` (R126). Reads a CSR into rd. -/
  | csrr (csr : BitVec 9) (rd : BitVec 6)
  /-- `LDB` (R204). Loads a byte, sign-extended. -/
  | ldb (imm : BitVec 9) (ra : BitVec 6) (rd : BitVec 6)
  /-- `LDBU` (R204). Loads a byte, zero-extended. -/
  | ldbu (imm : BitVec 9) (ra : BitVec 6) (rd : BitVec 6)
  /-- `LDH` (R204). Loads a halfword, sign-extended. -/
  | ldh (imm : BitVec 9) (ra : BitVec 6) (rd : BitVec 6)
  /-- `LDHU` (R204). Loads a halfword, zero-extended. -/
  | ldhu (imm : BitVec 9) (ra : BitVec 6) (rd : BitVec 6)
  /-- `LDW` (R204). Loads a word, sign-extended. -/
  | ldw (imm : BitVec 9) (ra : BitVec 6) (rd : BitVec 6)
  /-- `LDWU` (R204). Loads a word, zero-extended. -/
  | ldwu (imm : BitVec 9) (ra : BitVec 6) (rd : BitVec 6)
  /-- `LDD` (R204). Loads a doubleword; a remote load is a producer. -/
  | ldd (imm : BitVec 9) (ra : BitVec 6) (rd : BitVec 6)
  /-- `STB` (R204). Stores a byte through the store buffer. -/
  | stb (imm : BitVec 9) (ra : BitVec 6) (rd : BitVec 6)
  /-- `STH` (R204). Stores a halfword. -/
  | sth (imm : BitVec 9) (ra : BitVec 6) (rd : BitVec 6)
  /-- `STW` (R204). Stores a word. -/
  | stw (imm : BitVec 9) (ra : BitVec 6) (rd : BitVec 6)
  /-- `STD` (R204). Stores a doubleword. -/
  | std (imm : BitVec 9) (ra : BitVec 6) (rd : BitVec 6)
  /-- `LDS` (R205). Waits until a memory word is full, then loads it as an acquire at .clu. -/
  | lds (imm : BitVec 9) (ra : BitVec 6) (rd : BitVec 6)
  /-- `LDV` (R207). Loads 256 bytes into a vector register. -/
  | ldv (ra : BitVec 6) (vn : BitVec 5)
  /-- `STV` (R207). Stores a vector register's 256 bytes. -/
  | stv (ra : BitVec 6) (vn : BitVec 5)
  /-- `BITLD` (R209). Loads a bit field of width w from a bit address. -/
  | bitld (wm1 : BitVec 6) (ra : BitVec 6) (rd : BitVec 6)
  /-- `BITST` (R209). Stores a bit field of width w atomically at a bit address. -/
  | bitst (wm1 : BitVec 6) (ra : BitVec 6) (rd : BitVec 6)
  /-- `LDR` (R208). Remote-loads 128 bytes into the low or high half of a vector register through a reply slot. -/
  | ldr (ra : BitVec 6) (h : BitVec 1) (vn : BitVec 5)
  /-- `LDE` (R206). Waits until a memory word is full, then reads it and sets it empty in one bank operation. -/
  | lde (ra : BitVec 6) (rd : BitVec 6)
  /-- `STF` (R206). Writes a memory word and sets it full as a release at .clu. -/
  | stf (ra : BitVec 6) (rd : BitVec 6)
  /-- `SETF` (R206). Sets a memory word full, leaving its data. -/
  | setf (ra : BitVec 6)
  /-- `SETE` (R206). Sets a memory word empty. -/
  | sete (ra : BitVec 6)
  /-- `SETF_RS` (R206). Sets a register-space word full. -/
  | setfRs (ra : BitVec 6)
  /-- `SETE_RS` (R206). Sets a register-space word empty, with no pending mark. -/
  | seteRs (ra : BitVec 6)
  /-- `AMO` (R323). Performs an integer read-modify-write at the home and returns the old value. -/
  | amo (wd : BitVec 1) (ord : BitVec 2) (op : BitVec 3) (ra : BitVec 6) (rd : BitVec 6)
  /-- `AMOX_XCHG` (R324). Exchanges a doubleword at the home. -/
  | amoxXchg (ord : BitVec 2) (ra : BitVec 6) (rd : BitVec 6)
  /-- `AMOX_CAS` (R324). Compares a doubleword with s(rd) and, when equal, stores s(rb) at the home. -/
  | amoxCas (ord : BitVec 2) (rb : BitVec 6) (ra : BitVec 6) (rd : BitVec 6)
  /-- `AMOF_FADD32` (R325). Adds a binary32 value at the home under RNE. -/
  | amofFadd32 (ord : BitVec 1) (ra : BitVec 6) (rd : BitVec 6)
  /-- `AMOF_FMAXABS` (R325). Keeps the larger magnitude, with sign 0, at the home. -/
  | amofFmaxabs (ord : BitVec 1) (ra : BitVec 6) (rd : BitVec 6)
  /-- `AMOF_BUMPLIM` (R325). Increments a doubleword at the home while it is below a limit. -/
  | amofBumplim (ord : BitVec 1) (rb : BitVec 6) (ra : BitVec 6) (rd : BitVec 6)
  /-- `FENCE` (R317). Orders the core's accesses and sends within a scope. -/
  | fence (sc : BitVec 6)
  /-- `FENCER` (R318). Orders the earlier accesses that touch an address range within a scope. -/
  | fencer (rb : BitVec 6) (ra : BitVec 6) (sc : BitVec 6)
  /-- `TFENCE` (R319). Waits for all earlier instructions, accesses and engine operations, then raises any enabled flag trap. -/
  | tfence
  /-- `LDACQ` (R320). Ordered load that no later access within its scope passes. -/
  | ldacq (sz : BitVec 2) (sc : BitVec 4) (ra : BitVec 6) (rd : BitVec 6)
  /-- `STREL` (R320). Ordered store released only after every earlier access within its scope is performed. -/
  | strel (sz : BitVec 2) (sc : BitVec 4) (ra : BitVec 6) (rd : BitVec 6)
  /-- `SEND` (R176). Checks a header and payload range, then queues a message in the send queue. -/
  | send (rb : BitVec 6) (ra : BitVec 6) (rd : BitVec 6)
  /-- `SENDV` (R176). Queues a message that carries a snapshot of vector register vN. -/
  | sendv (vn : BitVec 5) (ra : BitVec 6)
  /-- `SENDP` (R176). Queues a message with a prelude read from below the payload. -/
  | sendp (rb : BitVec 6) (ra : BitVec 6) (rd : BitVec 6)
  /-- `POST` (R137). Sends a word on VC0 that raises n completion signals for the launch. -/
  | post (ra : BitVec 6)
  /-- `HMASK` (R138). Changes the selected MASK bits of the core's own handler table and returns the old bits. -/
  | hmask (rb : BitVec 6) (ra : BitVec 6) (rd : BitVec 6)
  /-- `ARRADD` (R235). Adds to a buffer's arrival count as a release at .clu. -/
  | arradd (rb : BitVec 6) (ra : BitVec 6)
  /-- `ARRWAIT` (R235). Waits until a buffer's arrival count reaches a target. -/
  | arrwait (rb : BitVec 6) (ra : BitVec 6)
  /-- `ARRRESET` (R235). Returns a buffer's arrival count and clears the buffer's arrival state. -/
  | arrreset (ra : BitVec 6) (rd : BitVec 6)
  /-- `CBAR_ARRIVE` (R140). Arrives at a cluster barrier with target T and returns the phase. -/
  | cbarArrive (rb : BitVec 6) (ra : BitVec 6) (rd : BitVec 6)
  /-- `CBAR_WAIT` (R140). Waits until a barrier's PHASE passes a value. -/
  | cbarWait (rb : BitVec 6) (ra : BitVec 6)
  /-- `CBAR_ARRIVEWAIT` (R140). Arrives at a barrier, then waits for its phase to complete. -/
  | cbarArrivewait (rb : BitVec 6) (ra : BitVec 6) (rd : BitVec 6)
  /-- `CPYGO` (R243). Starts, continues, restarts or abandons a copy channel's chain, as a release at .clu. -/
  | cpygo (rb : BitVec 6) (ra : BitVec 6) (rd : BitVec 6)
  /-- `CPYWAIT` (R244). Waits until a copy channel is not ACTIVE, then writes its status word. -/
  | cpywait (rb : BitVec 6) (rd : BitVec 6)
  /-- `CPYSTAT` (R244). Writes a copy channel's status word at once. -/
  | cpystat (rb : BitVec 6) (rd : BitVec 6)
  /-- `TMSET` (R249). Loads a 64-byte descriptor from memory into tensor-map register tmN. -/
  | tmset (ra : BitVec 6) (tm : BitVec 4)
  /-- `TMGET` (R249). Stores tensor-map register tmN to memory. -/
  | tmget (ra : BitVec 6) (tm : BitVec 4)
  /-- `WAITMASK` (R236). Waits until every selected chunk of a buffer has its bit set. -/
  | waitmask (rb : BitVec 6) (ra : BitVec 6)
  /-- `TESTMASK` (R236). Returns the selected chunk bits of a buffer without waiting. -/
  | testmask (rb : BitVec 6) (ra : BitVec 6) (rd : BitVec 6)
  /-- `HBSET` (R253). Checks and writes a headbox distributor pattern, returning the old value. -/
  | hbset (rb : BitVec 6) (ra : BitVec 6) (rd : BitVec 6)
  /-- `FMTSET` (R218). Writes the low 32 bits of s(ra) into format register fN. -/
  | fmtset (ra : BitVec 6) (fd : BitVec 3)
  /-- `MLDW` (R268). Loads weight bank W0, W1, Q0 or Q1 from a tensor map, with latched format and scales. -/
  | mldw (pr : BitVec 6) (fmt : BitVec 3) (tm : BitVec 4) (wb : BitVec 2)
  /-- `MMUL` (R269). Multiplies an input tile by a weight bank into an accumulator tile, with exact sums rounded once under RNE. -/
  | mmul (pr : BitVec 6) (set : BitVec 1) (fmt : BitVec 3) (tm : BitVec 4) (bank : BitVec 1) (acc : BitVec 2)
  /-- `MREAM` (R274). Counts 4-bit products of an input tile against a Q bank into a counter bank. -/
  | mream (pr : BitVec 6) (fmt : BitVec 3) (tm : BitVec 4) (q : BitVec 1) (cb : BitVec 1)
  /-- `MRMRG` (R275). Merges one counter bank into the other. -/
  | mrmrg (src : BitVec 1) (dst : BitVec 1)
  /-- `MDRAIN` (R276). Turns a counter bank into FP32 sums in an accumulator tile, optionally with an absmax merge. -/
  | mdrain (ra : BitVec 6) (set : BitVec 1) (acc : BitVec 2) (cb : BitVec 1)
  /-- `MSTORE` (R277). Converts and writes an accumulator tile to memory, optionally with an absmax merge. -/
  | mstore (pr : BitVec 6) (fmt : BitVec 3) (tm : BitVec 4) (acc : BitVec 2)
  /-- `MCLR` (R279). Clears accumulator tiles, counter banks, or all of them. -/
  | mclr (tgt : BitVec 3)
  /-- `MSTAT` (R280). Reports the matrix bank state that the core's issued operations leave. -/
  | mstat (rd : BitVec 6)
  /-- `VADD` (R286). Adds vector lanes. -/
  | vadd (ty : BitVec 3) (vb : BitVec 5) (va : BitVec 5) (vd : BitVec 5)
  /-- `VSUB` (R286). Subtracts vector lanes. -/
  | vsub (ty : BitVec 3) (vb : BitVec 5) (va : BitVec 5) (vd : BitVec 5)
  /-- `VMUL` (R286). Multiplies vector lanes. -/
  | vmul (ty : BitVec 3) (vb : BitVec 5) (va : BitVec 5) (vd : BitVec 5)
  /-- `VFMA` (R286). Computes d + a·b per lane, rounded once. -/
  | vfma (ty : BitVec 3) (vb : BitVec 5) (va : BitVec 5) (vd : BitVec 5)
  /-- `VMIN` (R286). Takes the lane-wise minimum. -/
  | vmin (ty : BitVec 3) (vb : BitVec 5) (va : BitVec 5) (vd : BitVec 5)
  /-- `VMAX` (R286). Takes the lane-wise maximum. -/
  | vmax (ty : BitVec 3) (vb : BitVec 5) (va : BitVec 5) (vd : BitVec 5)
  /-- `VABS` (R286). Takes the lane-wise absolute value. -/
  | vabs (ty : BitVec 3) (va : BitVec 5) (vd : BitVec 5)
  /-- `VNEG` (R286). Negates each lane. -/
  | vneg (ty : BitVec 3) (va : BitVec 5) (vd : BitVec 5)
  /-- `VAND` (R287). Bitwise AND over the whole register. -/
  | vand (vb : BitVec 5) (va : BitVec 5) (vd : BitVec 5)
  /-- `VOR` (R287). Bitwise OR over the whole register. -/
  | vor (vb : BitVec 5) (va : BitVec 5) (vd : BitVec 5)
  /-- `VXOR` (R287). Bitwise XOR over the whole register. -/
  | vxor (vb : BitVec 5) (va : BitVec 5) (vd : BitVec 5)
  /-- `VANDN` (R287). Bitwise AND NOT over the whole register. -/
  | vandn (vb : BitVec 5) (va : BitVec 5) (vd : BitVec 5)
  /-- `VSHL` (R287). Shifts each lane left. -/
  | vshl (ty : BitVec 3) (vb : BitVec 5) (va : BitVec 5) (vd : BitVec 5)
  /-- `VSHR` (R287). Shifts each lane right logically. -/
  | vshr (ty : BitVec 3) (vb : BitVec 5) (va : BitVec 5) (vd : BitVec 5)
  /-- `VSAR` (R287). Shifts each lane right arithmetically. -/
  | vsar (ty : BitVec 3) (vb : BitVec 5) (va : BitVec 5) (vd : BitVec 5)
  /-- `VNOT` (R287). Inverts every bit of the register. -/
  | vnot (va : BitVec 5) (vd : BitVec 5)
  /-- `VCMP` (R288). Compares lanes under a condition and writes all-ones or all-zeros masks. -/
  | vcmp (cond : BitVec 3) (ty : BitVec 3) (vb : BitVec 5) (va : BitVec 5) (vd : BitVec 5)
  /-- `VSEL` (R289). Selects lanes of va or vb under the mask in vd. -/
  | vsel (ty : BitVec 3) (vb : BitVec 5) (va : BitVec 5) (vd : BitVec 5)
  /-- `VPERMX` (R289). Permutes the lanes of va by the indices in vb. -/
  | vpermx (ty : BitVec 3) (vb : BitVec 5) (va : BitVec 5) (vd : BitVec 5)
  /-- `VBCAST` (R289). Broadcasts lane 0 of va. -/
  | vbcast (ty : BitVec 3) (va : BitVec 5) (vd : BitVec 5)
  /-- `VSLIDEUP` (R289). Slides the lanes of va up by s(vb). -/
  | vslideup (ty : BitVec 3) (vb : BitVec 5) (va : BitVec 5) (vd : BitVec 5)
  /-- `VSLIDEDN` (R289). Slides the lanes of va down by s(vb). -/
  | vslidedn (ty : BitVec 3) (vb : BitVec 5) (va : BitVec 5) (vd : BitVec 5)
  /-- `VZIP` (R289). Interleaves the low halves of two registers. -/
  | vzip (ty : BitVec 3) (vb : BitVec 5) (va : BitVec 5) (vd : BitVec 5)
  /-- `VUNZIP` (R289). De-interleaves the even and odd lanes of va. -/
  | vunzip (ty : BitVec 3) (va : BitVec 5) (vd : BitVec 5)
  /-- `VIOTA` (R289). Writes each lane's own index. -/
  | viota (ty : BitVec 3) (vd : BitVec 5)
  /-- `VCVT` (R291). Converts lanes between types, one part of the ratio at a time, rounded once. -/
  | vcvt (dst : BitVec 3) (src : BitVec 3) (part : BitVec 3) (mode : BitVec 2) (va : BitVec 5) (vd : BitVec 5)
  /-- `VRED` (R292). Reduces the lanes of a register to a scalar. -/
  | vred (op : BitVec 3) (ty : BitVec 3) (va : BitVec 5) (vd : BitVec 5)
  /-- `LDTM` (R293). Loads a tensor-map box into vector lanes. -/
  | ldtm (ty : BitVec 3) (vb : BitVec 5) (tm : BitVec 4) (vd : BitVec 5)
  /-- `STTM` (R293). Stores vector lanes through a tensor-map box. -/
  | sttm (ty : BitVec 3) (vb : BitVec 5) (tm : BitVec 4) (vd : BitVec 5)
  /-- `LDSTR` (R293). Loads lanes from strided addresses. -/
  | ldstr (ty : BitVec 3) (vb : BitVec 5) (va : BitVec 5) (vd : BitVec 5)
  /-- `STSTR` (R293). Stores lanes to strided addresses. -/
  | ststr (ty : BitVec 3) (vb : BitVec 5) (va : BitVec 5) (vd : BitVec 5)
  /-- `LDGI` (R293). Gathers lanes at indexed addresses. -/
  | ldgi (ty : BitVec 3) (vb : BitVec 5) (va : BitVec 5) (vd : BitVec 5)
  /-- `STSI` (R293). Scatters lanes to indexed addresses. -/
  | stsi (ty : BitVec 3) (vb : BitVec 5) (va : BitVec 5) (vd : BitVec 5)
  /-- `LDFE` (R294). Waits until 32 memory words are full and loads them as an acquire. -/
  | ldfe (va : BitVec 5) (vd : BitVec 5)
  /-- `VMOVLS` (R290). Moves one vector lane to a scalar register. -/
  | vmovls (ty : BitVec 3) (vb : BitVec 5) (va : BitVec 5) (vd : BitVec 5)
  /-- `VMOVSL` (R290). Moves a scalar into one vector lane. -/
  | vmovsl (ty : BitVec 3) (vb : BitVec 5) (va : BitVec 5) (vd : BitVec 5)
  /-- `EXP` (R295). Computes e^x per lane within a fixed bound. -/
  | exp (ty : BitVec 3) (va : BitVec 5) (vd : BitVec 5)
  /-- `EXP2` (R295). Computes 2^x per lane. -/
  | exp2 (ty : BitVec 3) (va : BitVec 5) (vd : BitVec 5)
  /-- `LOG2` (R295). Computes log2 x per lane. -/
  | log2 (ty : BitVec 3) (va : BitVec 5) (vd : BitVec 5)
  /-- `RSQRT` (R295). Computes 1/√x per lane. -/
  | rsqrt (ty : BitVec 3) (va : BitVec 5) (vd : BitVec 5)
  /-- `RCP` (R295). Computes 1/x per lane. -/
  | rcp (ty : BitVec 3) (va : BitVec 5) (vd : BitVec 5)
  /-- `TANH` (R295). Computes tanh x per lane. -/
  | tanh (ty : BitVec 3) (va : BitVec 5) (vd : BitVec 5)
  /-- `SIGMOID` (R295). Computes the logistic function per lane. -/
  | sigmoid (ty : BitVec 3) (va : BitVec 5) (vd : BitVec 5)
  /-- `ROWMAXSUB` (R296). Subtracts from each lane the maximum of its 16-lane segment. -/
  | rowmaxsub (ty : BitVec 3) (va : BitVec 5) (vd : BitVec 5)
  /-- `SMPATH` (R299). Returns how many keys of run A lie among the first d outputs of the merge. -/
  | smpath (ty : BitVec 3) (vb : BitVec 5) (vd : BitVec 5)
  /-- `SMERGE` (R299). Writes the stable merge of two runs. -/
  | smerge (ty : BitVec 3) (vb : BitVec 5)
  /-- `SMKV` (R299). Merges key-value pairs by key. -/
  | smkv (ty : BitVec 3) (vb : BitVec 5)
  /-- `SMSORT` (R299). Sorts the lanes of a register stably and writes their original indices. -/
  | smsort (ty : BitVec 3) (va : BitVec 5) (vd : BitVec 5)
  /-- `GXGATHER` (R255). Gathers indexed rows into the packed side. -/
  | gxgather (ty : BitVec 3) (vb : BitVec 5) (va : BitVec 5)
  /-- `GXSCAT` (R255). Scatters packed rows to indexed rows. -/
  | gxscat (ty : BitVec 3) (vb : BitVec 5) (va : BitVec 5)
  /-- `GXBINS` (R257). Places token rows into bins by atomic bumps, with overflow and drops. -/
  | gxbins (ty : BitVec 3) (vb : BitVec 5) (va : BitVec 5) (vd : BitVec 5)
  /-- `GXSTAT` (R258). Reports the outcome counts of the core's last GXBINS. -/
  | gxstat (vd : BitVec 5)
  /-- `ZDGO` (R303). Starts a weight-stream decompression job. -/
  | zdgo (vb : BitVec 5)
  /-- `ZDWAIT` (R304). Writes the status of the last job once that job has ended. -/
  | zdwait (vd : BitVec 5)
  /-- `RDSUM` (R307). Sends a vector contribution for a sum reduction in the router. -/
  | rdsum (ty : BitVec 3) (vb : BitVec 5) (va : BitVec 5)
  /-- `RDMAX` (R307). Sends a vector contribution for a max reduction in the router. -/
  | rdmax (ty : BitVec 3) (vb : BitVec 5) (va : BitVec 5)
  /-- `RDJOIN` (R306). Arms an RD join slot. -/
  | rdjoin (vb : BitVec 5)
  /-- `LEASE` (R150). Requests a lease on an engine, or returns the current handle. -/
  | lease (prio : BitVec 2) (eng : BitVec 3) (ra : BitVec 6) (rd : BitVec 6)
  /-- `LYIELD` (R152). Releases an engine only when a request waits for it. -/
  | lyield (eng : BitVec 3) (rd : BitVec 6)
  /-- `LFREE` (R153). Releases an engine, or withdraws a request for it. -/
  | lfree (eng : BitVec 3)
  /-- `LSTAT` (R154). Samples the core's lease status for an engine. -/
  | lstat (eng : BitVec 3) (rd : BitVec 6)
  /-- `BRK` (R367). Raises BREAKPOINT precisely. -/
  | brk
  /-- `TRAP` (R339). Raises USER_TRAP with code n and operand s(ra). -/
  | trap (n : BitVec 6) (ra : BitVec 6)
  /-- `DBGMARK` (R373). Sends a trace mark record when tracing is enabled. -/
  | dbgmark (ra : BitVec 6)
  /-- `QTILE` (R56). Asks the island where a logical position lies and how far it is from another. -/
  | qtile (rb : BitVec 6) (ra : BitVec 6) (rd : BitVec 6)
  /-- `QCAP` (R57). Reads the partition capacity copy. -/
  | qcap (rd : BitVec 6)
  /-- `QPWR` (R168). Reads the region's power-state copy. -/
  | qpwr (rd : BitVec 6)
  /-- `NOP` (R128). Does nothing. -/
  | nop
  /-- `TRET` (R355). Returns an island core from the handler whose frame lies at KSP. -/
  | tret
  /-- `EVWAIT` (R356). Waits until an island event is pending. -/
  | evwait
  /-- `TLBINV` (R356). Invalidates the TLB and cached table entries of one page of an ASID. -/
  | tlbinv (ra : BitVec 6)
  /-- `TLBINVA` (R356). Invalidates every TLB entry of an ASID. -/
  | tlbinva (ra : BitVec 6)
  /-- `ICINV` (R356). Invalidates code-cache and/or I-cache lines in every cluster of a partition. -/
  | icinv (ra : BitVec 6) (rd : BitVec 6)
  /-- `DCFLUSH` (R356). Writes back the dirty island cache copies of a physical range. -/
  | dcflush (ra : BitVec 6) (rd : BitVec 6)
  /-- `DCINV` (R356). Discards the island cache copies of a physical range without write-back. -/
  | dcinv (ra : BitVec 6) (rd : BitVec 6)
  /-- `HALTB` (R356). Injects a hard-stop broadcast for a partition tag. -/
  | haltb (ra : BitVec 6)
  /-- `RESUMEB` (R365). Ends the hard stop of a tag. -/
  | resumeb (ra : BitVec 6)
  /-- `SAVECTX` (R341). Starts pre-emption of a partition. -/
  | savectx (ra : BitVec 6) (rd : BitVec 6)
  /-- `LOADCTX` (R343). Restores a saved partition into the clusters that wrote it. -/
  | loadctx (ra : BitVec 6) (rd : BitVec 6)
  /-- `ADD_Q` (R129). 16-bit ADD with rd as destination and first source. -/
  | addQ (ra : BitVec 4) (rd : BitVec 4)
  /-- `SUB_Q` (R129). 16-bit SUB. -/
  | subQ (ra : BitVec 4) (rd : BitVec 4)
  /-- `AND_Q` (R129). 16-bit AND. -/
  | andQ (ra : BitVec 4) (rd : BitVec 4)
  /-- `OR_Q` (R129). 16-bit OR. -/
  | orQ (ra : BitVec 4) (rd : BitVec 4)
  /-- `MOV_Q` (R129). Copies a register. -/
  | movQ (ra : BitVec 4) (rd : BitVec 4)
  /-- `MOVI_Q` (R129). Writes a signed 6-bit immediate. -/
  | moviQ (imm : BitVec 6) (rd : BitVec 4)
  /-- `ADDI_Q` (R129). Adds a signed 6-bit immediate to rd. -/
  | addiQ (imm : BitVec 6) (rd : BitVec 4)
  /-- `SHLI_Q` (R129). Shifts rd left by a constant. -/
  | shliQ (n : BitVec 6) (rd : BitVec 4)
  /-- `SHRI_Q` (R129). Shifts rd right logically by a constant. -/
  | shriQ (n : BitVec 6) (rd : BitVec 4)
  /-- `LDD_Q` (R129). 16-bit doubleword load with an offset of 8·ext. -/
  | lddQ (ext : BitVec 2) (ra : BitVec 4) (rd : BitVec 4)
  /-- `STD_Q` (R129). 16-bit doubleword store. -/
  | stdQ (ext : BitVec 2) (ra : BitVec 4) (rd : BitVec 4)
  /-- `LDW_Q` (R129). 16-bit sign-extending word load with an offset of 4·ext. -/
  | ldwQ (ext : BitVec 2) (ra : BitVec 4) (rd : BitVec 4)
  /-- `STW_Q` (R129). 16-bit word store. -/
  | stwQ (ext : BitVec 2) (ra : BitVec 4) (rd : BitVec 4)
  /-- `BEZ_Q` (R129). Branches when rd is zero. -/
  | bezQ (imm : BitVec 6) (rd : BitVec 4)
  /-- `BNZ_Q` (R129). Branches when rd is nonzero. -/
  | bnzQ (imm : BitVec 6) (rd : BitVec 4)
  /-- `J_Q` (R129). Short jump by off10 halfwords. -/
  | jQ (imm : BitVec 10)
  /-- `JR_Q` (R129). Jumps to s(rd) with no link. -/
  | jrQ (rd : BitVec 4)
  /-- `DONE_Q` (R129). 16-bit DONE. -/
  | doneQ
  /-- `BRK_Q` (R367). 16-bit BRK. -/
  | brkQ
  /-- `NOP_Q` (R129). 16-bit NOP. -/
  | nopQ
  /-- `POWER_ON_RESET` (R386). Power-on reset: the module brings up its rails, firmware, maps, memory, links and host ports in order. -/
  | powerOnReset
  /-- `DOORBELL` (R33). A host write of TAIL lets the sequencer read work records. -/
  | doorbell (q tail : Nat)
  /-- `CHEAD_WRITE` (R34). A host write of CHEAD frees completion-ring room, so dispatch may resume. -/
  | cheadWrite (q chead : Nat)
  /-- `TEARDOWN` (R45). CMD 1 drains the queue, discards unstarted items and masks started launches. -/
  | teardown (q : Nat)
  /-- `RESET` (R46). CMD 2 drains the queue as TEARDOWN does, then reopens it with CONSUMED and DONEH at TAIL. -/
  | reset (q : Nat)
  /-- `REPLAY` (R47). CMD 3 rewrites the kept completion records after CHEAD, or a KIND 7 record first when some are lost. -/
  | replay (q : Nat)
  /-- `ABORT` (R45). CMD 4 ends the draining queue's running activations and writes its KIND 6 or 8 record. -/
  | abort (q : Nat)
  /-- `WORK_RECORD_READ` (R33). The sequencer reads one work record, checks its HSEQ and refuses a bad KIND or reserved field. -/
  | workRecordRead (q : Nat)
  /-- `ITEM_DISPATCH` (R44). On its round-robin turn, a tenant dispatches one item when its balance or a borrow covers the cost. -/
  | itemDispatch (region : Nat)
  /-- `TOKEN_REFILL` (R42). Every 2^16 island router cycles, each tenant's balance is refilled less the debt withheld. -/
  | tokenRefill (region : Nat)
  /-- `ROUTE_QUIET` (R62). Once a class is quiet, the island writes its route entries and releases injection. -/
  | routeQuiet (region : Nat)
  /-- `ROUTE_QUIET_TIMEOUT` (R62). The 2^20-cycle quiet bound passes: the mould is refused, or a repair drops the class's messages. -/
  | routeQuietTimeout (region : Nat)
  /-- `LAUNCH_START` (R28). With every core loaded and earlier launches started, the sequencer assigns the launch id and sends START words and seeds. -/
  | launchStart (q : Nat)
  /-- `CLUSTER_START` (R29). A START word reaches a cluster, which takes its held messages in queue order. -/
  | clusterStart (pos : Nat)
  /-- `COMPLETION_SIGNAL` (R36). The sequencer counts the signals of a POST or PPOST word toward EXPECT. -/
  | completionSignal (region : Nat)
  /-- `ENTRY_INVALIDATE` (R36). Once a core of a completed or torn-down launch is idle, its entries are invalidated and its engines freed. -/
  | entryInvalidate (k : Nat)
  /-- `NODE_COMPLETE` (R38). A graph node completes and fires each chosen successor. -/
  | nodeComplete (g n : Nat)
  /-- `CONDITION_READ` (R40). A conditional, switch or loop node's condition word is read and chooses the successors or the next pass. -/
  | conditionRead (g n : Nat)
  /-- `COPY_NODE_DONE` (R39). The island DMA of a copy node has written every byte. -/
  | copyNodeDone (g n : Nat)
  /-- `DRAIN_COMPLETE` (R45). When no activation of a draining queue runs, the sequencer writes the KIND 6 or 8 record. -/
  | drainComplete (q : Nat)
  /-- `LINK_FAULT` (R63). A link exhausts its retry budget: it is marked broken and its stranded messages are dropped. -/
  | linkFault (pos dir : Nat)
  /-- `ROUTE_REPAIR` (R64). With all classes quiet, the island repairs routes by spare lane, detour or retirement, and installs them. -/
  | routeRepair (tag : Nat)
  /-- `ROUTER_FORWARD` (R58). A router forwards a message by exception entry or XY order, or delivers it locally. -/
  | routerForward (i : Nat)
  /-- `ISLAND_QTILE` (R56). The island answers a QTILE request from its maps. -/
  | islandQtile (region : Nat)
  /-- `CODE_CACHE_FILL` (R68). A fill reply places a 64-byte line in the code cache. -/
  | codeCacheFill (pos : Nat)
  /-- `ACTIVATION_START` (R131). The scheduler selects an eligible READY entry of an idle core and starts its activation. -/
  | activationStart (k : Nat)
  /-- `MESSAGE_DEPOSIT` (R17). At the head of its VC queue, a message has its prelude run and its payload deposited, held or dropped. -/
  | messageDeposit (pos vc : Nat)
  /-- `DISPATCH_ACCEPT` (R144). The bay accepts the head operation of a core's dispatch queue. -/
  | dispatchAccept (pos c : Nat)
  /-- `ENGINE_OP_COMPLETE` (R94). An engine operation writes its last bytes, fills its words and merges its flags. -/
  | engineOpComplete (pos eng : Nat)
  /-- `ENGINE_FAULT` (R266). An engine operation meets a fault and stops at its progress index, with PIDX VALID. -/
  | engineFault (pos eng : Nat)
  /-- `LEASE_GRANT` (R149). An engine wake or scrub ends and the lease is granted, with the handle written. -/
  | leaseGrant (pos eng : Nat)
  /-- `GRACE_EXPIRY` (R157). A grace window ends and the lease is forcibly evicted. -/
  | graceExpiry (pos eng progress : Nat)
  /-- `LEASE_RELEASE` (R152). Once the core's operations on an engine complete, a yielded or freed lease is released. -/
  | leaseRelease (pos eng : Nat)
  /-- `ENGINE_GATE` (R149). An engine left unleased for 30,000 router cycles returns to the gated state. -/
  | engineGate (pos eng : Nat)
  /-- `POWER_EVALUATION` (R162). Every 2^14 router cycles, the controller measures P, updates the chest and sets BOOST and HOLD. -/
  | powerEvaluation (region milliwatts degrees : Nat)
  /-- `THERMAL_TRIP` (R164). A sensor at 110 °C or more makes the island hard-stop the region's clusters. -/
  | thermalTrip (region degrees : Nat)
  /-- `OPERATING_POINT_CHANGE` (R160). The controller starts a point change on an idle core. -/
  | operatingPointChange (k point : Nat)
  /-- `OPERATING_POINT_DONE` (R160). A point change completes and the core may be selected again. -/
  | operatingPointDone (k : Nat)
  /-- `RAIL_EVALUATION` (R166). Every 10 µs, the rail controller steps the rail toward its highest vote. -/
  | railEvaluation (rail : Nat)
  /-- `VOTE_WITHDRAW` (R166). The island confirms a region's last activation retired, and its vote falls to 0.85 V. -/
  | voteWithdraw (region : Nat)
  /-- `LDO_ACKNOWLEDGE` (R166). The remaining voter's LDOs acknowledge the lower input. -/
  | ldoAcknowledge (rail : Nat)
  /-- `STACK_THROTTLE` (R167). A stack at 85 °C caps its bandwidth and scales every share. -/
  | stackThrottle (stack degrees : Nat)
  /-- `STACK_RESTORE` (R167). A stack cooled to 80 °C restores its bandwidth and shares. -/
  | stackRestore (stack degrees : Nat)
  /-- `SEND_INJECT` (R175). The send port waits for earlier region stores, reads the payload and injects the message. -/
  | sendInject (k : Nat)
  /-- `REQUEST_SERVE` (R185). A request queue serves a VC2 request at its bank and injects the reply. -/
  | requestServe (u : ServeAt)
  /-- `WATCHPOINT_STOP` (R395). In the cycle after an ACTION 2 match, the router starts a cluster stop over the barrier partners. -/
  | watchpointStop (pos : Nat)
  /-- `REPLY_SINK` (R184). A reply is sunk in its slot, writing its destination and freeing the slot. -/
  | replySink (pos : Nat)
  /-- `ISLAND_FORWARD` (R181). The island translates a request and forwards it, or holds it for a walk. -/
  | islandForward (region : Nat)
  /-- `WALK_COMPLETE` (R200). A table walk ends; its requests proceed or fault, and waiting requests retry. -/
  | walkComplete (region i : Nat)
  /-- `STORE_RELEASE` (R314). The store buffer releases its head store once its order conditions hold. -/
  | storeRelease (core : CoreRef)
  /-- `RECORD_START` (R239). A copy channel starts its next record, or parks on OWN = 0, or faults it. -/
  | recordStart (pos ch : Nat)
  /-- `SECTOR_COMPLETE` (R240). A copy sector completes; after the last one, the record is written back, notified and chained. -/
  | sectorComplete (pos ch sector : Nat)
  /-- `SECTOR_FAULT` (R242). A copy sector access fails; no further sector is issued. -/
  | sectorFault (pos ch sector : Nat)
  /-- `BURST_START` (R250). The island starts burst descriptor HEAD mod 16 while HEAD differs from TAIL. -/
  | burstStart (port : Nat)
  /-- `HEADBOX_BLOCK_SEND` (R251). A headbox port sends the next block of a burst as a VC4 message. -/
  | headboxBlockSend (port : Nat)
  /-- `HEADBOX_BLOCK_TAKE` (R252). A cluster's distributor pattern takes a passing block and writes it as an engine write. -/
  | headboxBlockTake (pos i : Nat)
  /-- `RD_CONTRIBUTION` (R308). The RD engine combines a matching contribution into its slot's round. -/
  | rdContribution (pos vc : Nat)
  /-- `ZD_JOB_END` (R303). A decompression job ends at END, at a limit or at a failure. -/
  | zdJobEnd (pos : Nat)
  /-- `FABRIC_FLAG_ARRIVE` (R330). A release flag is performed, acknowledged again or discarded by its sequence window. -/
  | fabricFlagArrive (source : FlagSource) (seq addr : Nat) (data : List (BitVec 8))
  /-- `FABRIC_RESEND` (R329). A fabric store, load or flag that lost its path is sent again on another path. -/
  | fabricResend (i : Nat)
  /-- `TRAP_TAKE` (R335). A core takes a due cause: it enters TRAPPED, writes its frame and reports it to the island. -/
  | trapTake (k : Nat)
  /-- `RESUME_RETRY` (R338). RESUME action 0 re-executes or re-issues what trapped. -/
  | resumeRetry (k : Nat)
  /-- `RESUME_NEXT` (R338). RESUME action 1 continues after the trapping instruction, or at BPC. -/
  | resumeNext (k : Nat)
  /-- `RESUME_GOTO` (R338). RESUME action 2 writes PC to s63 and continues at the target. -/
  | resumeGoto (k : Nat) (target : BitVec 64)
  /-- `RESUME_END` (R338). RESUME action 3 abandons outstanding work and ends the activation. -/
  | resumeEnd (k : Nat) (fail : Bool)
  /-- `PREEMPT_DRAIN_END` (R341). Once the partition has drained, every cluster writes its image and the context becomes SAVED. -/
  | preemptDrainEnd (tag : Nat) (torn : List Nat)
  /-- `LOCKSTEP_CHECKPOINT` (R349). A pair copies its changed state to the shadow and releases held stores and sends. -/
  | lockstepCheckpoint (k : Nat)
  /-- `LOCKSTEP_MISMATCH` (R351). A pair's compare fails; it stops issuing, or a second mismatch raises LOCKSTEP_HARD. -/
  | lockstepMismatch (k : Nat)
  /-- `LOCKSTEP_ROLLBACK` (R351). With the operations since the checkpoint complete, the pair restores the shadow and continues. -/
  | lockstepRollback (k : Nat)
  /-- `ISLAND_TRAP_ENTRY` (R354). An island core pushes a frame and enters the handler of a trap. -/
  | islandTrapEntry (k cause : Nat) (addr : BitVec 64)
  /-- `ISLAND_EVENT_ENTRY` (R354). An island core with events enabled takes the lowest pending event at a boundary. -/
  | islandEventEntry (k : Nat)
  /-- `ISLAND_TIMER` (R353). KTIME reaches KTCMP and sets the timer event. -/
  | islandTimer (region : Nat) (cycles : Nat)
  /-- `KTCMP_WRITE` (R353). Writing KTCMP above KTIME clears the timer event. -/
  | ktcmpWrite (k : Nat) (v : BitVec 64)
  /-- `WEDGED_CORE_RESTART` (R354). Island firmware restarts a wedged core through the hub. -/
  | wedgedCoreRestart (k : Nat) (addr : BitVec 64)
  /-- `HUB_READ` (R358). The hub reads a stopped core's or a cluster's state. -/
  | hubRead (region : Nat) (place : HubPlace)
  /-- `HUB_WRITE` (R358). The hub writes a stopped core's or a cluster's state, or a watchpoint register. -/
  | hubWrite (region : Nat) (place : HubPlace) (v : BitVec 64)
  /-- `SOFT_STOP` (R360). A hub request withholds every selection in one cluster. -/
  | softStop (pos : Nat)
  /-- `SOFT_STOP_COMPLETE` (R360). All four cores of a soft-stopped cluster are idle and the stop is reported complete. -/
  | softStopComplete (pos : Nat)
  /-- `CLUSTER_STOP` (R363). A hub request stops a cluster and its barrier partners. -/
  | clusterStop (pos mask : Nat)
  /-- `STEP` (R364). A hub request makes one stopped core issue one instruction. -/
  | step (k : Nat)
  /-- `HUB_RESUME` (R365). A hub resume ends a soft stop or a cluster stop for its recorded set. -/
  | hubResume (pos : Nat)
  /-- `HARD_STOP_RECEIVE` (R361). A router receives a hard-stop or cluster-stop broadcast. -/
  | hardStopReceive (pos i : Nat)
  /-- `CORE_STOP` (R362). A core stops at its next boundary and the hub writes its stop record. -/
  | coreStop (k skid : Nat)
  /-- `ROUTER_COUNTER_WRITE` (R372). Every 2^20 cycles, a router writes its SENT and STALL counter block. -/
  | routerCounterWrite (pos : Nat)
  /-- `HOST_WRITE` (R381). A host write to a queue page, event page or aperture is performed in port order. -/
  | hostWrite (port : Nat) (target : HostTarget) (addr : Nat) (data : List (BitVec 8))
  /-- `HOST_READ` (R379). A host read of a BAR returns its data, or all ones. -/
  | hostRead (port : Nat) (target : HostTarget) (addr n : Nat)
  /-- `LINK_FRAME_RECEIVE` (R382). A Phoba Link frame is received, CRC-checked and acknowledged. -/
  | linkFrameReceive (link lseq ack : Nat) (crc : Bool) (flit : Option (BitVec 3 × BitVec 512))
  /-- `LINK_REPLAY` (R382). Unacknowledged frames are replayed after the replay time. -/
  | linkReplay (link : Nat)
  /-- `FABRIC_REQUEST_RECEIVE` (R383). A fabric endpoint checks a request against its pairings and forwards or drops it. -/
  | fabricRequestReceive (port wafer srcTag kind addr : Nat) (data : List (BitVec 8))
  /-- `QUOTE_REQUEST` (R385). An attestation quote over M0–M7 and a nonce is signed and returned. -/
  | quoteRequest (nonce : BitVec 512)
  /-- `MEASUREMENT_EXTEND` (R385). A measurement register is extended by SHA-512. -/
  | measurementExtend (i : Nat) (d : BitVec 512)
  /-- `RESTORE_COMPLETE` (R343). The restore that LOADCTX started finishes: captured messages and send entries are put back, channels and headbox ports restart, cores take their RACT or continue, and STATUS becomes RESUMED. -/
  | restoreComplete (tag : Nat)
  deriving DecidableEq, Repr

end Sys2Proof
end

