-- ==== Sys2Proof/WellFormed.lean ====
section
/-! DEFINITION. The values of operands that an instruction does not allow although its fields can hold them
(04: R82; 13: R261, R262, R275, R279; 14: R284, R286-R299, R306, R307; 15: R310). Everything else a field can hold is
an instruction. A row without an encoding has no ill-formed words. -/

namespace Sys2Proof

/-- A group register field: a multiple of 4 from 4 to 28 (12: R254, 14: R303). -/
def groupReg (vb : BitVec 5) : Bool := vb.toNat % 4 = 0 && 4 ≤ vb.toNat && vb.toNat ≤ 28

/-- Lanes of a type with a fixed lane width; 0 for the format types, whose width a format register gives
(14: R283). -/
def fixedLanes (ty : BitVec 3) : Nat :=
  match ty.toNat with
  | 0 => 256
  | 1 => 128
  | 2 => 64
  | 3 => 64
  | 4 => 128
  | 5 => 128
  | _ => 0

/-- VCVT's part lies below the ratio of the lane counts where both types fix them (14: R291). With a format type the
check needs the register and is made at issue. -/
def convPart (dst src part : BitVec 3) : Bool :=
  let a := fixedLanes src
  let b := fixedLanes dst
  a = 0 || b = 0 || part.toNat * min a b < max a b

/-- The operands are ones the instruction allows. -/
def Instr.wf : Instr → Bool
  | .add .. => true
  | .sub .. => true
  | .and .. => true
  | .or .. => true
  | .xor .. => true
  | .andn .. => true
  | .shl .. => true
  | .shr .. => true
  | .sar .. => true
  | .ror .. => true
  | .mul .. => true
  | .mulh .. => true
  | .mulhu .. => true
  | .div .. => true
  | .divu .. => true
  | .rem .. => true
  | .remu .. => true
  | .min .. => true
  | .max .. => true
  | .minu .. => true
  | .maxu .. => true
  | .slt .. => true
  | .sltu .. => true
  | .seq .. => true
  | .sel .. => true
  | .clz .. => true
  | .ctz .. => true
  | .popc .. => true
  | .bswap .. => true
  | .sextb .. => true
  | .sexth .. => true
  | .sextw .. => true
  | .zextw .. => true
  | .bext .. => true
  | .bdep .. => true
  | .addi .. => true
  | .andi .. => true
  | .ori .. => true
  | .shli .. => true
  | .shri .. => true
  | .sari .. => true
  | .rori .. => true
  | .fadd .. => true
  | .fsub .. => true
  | .fmul .. => true
  | .fdiv .. => true
  | .ffma .. => true
  | .fmin .. => true
  | .fmax .. => true
  | .fsqrt .. => true
  | .fcmpEq .. => true
  | .fcmpLt .. => true
  | .fcmpLe .. => true
  | .fcmpUnord .. => true
  | .fcvtF32S64 .. => true
  | .fcvtS64F32 .. => true
  | .fcvtF32Bf16 .. => true
  | .fcvtBf16F32 .. => true
  | .fcvtF32F16 .. => true
  | .fcvtF16F32 .. => true
  | .fcvtF32Fmt .. => true
  | .fcvtFmtF32 .. => true
  | .fneg .. => true
  | .fabs .. => true
  | .fcopysign .. => true
  | .fclass .. => true
  | .movk .. => true
  | .addk .. => true
  | .beq .. => true
  | .bne .. => true
  | .blt .. => true
  | .bge .. => true
  | .bltu .. => true
  | .bgeu .. => true
  | .j .. => true
  | .jl .. => true
  | .jr .. => true
  | .loop .. => true
  | .done => true
  | .doneRepost => true
  | .bfe .. => true
  | .waitfe .. => true
  | .csrw .. => true
  | .csrs .. => true
  | .csrc .. => true
  | .csrr .. => true
  | .ldb .. => true
  | .ldbu .. => true
  | .ldh .. => true
  | .ldhu .. => true
  | .ldw .. => true
  | .ldwu .. => true
  | .ldd .. => true
  | .stb .. => true
  | .sth .. => true
  | .stw .. => true
  | .std .. => true
  | .lds .. => true
  | .ldv .. => true
  | .stv .. => true
  | .bitld .. => true
  | .bitst .. => true
  | .ldr .. => true
  | .lde .. => true
  | .stf .. => true
  | .setf .. => true
  | .sete .. => true
  | .setfRs .. => true
  | .seteRs .. => true
  | .amo .. => true
  | .amoxXchg .. => true
  | .amoxCas .. => true
  | .amofFadd32 .. => true
  | .amofFmaxabs .. => true
  | .amofBumplim .. => true
  | .fence sc => decide (sc.toNat < 9)
  | .fencer _ _ sc => decide (sc.toNat < 9)
  | .tfence => true
  | .ldacq _ sc _ _ => decide (sc.toNat < 9)
  | .strel _ sc _ _ => decide (sc.toNat < 9)
  | .send .. => true
  | .sendv .. => true
  | .sendp .. => true
  | .post .. => true
  | .hmask .. => true
  | .arradd .. => true
  | .arrwait .. => true
  | .arrreset .. => true
  | .cbarArrive .. => true
  | .cbarWait .. => true
  | .cbarArrivewait .. => true
  | .cpygo .. => true
  | .cpywait .. => true
  | .cpystat .. => true
  | .tmset .. => true
  | .tmget .. => true
  | .waitmask .. => true
  | .testmask .. => true
  | .hbset .. => true
  | .fmtset .. => true
  | .mldw pr fmt _ _ => decide (pr.toNat % 2 = 0) && decide (fmt.toNat ≠ 0)
  | .mmul pr _ fmt _ _ _ => decide (pr.toNat % 2 = 0) && decide (fmt.toNat ≠ 0)
  | .mream pr fmt _ _ _ => decide (pr.toNat % 2 = 0) && decide (fmt.toNat ≠ 0)
  | .mrmrg src dst => decide (dst ≠ src)
  | .mdrain .. => true
  | .mstore pr _ _ _ => decide (pr.toNat % 2 = 0)
  | .mclr tgt => decide (tgt.toNat < 7)
  | .mstat .. => true
  | .vadd ty _ _ _ => decide (ty.toNat < 6)
  | .vsub ty _ _ _ => decide (ty.toNat < 6)
  | .vmul ty _ _ _ => decide (ty.toNat < 6)
  | .vfma ty _ _ _ => decide (ty.toNat < 6)
  | .vmin ty _ _ _ => decide (ty.toNat < 6)
  | .vmax ty _ _ _ => decide (ty.toNat < 6)
  | .vabs ty _ _ => decide (ty.toNat < 6)
  | .vneg ty _ _ => decide (ty.toNat < 6)
  | .vand .. => true
  | .vor .. => true
  | .vxor .. => true
  | .vandn .. => true
  | .vshl ty _ _ _ => decide (ty.toNat < 3)
  | .vshr ty _ _ _ => decide (ty.toNat < 3)
  | .vsar ty _ _ _ => decide (ty.toNat < 3)
  | .vnot .. => true
  | .vcmp cond ty _ _ _ => decide (ty.toNat < 6) && decide ((cond.toNat < 6 ∨ ty.toNat < 3))
  | .vsel .. => true
  | .vpermx .. => true
  | .vbcast .. => true
  | .vslideup .. => true
  | .vslidedn .. => true
  | .vzip .. => true
  | .vunzip .. => true
  | .viota ty _ => decide (ty.toNat < 3)
  | .vcvt dst src part _ _ _ => convPart dst src part
  | .vred _ ty _ _ => decide (ty.toNat < 6)
  | .ldtm .. => true
  | .sttm .. => true
  | .ldstr .. => true
  | .ststr .. => true
  | .ldgi .. => true
  | .stsi .. => true
  | .ldfe .. => true
  | .vmovls .. => true
  | .vmovsl .. => true
  | .exp ty _ _ => decide ((3 ≤ ty.toNat ∧ ty.toNat < 6))
  | .exp2 ty _ _ => decide ((3 ≤ ty.toNat ∧ ty.toNat < 6))
  | .log2 ty _ _ => decide ((3 ≤ ty.toNat ∧ ty.toNat < 6))
  | .rsqrt ty _ _ => decide ((3 ≤ ty.toNat ∧ ty.toNat < 6))
  | .rcp ty _ _ => decide ((3 ≤ ty.toNat ∧ ty.toNat < 6))
  | .tanh ty _ _ => decide ((3 ≤ ty.toNat ∧ ty.toNat < 6))
  | .sigmoid ty _ _ => decide ((3 ≤ ty.toNat ∧ ty.toNat < 6))
  | .rowmaxsub ty _ _ => decide ((3 ≤ ty.toNat ∧ ty.toNat < 6))
  | .smpath ty _ _ => decide ((1 ≤ ty.toNat ∧ ty.toNat < 4))
  | .smerge ty _ => decide ((1 ≤ ty.toNat ∧ ty.toNat < 4))
  | .smkv ty _ => decide ((2 ≤ ty.toNat ∧ ty.toNat < 4))
  | .smsort ty _ vd => decide ((1 ≤ ty.toNat ∧ ty.toNat < 4)) && decide (vd.toNat < 31)
  | .gxgather ty .. => decide ((1 ≤ ty.toNat ∧ ty.toNat < 3))
  | .gxscat ty .. => decide ((1 ≤ ty.toNat ∧ ty.toNat < 3))
  | .gxbins ty .. => decide ((1 ≤ ty.toNat ∧ ty.toNat < 3))
  | .gxstat .. => true
  | .zdgo vb => groupReg vb
  | .zdwait .. => true
  | .rdsum ty _ _ => decide ((2 ≤ ty.toNat ∧ ty.toNat < 5))
  | .rdmax ty _ _ => decide ((2 ≤ ty.toNat ∧ ty.toNat < 5))
  | .rdjoin vb => decide ((vb.toNat % 2 = 0 ∧ 2 ≤ vb.toNat))
  | .lease .. => true
  | .lyield .. => true
  | .lfree .. => true
  | .lstat .. => true
  | .brk => true
  | .trap .. => true
  | .dbgmark .. => true
  | .qtile .. => true
  | .qcap .. => true
  | .qpwr .. => true
  | .nop => true
  | .tret => true
  | .evwait => true
  | .tlbinv .. => true
  | .tlbinva .. => true
  | .icinv .. => true
  | .dcflush .. => true
  | .dcinv .. => true
  | .haltb .. => true
  | .resumeb .. => true
  | .savectx .. => true
  | .loadctx .. => true
  | .addQ .. => true
  | .subQ .. => true
  | .andQ .. => true
  | .orQ .. => true
  | .movQ .. => true
  | .moviQ .. => true
  | .addiQ .. => true
  | .shliQ .. => true
  | .shriQ .. => true
  | .lddQ .. => true
  | .stdQ .. => true
  | .ldwQ .. => true
  | .stwQ .. => true
  | .bezQ .. => true
  | .bnzQ .. => true
  | .jQ .. => true
  | .jrQ .. => true
  | .doneQ => true
  | .brkQ => true
  | .nopQ => true
  | .powerOnReset => true
  | .doorbell .. => true
  | .cheadWrite .. => true
  | .teardown .. => true
  | .reset .. => true
  | .replay .. => true
  | .abort .. => true
  | .workRecordRead .. => true
  | .itemDispatch .. => true
  | .tokenRefill .. => true
  | .routeQuiet .. => true
  | .routeQuietTimeout .. => true
  | .launchStart .. => true
  | .clusterStart .. => true
  | .completionSignal .. => true
  | .entryInvalidate .. => true
  | .nodeComplete .. => true
  | .conditionRead .. => true
  | .copyNodeDone .. => true
  | .drainComplete .. => true
  | .linkFault .. => true
  | .routeRepair .. => true
  | .routerForward .. => true
  | .islandQtile .. => true
  | .codeCacheFill .. => true
  | .activationStart .. => true
  | .messageDeposit .. => true
  | .dispatchAccept .. => true
  | .engineOpComplete .. => true
  | .engineFault .. => true
  | .leaseGrant .. => true
  | .graceExpiry .. => true
  | .leaseRelease .. => true
  | .engineGate .. => true
  | .powerEvaluation .. => true
  | .thermalTrip .. => true
  | .operatingPointChange .. => true
  | .operatingPointDone .. => true
  | .railEvaluation .. => true
  | .voteWithdraw .. => true
  | .ldoAcknowledge .. => true
  | .stackThrottle .. => true
  | .stackRestore .. => true
  | .sendInject .. => true
  | .requestServe .. => true
  | .watchpointStop .. => true
  | .replySink .. => true
  | .islandForward .. => true
  | .walkComplete .. => true
  | .storeRelease .. => true
  | .recordStart .. => true
  | .sectorComplete .. => true
  | .sectorFault .. => true
  | .burstStart .. => true
  | .headboxBlockSend .. => true
  | .headboxBlockTake .. => true
  | .rdContribution .. => true
  | .zdJobEnd .. => true
  | .fabricFlagArrive .. => true
  | .fabricResend .. => true
  | .trapTake .. => true
  | .resumeRetry .. => true
  | .resumeNext .. => true
  | .resumeGoto .. => true
  | .resumeEnd .. => true
  | .preemptDrainEnd .. => true
  | .lockstepCheckpoint .. => true
  | .lockstepMismatch .. => true
  | .lockstepRollback .. => true
  | .islandTrapEntry .. => true
  | .islandEventEntry .. => true
  | .islandTimer .. => true
  | .ktcmpWrite .. => true
  | .wedgedCoreRestart .. => true
  | .hubRead .. => true
  | .hubWrite .. => true
  | .softStop .. => true
  | .softStopComplete .. => true
  | .clusterStop .. => true
  | .step .. => true
  | .hubResume .. => true
  | .hardStopReceive .. => true
  | .coreStop .. => true
  | .routerCounterWrite .. => true
  | .hostWrite .. => true
  | .hostRead .. => true
  | .linkFrameReceive .. => true
  | .linkReplay .. => true
  | .fabricRequestReceive .. => true
  | .quoteRequest .. => true
  | .measurementExtend .. => true
  | .restoreComplete .. => true

end Sys2Proof
end

