-- ==== Sys2Proof/Decode.lean ====
section
/-! DEFINITION. Decoding halfwords into instructions (04: R71-R82) and, after it, the encoder. A halfword's two high
bits give its class (R71); a 32-bit instruction's payload P is made of the low 14 bits of its two halfwords (R74).
What is not an instruction is refused by name; the core turns the refusal into ILLEGAL_OP or ILLEGAL_ENTRY (R82). -/

namespace Sys2Proof

/-- Why a piece of code is not an instruction (04: R73, R82). -/
inductive Reject where
  /-- Fewer bytes than the instruction needs. -/
  | truncated
  /-- A continuation halfword where an instruction starts (R72). -/
  | continuation
  /-- A first halfword whose second halfword is not a continuation (R73, step 4). -/
  | noContinuation
  /-- op5 0 or 21-31 (R76). -/
  | reservedOp5
  /-- Major 0x2C or 0x2D (R79). -/
  | reservedMajor
  /-- Major 0x5B, which only a message front executes (R82). -/
  | preludeOnly
  /-- A fn, sub, target or selector that is reserved or not listed (R82). -/
  | reservedSelector
  /-- A must-be-zero bit or an unused field that is nonzero (R82). -/
  | mustBeZero
  /-- A scope code 9-63 (R82). -/
  | scopeCode
  /-- A type value that the instruction does not allow (R82, R284; for GX before the lease checks, log 132). -/
  | vectorType
  /-- An odd first register of an operand pair (R262). -/
  | oddPair
  /-- Format code 0 where it is not allowed (R261). -/
  | formatCode
  /-- MRMRG with one bank twice (R275). -/
  | sameBank
  /-- A group register field that is not one (R303, R306). -/
  | groupRegister
  /-- VCVT with a part not below the ratio (R291). -/
  | conversionPart
  deriving DecidableEq, Repr

/-- The `n` bits of `p` from bit `lo` up. -/
def field (p lo n : Nat) : Nat := p / 2 ^ lo % 2 ^ n

/-- The `n` bits of `p` from bit `lo` up, as a field of an instruction. -/
def slice (p lo n : Nat) : BitVec n := BitVec.ofNat n (p / 2 ^ lo)

/-- Accept an instruction whose operands are allowed, else refuse it for `r`. -/
def accept (ok : Bool) (r : Reject) (i : Instr) : Except Reject Instr := if ok then .ok i else .error r

/-- Major 0x00: ADD (04: R79-R81). -/
def decodeMajor00 (p : Nat) : Except Reject Instr :=
  .ok (.add (slice p 27 1) (slice p 25 2) (slice p 19 6) (slice p 13 6) (slice p 7 6))

/-- Major 0x01: SUB (04: R79-R81). -/
def decodeMajor01 (p : Nat) : Except Reject Instr :=
  .ok (.sub (slice p 27 1) (slice p 25 2) (slice p 19 6) (slice p 13 6) (slice p 7 6))

/-- Major 0x02: AND (04: R79-R81). -/
def decodeMajor02 (p : Nat) : Except Reject Instr :=
  .ok (.and (slice p 27 1) (slice p 25 2) (slice p 19 6) (slice p 13 6) (slice p 7 6))

/-- Major 0x03: OR (04: R79-R81). -/
def decodeMajor03 (p : Nat) : Except Reject Instr :=
  .ok (.or (slice p 27 1) (slice p 25 2) (slice p 19 6) (slice p 13 6) (slice p 7 6))

/-- Major 0x04: XOR (04: R79-R81). -/
def decodeMajor04 (p : Nat) : Except Reject Instr :=
  .ok (.xor (slice p 27 1) (slice p 25 2) (slice p 19 6) (slice p 13 6) (slice p 7 6))

/-- Major 0x05: ANDN (04: R79-R81). -/
def decodeMajor05 (p : Nat) : Except Reject Instr :=
  .ok (.andn (slice p 27 1) (slice p 25 2) (slice p 19 6) (slice p 13 6) (slice p 7 6))

/-- Major 0x06: SHL (04: R79-R81). -/
def decodeMajor06 (p : Nat) : Except Reject Instr :=
  .ok (.shl (slice p 27 1) (slice p 25 2) (slice p 19 6) (slice p 13 6) (slice p 7 6))

/-- Major 0x07: SHR (04: R79-R81). -/
def decodeMajor07 (p : Nat) : Except Reject Instr :=
  .ok (.shr (slice p 27 1) (slice p 25 2) (slice p 19 6) (slice p 13 6) (slice p 7 6))

/-- Major 0x08: SAR (04: R79-R81). -/
def decodeMajor08 (p : Nat) : Except Reject Instr :=
  .ok (.sar (slice p 27 1) (slice p 25 2) (slice p 19 6) (slice p 13 6) (slice p 7 6))

/-- Major 0x09: ROR (04: R79-R81). -/
def decodeMajor09 (p : Nat) : Except Reject Instr :=
  .ok (.ror (slice p 27 1) (slice p 25 2) (slice p 19 6) (slice p 13 6) (slice p 7 6))

/-- Major 0x0A: MUL (04: R79-R81). -/
def decodeMajor0A (p : Nat) : Except Reject Instr :=
  .ok (.mul (slice p 27 1) (slice p 25 2) (slice p 19 6) (slice p 13 6) (slice p 7 6))

/-- Major 0x0B: MULH (04: R79-R81). -/
def decodeMajor0B (p : Nat) : Except Reject Instr :=
  .ok (.mulh (slice p 27 1) (slice p 25 2) (slice p 19 6) (slice p 13 6) (slice p 7 6))

/-- Major 0x0C: MULHU (04: R79-R81). -/
def decodeMajor0C (p : Nat) : Except Reject Instr :=
  .ok (.mulhu (slice p 27 1) (slice p 25 2) (slice p 19 6) (slice p 13 6) (slice p 7 6))

/-- Major 0x0D: DIV (04: R79-R81). -/
def decodeMajor0D (p : Nat) : Except Reject Instr :=
  .ok (.div (slice p 27 1) (slice p 25 2) (slice p 19 6) (slice p 13 6) (slice p 7 6))

/-- Major 0x0E: DIVU (04: R79-R81). -/
def decodeMajor0E (p : Nat) : Except Reject Instr :=
  .ok (.divu (slice p 27 1) (slice p 25 2) (slice p 19 6) (slice p 13 6) (slice p 7 6))

/-- Major 0x0F: REM (04: R79-R81). -/
def decodeMajor0F (p : Nat) : Except Reject Instr :=
  .ok (.rem (slice p 27 1) (slice p 25 2) (slice p 19 6) (slice p 13 6) (slice p 7 6))

/-- Major 0x10: REMU (04: R79-R81). -/
def decodeMajor10 (p : Nat) : Except Reject Instr :=
  .ok (.remu (slice p 27 1) (slice p 25 2) (slice p 19 6) (slice p 13 6) (slice p 7 6))

/-- Major 0x11: MIN (04: R79-R81). -/
def decodeMajor11 (p : Nat) : Except Reject Instr :=
  .ok (.min (slice p 27 1) (slice p 25 2) (slice p 19 6) (slice p 13 6) (slice p 7 6))

/-- Major 0x12: MAX (04: R79-R81). -/
def decodeMajor12 (p : Nat) : Except Reject Instr :=
  .ok (.max (slice p 27 1) (slice p 25 2) (slice p 19 6) (slice p 13 6) (slice p 7 6))

/-- Major 0x13: MINU (04: R79-R81). -/
def decodeMajor13 (p : Nat) : Except Reject Instr :=
  .ok (.minu (slice p 27 1) (slice p 25 2) (slice p 19 6) (slice p 13 6) (slice p 7 6))

/-- Major 0x14: MAXU (04: R79-R81). -/
def decodeMajor14 (p : Nat) : Except Reject Instr :=
  .ok (.maxu (slice p 27 1) (slice p 25 2) (slice p 19 6) (slice p 13 6) (slice p 7 6))

/-- Major 0x15: SLT (04: R79-R81). -/
def decodeMajor15 (p : Nat) : Except Reject Instr :=
  .ok (.slt (slice p 27 1) (slice p 25 2) (slice p 19 6) (slice p 13 6) (slice p 7 6))

/-- Major 0x16: SLTU (04: R79-R81). -/
def decodeMajor16 (p : Nat) : Except Reject Instr :=
  .ok (.sltu (slice p 27 1) (slice p 25 2) (slice p 19 6) (slice p 13 6) (slice p 7 6))

/-- Major 0x17: SEQ (04: R79-R81). -/
def decodeMajor17 (p : Nat) : Except Reject Instr :=
  .ok (.seq (slice p 27 1) (slice p 25 2) (slice p 19 6) (slice p 13 6) (slice p 7 6))

/-- Major 0x18: SEL (04: R79-R81). -/
def decodeMajor18 (p : Nat) : Except Reject Instr :=
  .ok (.sel (slice p 27 1) (slice p 25 2) (slice p 19 6) (slice p 13 6) (slice p 7 6))

/-- Major 0x19: CLZ, CTZ, POPC, BSWAP, SEXTB, SEXTH, SEXTW, ZEXTW (04: R79-R81). -/
def decodeMajor19 (p : Nat) : Except Reject Instr :=
  match field p 25 3 with
  | 0 => if field p 19 6 = 0 then (.ok (.clz (slice p 13 6) (slice p 7 6))) else .error .mustBeZero
  | 1 => if field p 19 6 = 0 then (.ok (.ctz (slice p 13 6) (slice p 7 6))) else .error .mustBeZero
  | 2 => if field p 19 6 = 0 then (.ok (.popc (slice p 13 6) (slice p 7 6))) else .error .mustBeZero
  | 3 => if field p 19 6 = 0 then (.ok (.bswap (slice p 13 6) (slice p 7 6))) else .error .mustBeZero
  | 4 => if field p 19 6 = 0 then (.ok (.sextb (slice p 13 6) (slice p 7 6))) else .error .mustBeZero
  | 5 => if field p 19 6 = 0 then (.ok (.sexth (slice p 13 6) (slice p 7 6))) else .error .mustBeZero
  | 6 => if field p 19 6 = 0 then (.ok (.sextw (slice p 13 6) (slice p 7 6))) else .error .mustBeZero
  | 7 => if field p 19 6 = 0 then (.ok (.zextw (slice p 13 6) (slice p 7 6))) else .error .mustBeZero
  | _ => .error .reservedSelector

/-- Major 0x1A: BEXT (04: R79-R81). -/
def decodeMajor1A (p : Nat) : Except Reject Instr :=
  .ok (.bext (slice p 27 1) (slice p 25 2) (slice p 19 6) (slice p 13 6) (slice p 7 6))

/-- Major 0x1B: BDEP (04: R79-R81). -/
def decodeMajor1B (p : Nat) : Except Reject Instr :=
  .ok (.bdep (slice p 27 1) (slice p 25 2) (slice p 19 6) (slice p 13 6) (slice p 7 6))

/-- Major 0x1C: ADDI (04: R79-R81). -/
def decodeMajor1C (p : Nat) : Except Reject Instr :=
  .ok (.addi (slice p 19 9) (slice p 13 6) (slice p 7 6))

/-- Major 0x1D: ANDI (04: R79-R81). -/
def decodeMajor1D (p : Nat) : Except Reject Instr :=
  .ok (.andi (slice p 19 9) (slice p 13 6) (slice p 7 6))

/-- Major 0x1E: ORI (04: R79-R81). -/
def decodeMajor1E (p : Nat) : Except Reject Instr :=
  .ok (.ori (slice p 19 9) (slice p 13 6) (slice p 7 6))

/-- Major 0x1F: SHLI, SHRI, SARI, RORI (04: R79-R81). -/
def decodeMajor1F (p : Nat) : Except Reject Instr :=
  match field p 25 3 with
  | 0 => .ok (.shli (slice p 19 6) (slice p 13 6) (slice p 7 6))
  | 1 => .ok (.shri (slice p 19 6) (slice p 13 6) (slice p 7 6))
  | 2 => .ok (.sari (slice p 19 6) (slice p 13 6) (slice p 7 6))
  | 3 => .ok (.rori (slice p 19 6) (slice p 13 6) (slice p 7 6))
  | _ => .error .reservedSelector

/-- Major 0x20: FADD (04: R79-R81). -/
def decodeMajor20 (p : Nat) : Except Reject Instr :=
  .ok (.fadd (slice p 27 1) (slice p 25 2) (slice p 19 6) (slice p 13 6) (slice p 7 6))

/-- Major 0x21: FSUB (04: R79-R81). -/
def decodeMajor21 (p : Nat) : Except Reject Instr :=
  .ok (.fsub (slice p 27 1) (slice p 25 2) (slice p 19 6) (slice p 13 6) (slice p 7 6))

/-- Major 0x22: FMUL (04: R79-R81). -/
def decodeMajor22 (p : Nat) : Except Reject Instr :=
  .ok (.fmul (slice p 27 1) (slice p 25 2) (slice p 19 6) (slice p 13 6) (slice p 7 6))

/-- Major 0x23: FDIV (04: R79-R81). -/
def decodeMajor23 (p : Nat) : Except Reject Instr :=
  .ok (.fdiv (slice p 27 1) (slice p 25 2) (slice p 19 6) (slice p 13 6) (slice p 7 6))

/-- Major 0x24: FFMA (04: R79-R81). -/
def decodeMajor24 (p : Nat) : Except Reject Instr :=
  .ok (.ffma (slice p 27 1) (slice p 25 2) (slice p 19 6) (slice p 13 6) (slice p 7 6))

/-- Major 0x25: FMIN (04: R79-R81). -/
def decodeMajor25 (p : Nat) : Except Reject Instr :=
  .ok (.fmin (slice p 27 1) (slice p 25 2) (slice p 19 6) (slice p 13 6) (slice p 7 6))

/-- Major 0x26: FMAX (04: R79-R81). -/
def decodeMajor26 (p : Nat) : Except Reject Instr :=
  .ok (.fmax (slice p 27 1) (slice p 25 2) (slice p 19 6) (slice p 13 6) (slice p 7 6))

/-- Major 0x27: FSQRT (04: R79-R81). -/
def decodeMajor27 (p : Nat) : Except Reject Instr :=
  if field p 19 6 = 0 then (.ok (.fsqrt (slice p 27 1) (slice p 25 2) (slice p 13 6) (slice p 7 6))) else .error .mustBeZero

/-- Major 0x28: FCMP_EQ, FCMP_LT, FCMP_LE, FCMP_UNORD (04: R79-R81). -/
def decodeMajor28 (p : Nat) : Except Reject Instr :=
  match field p 25 3 with
  | 0 => .ok (.fcmpEq (slice p 19 6) (slice p 13 6) (slice p 7 6))
  | 1 => .ok (.fcmpLt (slice p 19 6) (slice p 13 6) (slice p 7 6))
  | 2 => .ok (.fcmpLe (slice p 19 6) (slice p 13 6) (slice p 7 6))
  | 3 => .ok (.fcmpUnord (slice p 19 6) (slice p 13 6) (slice p 7 6))
  | _ => .error .reservedSelector

/-- Major 0x29: FCVT_F32_S64, FCVT_S64_F32, FCVT_F32_BF16, FCVT_BF16_F32, FCVT_F32_F16, FCVT_F16_F32, FCVT_F32_FMT, FCVT_FMT_F32 (04: R79-R81). -/
def decodeMajor29 (p : Nat) : Except Reject Instr :=
  match field p 25 3 with
  | 0 => if field p 19 6 = 0 then (.ok (.fcvtF32S64 (slice p 13 6) (slice p 7 6))) else .error .mustBeZero
  | 1 => if field p 19 6 = 0 then (.ok (.fcvtS64F32 (slice p 13 6) (slice p 7 6))) else .error .mustBeZero
  | 2 => if field p 19 6 = 0 then (.ok (.fcvtF32Bf16 (slice p 13 6) (slice p 7 6))) else .error .mustBeZero
  | 3 => if field p 19 6 = 0 then (.ok (.fcvtBf16F32 (slice p 13 6) (slice p 7 6))) else .error .mustBeZero
  | 4 => if field p 19 6 = 0 then (.ok (.fcvtF32F16 (slice p 13 6) (slice p 7 6))) else .error .mustBeZero
  | 5 => if field p 19 6 = 0 then (.ok (.fcvtF16F32 (slice p 13 6) (slice p 7 6))) else .error .mustBeZero
  | 6 => if field p 22 3 = 0 then (.ok (.fcvtF32Fmt (slice p 19 3) (slice p 13 6) (slice p 7 6))) else .error .mustBeZero
  | 7 => if field p 22 3 = 0 then (.ok (.fcvtFmtF32 (slice p 19 3) (slice p 13 6) (slice p 7 6))) else .error .mustBeZero
  | _ => .error .reservedSelector

/-- Major 0x2A: FNEG, FABS, FCOPYSIGN (04: R79-R81). -/
def decodeMajor2A (p : Nat) : Except Reject Instr :=
  match field p 25 3 with
  | 0 => if field p 19 6 = 0 then (.ok (.fneg (slice p 13 6) (slice p 7 6))) else .error .mustBeZero
  | 1 => if field p 19 6 = 0 then (.ok (.fabs (slice p 13 6) (slice p 7 6))) else .error .mustBeZero
  | 2 => .ok (.fcopysign (slice p 19 6) (slice p 13 6) (slice p 7 6))
  | _ => .error .reservedSelector

/-- Major 0x2B: FCLASS (04: R79-R81). -/
def decodeMajor2B (p : Nat) : Except Reject Instr :=
  match field p 25 3 with
  | 0 => if field p 19 6 = 0 then (.ok (.fclass (slice p 13 6) (slice p 7 6))) else .error .mustBeZero
  | _ => .error .reservedSelector

/-- Major 0x2E: MOVK (04: R79-R81). -/
def decodeMajor2E (p : Nat) : Except Reject Instr :=
  if field p 13 6 = 0 then (.ok (.movk (slice p 27 1) (slice p 19 8) (slice p 7 6))) else .error .mustBeZero

/-- Major 0x2F: ADDK (04: R79-R81). -/
def decodeMajor2F (p : Nat) : Except Reject Instr :=
  .ok (.addk (slice p 27 1) (slice p 19 8) (slice p 13 6) (slice p 7 6))

/-- Major 0x30: BEQ (04: R79-R81). -/
def decodeMajor30 (p : Nat) : Except Reject Instr :=
  .ok (.beq (slice p 19 9) (slice p 13 6) (slice p 7 6))

/-- Major 0x31: BNE (04: R79-R81). -/
def decodeMajor31 (p : Nat) : Except Reject Instr :=
  .ok (.bne (slice p 19 9) (slice p 13 6) (slice p 7 6))

/-- Major 0x32: BLT (04: R79-R81). -/
def decodeMajor32 (p : Nat) : Except Reject Instr :=
  .ok (.blt (slice p 19 9) (slice p 13 6) (slice p 7 6))

/-- Major 0x33: BGE (04: R79-R81). -/
def decodeMajor33 (p : Nat) : Except Reject Instr :=
  .ok (.bge (slice p 19 9) (slice p 13 6) (slice p 7 6))

/-- Major 0x34: BLTU (04: R79-R81). -/
def decodeMajor34 (p : Nat) : Except Reject Instr :=
  .ok (.bltu (slice p 19 9) (slice p 13 6) (slice p 7 6))

/-- Major 0x35: BGEU (04: R79-R81). -/
def decodeMajor35 (p : Nat) : Except Reject Instr :=
  .ok (.bgeu (slice p 19 9) (slice p 13 6) (slice p 7 6))

/-- Major 0x36: J (04: R79-R81). -/
def decodeMajor36 (p : Nat) : Except Reject Instr :=
  .ok (.j (slice p 7 21))

/-- Major 0x37: JL (04: R79-R81). -/
def decodeMajor37 (p : Nat) : Except Reject Instr :=
  .ok (.jl (slice p 7 21))

/-- Major 0x38: JR (04: R79-R81). -/
def decodeMajor38 (p : Nat) : Except Reject Instr :=
  if field p 19 6 = 0 then (.ok (.jr (slice p 27 1) (slice p 25 2) (slice p 13 6) (slice p 7 6))) else .error .mustBeZero

/-- Major 0x39: LOOP (04: R79-R81). -/
def decodeMajor39 (p : Nat) : Except Reject Instr :=
  if field p 13 6 = 0 then (.ok (.loop (slice p 19 9) (slice p 7 6))) else .error .mustBeZero

/-- Major 0x3A: DONE, DONE_REPOST (04: R79-R81). -/
def decodeMajor3A (p : Nat) : Except Reject Instr :=
  match field p 25 3 with
  | 0 => if field p 7 18 = 0 then (.ok .done) else .error .mustBeZero
  | 1 => if field p 7 18 = 0 then (.ok .doneRepost) else .error .mustBeZero
  | _ => .error .reservedSelector

/-- Major 0x3B: BFE (04: R79-R81). -/
def decodeMajor3B (p : Nat) : Except Reject Instr :=
  .ok (.bfe (slice p 19 9) (slice p 13 6) (slice p 7 6))

/-- Major 0x3C: WAITFE (04: R79-R81). -/
def decodeMajor3C (p : Nat) : Except Reject Instr :=
  match field p 25 3 with
  | 0 => if field p 7 6 = 0 then (.ok (.waitfe (slice p 19 6) (slice p 13 6))) else .error .mustBeZero
  | _ => .error .reservedSelector

/-- Major 0x3D: CSRW (04: R79-R81). -/
def decodeMajor3D (p : Nat) : Except Reject Instr :=
  .ok (.csrw (slice p 19 9) (slice p 13 6) (slice p 7 6))

/-- Major 0x3E: CSRS (04: R79-R81). -/
def decodeMajor3E (p : Nat) : Except Reject Instr :=
  .ok (.csrs (slice p 19 9) (slice p 13 6) (slice p 7 6))

/-- Major 0x3F: CSRC (04: R79-R81). -/
def decodeMajor3F (p : Nat) : Except Reject Instr :=
  .ok (.csrc (slice p 19 9) (slice p 13 6) (slice p 7 6))

/-- Major 0x7D: CSRR (04: R79-R81). -/
def decodeMajor7D (p : Nat) : Except Reject Instr :=
  if field p 13 6 = 0 then (.ok (.csrr (slice p 19 9) (slice p 7 6))) else .error .mustBeZero

/-- Major 0x40: LDB (04: R79-R81). -/
def decodeMajor40 (p : Nat) : Except Reject Instr :=
  .ok (.ldb (slice p 19 9) (slice p 13 6) (slice p 7 6))

/-- Major 0x41: LDBU (04: R79-R81). -/
def decodeMajor41 (p : Nat) : Except Reject Instr :=
  .ok (.ldbu (slice p 19 9) (slice p 13 6) (slice p 7 6))

/-- Major 0x42: LDH (04: R79-R81). -/
def decodeMajor42 (p : Nat) : Except Reject Instr :=
  .ok (.ldh (slice p 19 9) (slice p 13 6) (slice p 7 6))

/-- Major 0x43: LDHU (04: R79-R81). -/
def decodeMajor43 (p : Nat) : Except Reject Instr :=
  .ok (.ldhu (slice p 19 9) (slice p 13 6) (slice p 7 6))

/-- Major 0x44: LDW (04: R79-R81). -/
def decodeMajor44 (p : Nat) : Except Reject Instr :=
  .ok (.ldw (slice p 19 9) (slice p 13 6) (slice p 7 6))

/-- Major 0x45: LDWU (04: R79-R81). -/
def decodeMajor45 (p : Nat) : Except Reject Instr :=
  .ok (.ldwu (slice p 19 9) (slice p 13 6) (slice p 7 6))

/-- Major 0x46: LDD (04: R79-R81). -/
def decodeMajor46 (p : Nat) : Except Reject Instr :=
  .ok (.ldd (slice p 19 9) (slice p 13 6) (slice p 7 6))

/-- Major 0x47: STB (04: R79-R81). -/
def decodeMajor47 (p : Nat) : Except Reject Instr :=
  .ok (.stb (slice p 19 9) (slice p 13 6) (slice p 7 6))

/-- Major 0x48: STH (04: R79-R81). -/
def decodeMajor48 (p : Nat) : Except Reject Instr :=
  .ok (.sth (slice p 19 9) (slice p 13 6) (slice p 7 6))

/-- Major 0x49: STW (04: R79-R81). -/
def decodeMajor49 (p : Nat) : Except Reject Instr :=
  .ok (.stw (slice p 19 9) (slice p 13 6) (slice p 7 6))

/-- Major 0x4A: STD (04: R79-R81). -/
def decodeMajor4A (p : Nat) : Except Reject Instr :=
  .ok (.std (slice p 19 9) (slice p 13 6) (slice p 7 6))

/-- Major 0x4B: LDS (04: R79-R81). -/
def decodeMajor4B (p : Nat) : Except Reject Instr :=
  .ok (.lds (slice p 19 9) (slice p 13 6) (slice p 7 6))

/-- Major 0x4C: LDV, STV (04: R79-R81). -/
def decodeMajor4C (p : Nat) : Except Reject Instr :=
  match field p 25 3 with
  | 0 => if field p 12 1 = 0 ∧ field p 19 6 = 0 then (.ok (.ldv (slice p 13 6) (slice p 7 5))) else .error .mustBeZero
  | 1 => if field p 12 1 = 0 ∧ field p 19 6 = 0 then (.ok (.stv (slice p 13 6) (slice p 7 5))) else .error .mustBeZero
  | _ => .error .reservedSelector

/-- Major 0x4D: BITLD, BITST (04: R79-R81). -/
def decodeMajor4D (p : Nat) : Except Reject Instr :=
  match field p 25 3 with
  | 0 => .ok (.bitld (slice p 19 6) (slice p 13 6) (slice p 7 6))
  | 1 => .ok (.bitst (slice p 19 6) (slice p 13 6) (slice p 7 6))
  | _ => .error .reservedSelector

/-- Major 0x4E: LDR (04: R79-R81). -/
def decodeMajor4E (p : Nat) : Except Reject Instr :=
  if field p 19 9 = 0 then (.ok (.ldr (slice p 13 6) (slice p 12 1) (slice p 7 5))) else .error .mustBeZero

/-- Major 0x4F: LDE, STF, SETF, SETE, SETF_RS, SETE_RS (04: R79-R81). -/
def decodeMajor4F (p : Nat) : Except Reject Instr :=
  match field p 25 3, field p 19 6 with
  | 0, 0 => .ok (.lde (slice p 13 6) (slice p 7 6))
  | 1, 0 => .ok (.stf (slice p 13 6) (slice p 7 6))
  | 2, 0 => if field p 7 6 = 0 then (.ok (.setf (slice p 13 6))) else .error .mustBeZero
  | 3, 0 => if field p 7 6 = 0 then (.ok (.sete (slice p 13 6))) else .error .mustBeZero
  | 2, 1 => if field p 7 6 = 0 then (.ok (.setfRs (slice p 13 6))) else .error .mustBeZero
  | 3, 1 => if field p 7 6 = 0 then (.ok (.seteRs (slice p 13 6))) else .error .mustBeZero
  | _, _ => .error .reservedSelector

/-- Major 0x50: AMO (04: R79-R81). -/
def decodeMajor50 (p : Nat) : Except Reject Instr :=
  if field p 25 3 = 0 then (.ok (.amo (slice p 24 1) (slice p 22 2) (slice p 19 3) (slice p 13 6) (slice p 7 6))) else .error .mustBeZero

/-- Major 0x51: AMOX_XCHG, AMOX_CAS (04: R79-R81). -/
def decodeMajor51 (p : Nat) : Except Reject Instr :=
  match field p 25 1 with
  | 0 => if field p 19 6 = 0 then (.ok (.amoxXchg (slice p 26 2) (slice p 13 6) (slice p 7 6))) else .error .mustBeZero
  | 1 => .ok (.amoxCas (slice p 26 2) (slice p 19 6) (slice p 13 6) (slice p 7 6))
  | _ => .error .reservedSelector

/-- Major 0x52: AMOF_FADD32, AMOF_FMAXABS, AMOF_BUMPLIM (04: R79-R81). -/
def decodeMajor52 (p : Nat) : Except Reject Instr :=
  match field p 25 2 with
  | 0 => if field p 19 6 = 0 then (.ok (.amofFadd32 (slice p 27 1) (slice p 13 6) (slice p 7 6))) else .error .mustBeZero
  | 1 => if field p 19 6 = 0 then (.ok (.amofFmaxabs (slice p 27 1) (slice p 13 6) (slice p 7 6))) else .error .mustBeZero
  | 2 => .ok (.amofBumplim (slice p 27 1) (slice p 19 6) (slice p 13 6) (slice p 7 6))
  | _ => .error .reservedSelector

/-- Major 0x53: FENCE (04: R79-R81). -/
def decodeMajor53 (p : Nat) : Except Reject Instr :=
  match field p 25 3 with
  | 0 => if field p 7 12 = 0 then (if (slice p 19 6).toNat < 9 then .ok (.fence (slice p 19 6)) else .error .scopeCode) else .error .mustBeZero
  | _ => .error .reservedSelector

/-- Major 0x54: FENCER (04: R79-R81). -/
def decodeMajor54 (p : Nat) : Except Reject Instr :=
  match field p 25 3 with
  | 0 => if (slice p 7 6).toNat < 9 then .ok (.fencer (slice p 19 6) (slice p 13 6) (slice p 7 6)) else .error .scopeCode
  | _ => .error .reservedSelector

/-- Major 0x55: TFENCE (04: R79-R81). -/
def decodeMajor55 (p : Nat) : Except Reject Instr :=
  match field p 25 3 with
  | 0 => if field p 7 18 = 0 then (.ok .tfence) else .error .mustBeZero
  | _ => .error .reservedSelector

/-- Major 0x56: LDACQ (04: R79-R81). -/
def decodeMajor56 (p : Nat) : Except Reject Instr :=
  match field p 25 3 with
  | 0 => if (slice p 19 4).toNat < 9 then .ok (.ldacq (slice p 23 2) (slice p 19 4) (slice p 13 6) (slice p 7 6)) else .error .scopeCode
  | _ => .error .reservedSelector

/-- Major 0x57: STREL (04: R79-R81). -/
def decodeMajor57 (p : Nat) : Except Reject Instr :=
  match field p 25 3 with
  | 0 => if (slice p 19 4).toNat < 9 then .ok (.strel (slice p 23 2) (slice p 19 4) (slice p 13 6) (slice p 7 6)) else .error .scopeCode
  | _ => .error .reservedSelector

/-- Major 0x58: SEND (04: R79-R81). -/
def decodeMajor58 (p : Nat) : Except Reject Instr :=
  match field p 25 3 with
  | 0 => .ok (.send (slice p 19 6) (slice p 13 6) (slice p 7 6))
  | _ => .error .reservedSelector

/-- Major 0x59: SENDV (04: R79-R81). -/
def decodeMajor59 (p : Nat) : Except Reject Instr :=
  match field p 25 3 with
  | 0 => if field p 7 6 = 0 ∧ field p 24 1 = 0 then (.ok (.sendv (slice p 19 5) (slice p 13 6))) else .error .mustBeZero
  | _ => .error .reservedSelector

/-- Major 0x5A: SENDP (04: R79-R81). -/
def decodeMajor5A (p : Nat) : Except Reject Instr :=
  match field p 25 3 with
  | 0 => .ok (.sendp (slice p 19 6) (slice p 13 6) (slice p 7 6))
  | _ => .error .reservedSelector

/-- Major 0x5C: POST (04: R79-R81). -/
def decodeMajor5C (p : Nat) : Except Reject Instr :=
  match field p 25 3 with
  | 0 => if field p 7 6 = 0 ∧ field p 19 6 = 0 then (.ok (.post (slice p 13 6))) else .error .mustBeZero
  | _ => .error .reservedSelector

/-- Major 0x5D: HMASK (04: R79-R81). -/
def decodeMajor5D (p : Nat) : Except Reject Instr :=
  match field p 25 3 with
  | 0 => .ok (.hmask (slice p 19 6) (slice p 13 6) (slice p 7 6))
  | _ => .error .reservedSelector

/-- Major 0x5E: ARRADD, ARRWAIT, ARRRESET (04: R79-R81). -/
def decodeMajor5E (p : Nat) : Except Reject Instr :=
  match field p 25 3 with
  | 0 => if field p 7 6 = 0 then (.ok (.arradd (slice p 19 6) (slice p 13 6))) else .error .mustBeZero
  | 1 => if field p 7 6 = 0 then (.ok (.arrwait (slice p 19 6) (slice p 13 6))) else .error .mustBeZero
  | 2 => if field p 19 6 = 0 then (.ok (.arrreset (slice p 13 6) (slice p 7 6))) else .error .mustBeZero
  | _ => .error .reservedSelector

/-- Major 0x5F: CBAR_ARRIVE, CBAR_WAIT, CBAR_ARRIVEWAIT (04: R79-R81). -/
def decodeMajor5F (p : Nat) : Except Reject Instr :=
  match field p 25 3 with
  | 0 => .ok (.cbarArrive (slice p 19 6) (slice p 13 6) (slice p 7 6))
  | 1 => if field p 7 6 = 0 then (.ok (.cbarWait (slice p 19 6) (slice p 13 6))) else .error .mustBeZero
  | 2 => .ok (.cbarArrivewait (slice p 19 6) (slice p 13 6) (slice p 7 6))
  | _ => .error .reservedSelector

/-- Major 0x60: CPYGO (04: R79-R81). -/
def decodeMajor60 (p : Nat) : Except Reject Instr :=
  match field p 25 3 with
  | 0 => .ok (.cpygo (slice p 19 6) (slice p 13 6) (slice p 7 6))
  | _ => .error .reservedSelector

/-- Major 0x61: CPYWAIT (04: R79-R81). -/
def decodeMajor61 (p : Nat) : Except Reject Instr :=
  match field p 25 3 with
  | 0 => if field p 13 6 = 0 then (.ok (.cpywait (slice p 19 6) (slice p 7 6))) else .error .mustBeZero
  | _ => .error .reservedSelector

/-- Major 0x62: CPYSTAT (04: R79-R81). -/
def decodeMajor62 (p : Nat) : Except Reject Instr :=
  match field p 25 3 with
  | 0 => if field p 13 6 = 0 then (.ok (.cpystat (slice p 19 6) (slice p 7 6))) else .error .mustBeZero
  | _ => .error .reservedSelector

/-- Major 0x63: TMSET (04: R79-R81). -/
def decodeMajor63 (p : Nat) : Except Reject Instr :=
  match field p 25 3 with
  | 0 => if field p 11 2 = 0 ∧ field p 19 6 = 0 then (.ok (.tmset (slice p 13 6) (slice p 7 4))) else .error .mustBeZero
  | _ => .error .reservedSelector

/-- Major 0x64: TMGET (04: R79-R81). -/
def decodeMajor64 (p : Nat) : Except Reject Instr :=
  match field p 25 3 with
  | 0 => if field p 11 2 = 0 ∧ field p 19 6 = 0 then (.ok (.tmget (slice p 13 6) (slice p 7 4))) else .error .mustBeZero
  | _ => .error .reservedSelector

/-- Major 0x65: WAITMASK (04: R79-R81). -/
def decodeMajor65 (p : Nat) : Except Reject Instr :=
  match field p 25 3 with
  | 0 => if field p 7 6 = 0 then (.ok (.waitmask (slice p 19 6) (slice p 13 6))) else .error .mustBeZero
  | _ => .error .reservedSelector

/-- Major 0x66: TESTMASK (04: R79-R81). -/
def decodeMajor66 (p : Nat) : Except Reject Instr :=
  match field p 25 3 with
  | 0 => .ok (.testmask (slice p 19 6) (slice p 13 6) (slice p 7 6))
  | _ => .error .reservedSelector

/-- Major 0x67: HBSET (04: R79-R81). -/
def decodeMajor67 (p : Nat) : Except Reject Instr :=
  match field p 25 3 with
  | 0 => .ok (.hbset (slice p 19 6) (slice p 13 6) (slice p 7 6))
  | _ => .error .reservedSelector

/-- Major 0x68: FMTSET (04: R79-R81). -/
def decodeMajor68 (p : Nat) : Except Reject Instr :=
  if field p 10 3 = 0 ∧ field p 19 9 = 0 then (.ok (.fmtset (slice p 13 6) (slice p 7 3))) else .error .mustBeZero

/-- Major 0x69: MLDW (04: R79-R81). -/
def decodeMajor69 (p : Nat) : Except Reject Instr :=
  if field p 7 2 = 0 ∧ field p 24 4 = 0 then (if (slice p 15 3).toNat ≠ 0 then if (slice p 18 6).toNat % 2 = 0 then .ok (.mldw (slice p 18 6) (slice p 15 3) (slice p 11 4) (slice p 9 2)) else .error .oddPair else .error .formatCode) else .error .mustBeZero

/-- Major 0x6A: MMUL (04: R79-R81). -/
def decodeMajor6A (p : Nat) : Except Reject Instr :=
  if field p 24 4 = 0 then (if (slice p 14 3).toNat ≠ 0 then if (slice p 18 6).toNat % 2 = 0 then .ok (.mmul (slice p 18 6) (slice p 17 1) (slice p 14 3) (slice p 10 4) (slice p 9 1) (slice p 7 2)) else .error .oddPair else .error .formatCode) else .error .mustBeZero

/-- Major 0x6B: MREAM (04: R79-R81). -/
def decodeMajor6B (p : Nat) : Except Reject Instr :=
  if field p 22 6 = 0 then (if (slice p 13 3).toNat ≠ 0 then if (slice p 16 6).toNat % 2 = 0 then .ok (.mream (slice p 16 6) (slice p 13 3) (slice p 9 4) (slice p 8 1) (slice p 7 1)) else .error .oddPair else .error .formatCode) else .error .mustBeZero

/-- Major 0x6C: MRMRG (04: R79-R81). -/
def decodeMajor6C (p : Nat) : Except Reject Instr :=
  if field p 9 19 = 0 then (if (slice p 7 1) ≠ (slice p 8 1) then .ok (.mrmrg (slice p 8 1) (slice p 7 1)) else .error .sameBank) else .error .mustBeZero

/-- Major 0x6D: MDRAIN, MSTORE (04: R79-R81). -/
def decodeMajor6D (p : Nat) : Except Reject Instr :=
  match field p 7 3 with
  | 0 => if field p 20 8 = 0 then (.ok (.mdrain (slice p 14 6) (slice p 13 1) (slice p 11 2) (slice p 10 1))) else .error .mustBeZero
  | 1 => if field p 10 1 = 0 ∧ field p 26 2 = 0 then (if (slice p 20 6).toNat % 2 = 0 then .ok (.mstore (slice p 20 6) (slice p 17 3) (slice p 13 4) (slice p 11 2)) else .error .oddPair) else .error .mustBeZero
  | _ => .error .reservedSelector

/-- Major 0x6E: MCLR (04: R79-R81). -/
def decodeMajor6E (p : Nat) : Except Reject Instr :=
  if field p 10 18 = 0 then (if (slice p 7 3).toNat < 7 then .ok (.mclr (slice p 7 3)) else .error .reservedSelector) else .error .mustBeZero

/-- Major 0x6F: MSTAT (04: R79-R81). -/
def decodeMajor6F (p : Nat) : Except Reject Instr :=
  if field p 13 15 = 0 then (.ok (.mstat (slice p 7 6))) else .error .mustBeZero

/-- Major 0x70: VADD, VSUB, VMUL, VFMA, VMIN, VMAX, VABS, VNEG (04: R79-R81). -/
def decodeMajor70 (p : Nat) : Except Reject Instr :=
  match field p 25 3 with
  | 0 => if (slice p 22 3).toNat < 6 then .ok (.vadd (slice p 22 3) (slice p 17 5) (slice p 12 5) (slice p 7 5)) else .error .vectorType
  | 1 => if (slice p 22 3).toNat < 6 then .ok (.vsub (slice p 22 3) (slice p 17 5) (slice p 12 5) (slice p 7 5)) else .error .vectorType
  | 2 => if (slice p 22 3).toNat < 6 then .ok (.vmul (slice p 22 3) (slice p 17 5) (slice p 12 5) (slice p 7 5)) else .error .vectorType
  | 3 => if (slice p 22 3).toNat < 6 then .ok (.vfma (slice p 22 3) (slice p 17 5) (slice p 12 5) (slice p 7 5)) else .error .vectorType
  | 4 => if (slice p 22 3).toNat < 6 then .ok (.vmin (slice p 22 3) (slice p 17 5) (slice p 12 5) (slice p 7 5)) else .error .vectorType
  | 5 => if (slice p 22 3).toNat < 6 then .ok (.vmax (slice p 22 3) (slice p 17 5) (slice p 12 5) (slice p 7 5)) else .error .vectorType
  | 6 => if field p 17 5 = 0 then (if (slice p 22 3).toNat < 6 then .ok (.vabs (slice p 22 3) (slice p 12 5) (slice p 7 5)) else .error .vectorType) else .error .mustBeZero
  | 7 => if field p 17 5 = 0 then (if (slice p 22 3).toNat < 6 then .ok (.vneg (slice p 22 3) (slice p 12 5) (slice p 7 5)) else .error .vectorType) else .error .mustBeZero
  | _ => .error .reservedSelector

/-- Major 0x71: VAND, VOR, VXOR, VANDN, VSHL, VSHR, VSAR, VNOT (04: R79-R81). -/
def decodeMajor71 (p : Nat) : Except Reject Instr :=
  match field p 25 3 with
  | 0 => if field p 22 3 = 0 then (.ok (.vand (slice p 17 5) (slice p 12 5) (slice p 7 5))) else .error .mustBeZero
  | 1 => if field p 22 3 = 0 then (.ok (.vor (slice p 17 5) (slice p 12 5) (slice p 7 5))) else .error .mustBeZero
  | 2 => if field p 22 3 = 0 then (.ok (.vxor (slice p 17 5) (slice p 12 5) (slice p 7 5))) else .error .mustBeZero
  | 3 => if field p 22 3 = 0 then (.ok (.vandn (slice p 17 5) (slice p 12 5) (slice p 7 5))) else .error .mustBeZero
  | 4 => if (slice p 22 3).toNat < 3 then .ok (.vshl (slice p 22 3) (slice p 17 5) (slice p 12 5) (slice p 7 5)) else .error .vectorType
  | 5 => if (slice p 22 3).toNat < 3 then .ok (.vshr (slice p 22 3) (slice p 17 5) (slice p 12 5) (slice p 7 5)) else .error .vectorType
  | 6 => if (slice p 22 3).toNat < 3 then .ok (.vsar (slice p 22 3) (slice p 17 5) (slice p 12 5) (slice p 7 5)) else .error .vectorType
  | 7 => if field p 17 8 = 0 then (.ok (.vnot (slice p 12 5) (slice p 7 5))) else .error .mustBeZero
  | _ => .error .reservedSelector

/-- Major 0x72: VCMP (04: R79-R81). -/
def decodeMajor72 (p : Nat) : Except Reject Instr :=
  if ((slice p 25 3).toNat < 6 ∨ (slice p 22 3).toNat < 3) then if (slice p 22 3).toNat < 6 then .ok (.vcmp (slice p 25 3) (slice p 22 3) (slice p 17 5) (slice p 12 5) (slice p 7 5)) else .error .vectorType else .error .vectorType

/-- Major 0x73: VSEL, VPERMX, VBCAST, VSLIDEUP, VSLIDEDN, VZIP, VUNZIP, VIOTA (04: R79-R81). -/
def decodeMajor73 (p : Nat) : Except Reject Instr :=
  match field p 25 3 with
  | 0 => .ok (.vsel (slice p 22 3) (slice p 17 5) (slice p 12 5) (slice p 7 5))
  | 1 => .ok (.vpermx (slice p 22 3) (slice p 17 5) (slice p 12 5) (slice p 7 5))
  | 2 => if field p 17 5 = 0 then (.ok (.vbcast (slice p 22 3) (slice p 12 5) (slice p 7 5))) else .error .mustBeZero
  | 3 => .ok (.vslideup (slice p 22 3) (slice p 17 5) (slice p 12 5) (slice p 7 5))
  | 4 => .ok (.vslidedn (slice p 22 3) (slice p 17 5) (slice p 12 5) (slice p 7 5))
  | 5 => .ok (.vzip (slice p 22 3) (slice p 17 5) (slice p 12 5) (slice p 7 5))
  | 6 => if field p 17 5 = 0 then (.ok (.vunzip (slice p 22 3) (slice p 12 5) (slice p 7 5))) else .error .mustBeZero
  | 7 => if field p 12 10 = 0 then (if (slice p 22 3).toNat < 3 then .ok (.viota (slice p 22 3) (slice p 7 5)) else .error .vectorType) else .error .mustBeZero
  | _ => .error .reservedSelector

/-- Major 0x74: VCVT (04: R79-R81). -/
def decodeMajor74 (p : Nat) : Except Reject Instr :=
  if convPart (slice p 25 3) (slice p 22 3) (slice p 19 3) then .ok (.vcvt (slice p 25 3) (slice p 22 3) (slice p 19 3) (slice p 17 2) (slice p 12 5) (slice p 7 5)) else .error .conversionPart

/-- Major 0x75: VRED (04: R79-R81). -/
def decodeMajor75 (p : Nat) : Except Reject Instr :=
  if field p 17 5 = 0 then (if (slice p 22 3).toNat < 6 then .ok (.vred (slice p 25 3) (slice p 22 3) (slice p 12 5) (slice p 7 5)) else .error .vectorType) else .error .mustBeZero

/-- Major 0x76: LDTM, STTM, LDSTR, STSTR, LDGI, STSI, LDFE (04: R79-R81). -/
def decodeMajor76 (p : Nat) : Except Reject Instr :=
  match field p 25 3 with
  | 0 => if field p 16 1 = 0 then (.ok (.ldtm (slice p 22 3) (slice p 17 5) (slice p 12 4) (slice p 7 5))) else .error .mustBeZero
  | 1 => if field p 16 1 = 0 then (.ok (.sttm (slice p 22 3) (slice p 17 5) (slice p 12 4) (slice p 7 5))) else .error .mustBeZero
  | 2 => .ok (.ldstr (slice p 22 3) (slice p 17 5) (slice p 12 5) (slice p 7 5))
  | 3 => .ok (.ststr (slice p 22 3) (slice p 17 5) (slice p 12 5) (slice p 7 5))
  | 4 => .ok (.ldgi (slice p 22 3) (slice p 17 5) (slice p 12 5) (slice p 7 5))
  | 5 => .ok (.stsi (slice p 22 3) (slice p 17 5) (slice p 12 5) (slice p 7 5))
  | 6 => if field p 17 8 = 0 then (.ok (.ldfe (slice p 12 5) (slice p 7 5))) else .error .mustBeZero
  | _ => .error .reservedSelector

/-- Major 0x77: VMOVLS, VMOVSL (04: R79-R81). -/
def decodeMajor77 (p : Nat) : Except Reject Instr :=
  match field p 25 3 with
  | 0 => .ok (.vmovls (slice p 22 3) (slice p 17 5) (slice p 12 5) (slice p 7 5))
  | 1 => .ok (.vmovsl (slice p 22 3) (slice p 17 5) (slice p 12 5) (slice p 7 5))
  | _ => .error .reservedSelector

/-- Major 0x78: EXP, EXP2, LOG2, RSQRT, RCP, TANH, SIGMOID, ROWMAXSUB (04: R79-R81). -/
def decodeMajor78 (p : Nat) : Except Reject Instr :=
  match field p 25 3 with
  | 0 => if field p 17 5 = 0 then (if (3 ≤ (slice p 22 3).toNat ∧ (slice p 22 3).toNat < 6) then .ok (.exp (slice p 22 3) (slice p 12 5) (slice p 7 5)) else .error .vectorType) else .error .mustBeZero
  | 1 => if field p 17 5 = 0 then (if (3 ≤ (slice p 22 3).toNat ∧ (slice p 22 3).toNat < 6) then .ok (.exp2 (slice p 22 3) (slice p 12 5) (slice p 7 5)) else .error .vectorType) else .error .mustBeZero
  | 2 => if field p 17 5 = 0 then (if (3 ≤ (slice p 22 3).toNat ∧ (slice p 22 3).toNat < 6) then .ok (.log2 (slice p 22 3) (slice p 12 5) (slice p 7 5)) else .error .vectorType) else .error .mustBeZero
  | 3 => if field p 17 5 = 0 then (if (3 ≤ (slice p 22 3).toNat ∧ (slice p 22 3).toNat < 6) then .ok (.rsqrt (slice p 22 3) (slice p 12 5) (slice p 7 5)) else .error .vectorType) else .error .mustBeZero
  | 4 => if field p 17 5 = 0 then (if (3 ≤ (slice p 22 3).toNat ∧ (slice p 22 3).toNat < 6) then .ok (.rcp (slice p 22 3) (slice p 12 5) (slice p 7 5)) else .error .vectorType) else .error .mustBeZero
  | 5 => if field p 17 5 = 0 then (if (3 ≤ (slice p 22 3).toNat ∧ (slice p 22 3).toNat < 6) then .ok (.tanh (slice p 22 3) (slice p 12 5) (slice p 7 5)) else .error .vectorType) else .error .mustBeZero
  | 6 => if field p 17 5 = 0 then (if (3 ≤ (slice p 22 3).toNat ∧ (slice p 22 3).toNat < 6) then .ok (.sigmoid (slice p 22 3) (slice p 12 5) (slice p 7 5)) else .error .vectorType) else .error .mustBeZero
  | 7 => if field p 17 5 = 0 then (if (3 ≤ (slice p 22 3).toNat ∧ (slice p 22 3).toNat < 6) then .ok (.rowmaxsub (slice p 22 3) (slice p 12 5) (slice p 7 5)) else .error .vectorType) else .error .mustBeZero
  | _ => .error .reservedSelector

/-- Major 0x79: SMPATH, SMERGE, SMKV, SMSORT (04: R79-R81). -/
def decodeMajor79 (p : Nat) : Except Reject Instr :=
  match field p 25 3 with
  | 0 => if field p 12 5 = 0 then (if (1 ≤ (slice p 22 3).toNat ∧ (slice p 22 3).toNat < 4) then .ok (.smpath (slice p 22 3) (slice p 17 5) (slice p 7 5)) else .error .vectorType) else .error .mustBeZero
  | 1 => if field p 7 10 = 0 then (if (1 ≤ (slice p 22 3).toNat ∧ (slice p 22 3).toNat < 4) then .ok (.smerge (slice p 22 3) (slice p 17 5)) else .error .vectorType) else .error .mustBeZero
  | 2 => if field p 7 10 = 0 then (if (2 ≤ (slice p 22 3).toNat ∧ (slice p 22 3).toNat < 4) then .ok (.smkv (slice p 22 3) (slice p 17 5)) else .error .vectorType) else .error .mustBeZero
  | 3 => if field p 17 5 = 0 then (if (slice p 7 5).toNat < 31 then if (1 ≤ (slice p 22 3).toNat ∧ (slice p 22 3).toNat < 4) then .ok (.smsort (slice p 22 3) (slice p 12 5) (slice p 7 5)) else .error .vectorType else .error .reservedSelector) else .error .mustBeZero
  | _ => .error .reservedSelector

/-- Major 0x7A: GXGATHER, GXSCAT, GXBINS, GXSTAT (04: R79-R81). -/
def decodeMajor7A (p : Nat) : Except Reject Instr :=
  match field p 25 3 with
  | 0 => if field p 7 5 = 0 then (if (1 ≤ (slice p 22 3).toNat ∧ (slice p 22 3).toNat < 3) then .ok (.gxgather (slice p 22 3) (slice p 17 5) (slice p 12 5)) else .error .vectorType) else .error .mustBeZero
  | 1 => if field p 7 5 = 0 then (if (1 ≤ (slice p 22 3).toNat ∧ (slice p 22 3).toNat < 3) then .ok (.gxscat (slice p 22 3) (slice p 17 5) (slice p 12 5)) else .error .vectorType) else .error .mustBeZero
  | 2 => if (1 ≤ (slice p 22 3).toNat ∧ (slice p 22 3).toNat < 3) then .ok (.gxbins (slice p 22 3) (slice p 17 5) (slice p 12 5) (slice p 7 5)) else .error .vectorType
  | 3 => if field p 12 13 = 0 then (.ok (.gxstat (slice p 7 5))) else .error .mustBeZero
  | _ => .error .reservedSelector

/-- Major 0x7B: ZDGO, ZDWAIT, RDSUM, RDMAX, RDJOIN (04: R79-R81). -/
def decodeMajor7B (p : Nat) : Except Reject Instr :=
  match field p 25 3 with
  | 0 => if field p 7 10 = 0 ∧ field p 22 3 = 0 then (if groupReg (slice p 17 5) then .ok (.zdgo (slice p 17 5)) else .error .groupRegister) else .error .mustBeZero
  | 1 => if field p 12 13 = 0 then (.ok (.zdwait (slice p 7 5))) else .error .mustBeZero
  | 2 => if field p 7 5 = 0 then (if (2 ≤ (slice p 22 3).toNat ∧ (slice p 22 3).toNat < 5) then .ok (.rdsum (slice p 22 3) (slice p 17 5) (slice p 12 5)) else .error .vectorType) else .error .mustBeZero
  | 3 => if field p 7 5 = 0 then (if (2 ≤ (slice p 22 3).toNat ∧ (slice p 22 3).toNat < 5) then .ok (.rdmax (slice p 22 3) (slice p 17 5) (slice p 12 5)) else .error .vectorType) else .error .mustBeZero
  | 4 => if field p 7 10 = 0 ∧ field p 22 3 = 0 then (if ((slice p 17 5).toNat % 2 = 0 ∧ 2 ≤ (slice p 17 5).toNat) then .ok (.rdjoin (slice p 17 5)) else .error .groupRegister) else .error .mustBeZero
  | _ => .error .reservedSelector

/-- Major 0x7C: LEASE, LYIELD, LFREE, LSTAT (04: R79-R81). -/
def decodeMajor7C (p : Nat) : Except Reject Instr :=
  match field p 25 3 with
  | 0 => if field p 24 1 = 0 then (.ok (.lease (slice p 22 2) (slice p 19 3) (slice p 13 6) (slice p 7 6))) else .error .mustBeZero
  | 1 => if field p 13 6 = 0 ∧ field p 22 3 = 0 then (.ok (.lyield (slice p 19 3) (slice p 7 6))) else .error .mustBeZero
  | 2 => if field p 7 12 = 0 ∧ field p 22 3 = 0 then (.ok (.lfree (slice p 19 3))) else .error .mustBeZero
  | 3 => if field p 13 6 = 0 ∧ field p 22 3 = 0 then (.ok (.lstat (slice p 19 3) (slice p 7 6))) else .error .mustBeZero
  | _ => .error .reservedSelector

/-- Major 0x7E: BRK, TRAP, DBGMARK, QTILE, QCAP, QPWR, NOP (04: R79-R81). -/
def decodeMajor7E (p : Nat) : Except Reject Instr :=
  match field p 25 3 with
  | 0 => if field p 7 18 = 0 then (.ok .brk) else .error .mustBeZero
  | 1 => if field p 7 6 = 0 then (.ok (.trap (slice p 19 6) (slice p 13 6))) else .error .mustBeZero
  | 2 => if field p 7 6 = 0 ∧ field p 19 6 = 0 then (.ok (.dbgmark (slice p 13 6))) else .error .mustBeZero
  | 3 => .ok (.qtile (slice p 19 6) (slice p 13 6) (slice p 7 6))
  | 4 => if field p 13 12 = 0 then (.ok (.qcap (slice p 7 6))) else .error .mustBeZero
  | 5 => if field p 13 12 = 0 then (.ok (.qpwr (slice p 7 6))) else .error .mustBeZero
  | 6 => if field p 7 18 = 0 then (.ok .nop) else .error .mustBeZero
  | _ => .error .reservedSelector

/-- Major 0x7F: TRET, EVWAIT, TLBINV, TLBINVA, ICINV, DCFLUSH, DCINV, HALTB, RESUMEB, SAVECTX, LOADCTX (04: R79-R81). -/
def decodeMajor7F (p : Nat) : Except Reject Instr :=
  match field p 19 6 with
  | 0 => if field p 7 12 = 0 ∧ field p 25 3 = 0 then (.ok .tret) else .error .mustBeZero
  | 1 => if field p 7 12 = 0 ∧ field p 25 3 = 0 then (.ok .evwait) else .error .mustBeZero
  | 2 => if field p 7 6 = 0 ∧ field p 25 3 = 0 then (.ok (.tlbinv (slice p 13 6))) else .error .mustBeZero
  | 3 => if field p 7 6 = 0 ∧ field p 25 3 = 0 then (.ok (.tlbinva (slice p 13 6))) else .error .mustBeZero
  | 4 => if field p 25 3 = 0 then (.ok (.icinv (slice p 13 6) (slice p 7 6))) else .error .mustBeZero
  | 5 => if field p 25 3 = 0 then (.ok (.dcflush (slice p 13 6) (slice p 7 6))) else .error .mustBeZero
  | 6 => if field p 25 3 = 0 then (.ok (.dcinv (slice p 13 6) (slice p 7 6))) else .error .mustBeZero
  | 7 => if field p 7 6 = 0 ∧ field p 25 3 = 0 then (.ok (.haltb (slice p 13 6))) else .error .mustBeZero
  | 8 => if field p 7 6 = 0 ∧ field p 25 3 = 0 then (.ok (.resumeb (slice p 13 6))) else .error .mustBeZero
  | 9 => if field p 25 3 = 0 then (.ok (.savectx (slice p 13 6) (slice p 7 6))) else .error .mustBeZero
  | 10 => if field p 25 3 = 0 then (.ok (.loadctx (slice p 13 6) (slice p 7 6))) else .error .mustBeZero
  | _ => .error .reservedSelector

/-- The instruction of a 28-bit payload (04: R79-R81). -/
def decodePayload (p : Nat) : Except Reject Instr :=
  match p % 128 with
  | 0x00 => decodeMajor00 p
  | 0x01 => decodeMajor01 p
  | 0x02 => decodeMajor02 p
  | 0x03 => decodeMajor03 p
  | 0x04 => decodeMajor04 p
  | 0x05 => decodeMajor05 p
  | 0x06 => decodeMajor06 p
  | 0x07 => decodeMajor07 p
  | 0x08 => decodeMajor08 p
  | 0x09 => decodeMajor09 p
  | 0x0A => decodeMajor0A p
  | 0x0B => decodeMajor0B p
  | 0x0C => decodeMajor0C p
  | 0x0D => decodeMajor0D p
  | 0x0E => decodeMajor0E p
  | 0x0F => decodeMajor0F p
  | 0x10 => decodeMajor10 p
  | 0x11 => decodeMajor11 p
  | 0x12 => decodeMajor12 p
  | 0x13 => decodeMajor13 p
  | 0x14 => decodeMajor14 p
  | 0x15 => decodeMajor15 p
  | 0x16 => decodeMajor16 p
  | 0x17 => decodeMajor17 p
  | 0x18 => decodeMajor18 p
  | 0x19 => decodeMajor19 p
  | 0x1A => decodeMajor1A p
  | 0x1B => decodeMajor1B p
  | 0x1C => decodeMajor1C p
  | 0x1D => decodeMajor1D p
  | 0x1E => decodeMajor1E p
  | 0x1F => decodeMajor1F p
  | 0x20 => decodeMajor20 p
  | 0x21 => decodeMajor21 p
  | 0x22 => decodeMajor22 p
  | 0x23 => decodeMajor23 p
  | 0x24 => decodeMajor24 p
  | 0x25 => decodeMajor25 p
  | 0x26 => decodeMajor26 p
  | 0x27 => decodeMajor27 p
  | 0x28 => decodeMajor28 p
  | 0x29 => decodeMajor29 p
  | 0x2A => decodeMajor2A p
  | 0x2B => decodeMajor2B p
  | 0x2E => decodeMajor2E p
  | 0x2F => decodeMajor2F p
  | 0x30 => decodeMajor30 p
  | 0x31 => decodeMajor31 p
  | 0x32 => decodeMajor32 p
  | 0x33 => decodeMajor33 p
  | 0x34 => decodeMajor34 p
  | 0x35 => decodeMajor35 p
  | 0x36 => decodeMajor36 p
  | 0x37 => decodeMajor37 p
  | 0x38 => decodeMajor38 p
  | 0x39 => decodeMajor39 p
  | 0x3A => decodeMajor3A p
  | 0x3B => decodeMajor3B p
  | 0x3C => decodeMajor3C p
  | 0x3D => decodeMajor3D p
  | 0x3E => decodeMajor3E p
  | 0x3F => decodeMajor3F p
  | 0x40 => decodeMajor40 p
  | 0x41 => decodeMajor41 p
  | 0x42 => decodeMajor42 p
  | 0x43 => decodeMajor43 p
  | 0x44 => decodeMajor44 p
  | 0x45 => decodeMajor45 p
  | 0x46 => decodeMajor46 p
  | 0x47 => decodeMajor47 p
  | 0x48 => decodeMajor48 p
  | 0x49 => decodeMajor49 p
  | 0x4A => decodeMajor4A p
  | 0x4B => decodeMajor4B p
  | 0x4C => decodeMajor4C p
  | 0x4D => decodeMajor4D p
  | 0x4E => decodeMajor4E p
  | 0x4F => decodeMajor4F p
  | 0x50 => decodeMajor50 p
  | 0x51 => decodeMajor51 p
  | 0x52 => decodeMajor52 p
  | 0x53 => decodeMajor53 p
  | 0x54 => decodeMajor54 p
  | 0x55 => decodeMajor55 p
  | 0x56 => decodeMajor56 p
  | 0x57 => decodeMajor57 p
  | 0x58 => decodeMajor58 p
  | 0x59 => decodeMajor59 p
  | 0x5A => decodeMajor5A p
  | 0x5C => decodeMajor5C p
  | 0x5D => decodeMajor5D p
  | 0x5E => decodeMajor5E p
  | 0x5F => decodeMajor5F p
  | 0x60 => decodeMajor60 p
  | 0x61 => decodeMajor61 p
  | 0x62 => decodeMajor62 p
  | 0x63 => decodeMajor63 p
  | 0x64 => decodeMajor64 p
  | 0x65 => decodeMajor65 p
  | 0x66 => decodeMajor66 p
  | 0x67 => decodeMajor67 p
  | 0x68 => decodeMajor68 p
  | 0x69 => decodeMajor69 p
  | 0x6A => decodeMajor6A p
  | 0x6B => decodeMajor6B p
  | 0x6C => decodeMajor6C p
  | 0x6D => decodeMajor6D p
  | 0x6E => decodeMajor6E p
  | 0x6F => decodeMajor6F p
  | 0x70 => decodeMajor70 p
  | 0x71 => decodeMajor71 p
  | 0x72 => decodeMajor72 p
  | 0x73 => decodeMajor73 p
  | 0x74 => decodeMajor74 p
  | 0x75 => decodeMajor75 p
  | 0x76 => decodeMajor76 p
  | 0x77 => decodeMajor77 p
  | 0x78 => decodeMajor78 p
  | 0x79 => decodeMajor79 p
  | 0x7A => decodeMajor7A p
  | 0x7B => decodeMajor7B p
  | 0x7C => decodeMajor7C p
  | 0x7D => decodeMajor7D p
  | 0x7E => decodeMajor7E p
  | 0x7F => decodeMajor7F p
  | 0x5B => .error .preludeOnly
  | _ => .error .reservedMajor

/-- The instruction of a 16-bit form's payload `c` (04: R76). -/
def decodeShort (c : Nat) : Except Reject Instr :=
  match c % 32 with
  | 1 => if field c 13 2 = 0 then (.ok (.addQ (slice c 9 4) (slice c 5 4))) else .error .mustBeZero
  | 2 => if field c 13 2 = 0 then (.ok (.subQ (slice c 9 4) (slice c 5 4))) else .error .mustBeZero
  | 3 => if field c 13 2 = 0 then (.ok (.andQ (slice c 9 4) (slice c 5 4))) else .error .mustBeZero
  | 4 => if field c 13 2 = 0 then (.ok (.orQ (slice c 9 4) (slice c 5 4))) else .error .mustBeZero
  | 5 => if field c 13 2 = 0 then (.ok (.movQ (slice c 9 4) (slice c 5 4))) else .error .mustBeZero
  | 6 => .ok (.moviQ (slice c 9 6) (slice c 5 4))
  | 7 => .ok (.addiQ (slice c 9 6) (slice c 5 4))
  | 8 => .ok (.shliQ (slice c 9 6) (slice c 5 4))
  | 9 => .ok (.shriQ (slice c 9 6) (slice c 5 4))
  | 10 => .ok (.lddQ (slice c 13 2) (slice c 9 4) (slice c 5 4))
  | 11 => .ok (.stdQ (slice c 13 2) (slice c 9 4) (slice c 5 4))
  | 12 => .ok (.ldwQ (slice c 13 2) (slice c 9 4) (slice c 5 4))
  | 13 => .ok (.stwQ (slice c 13 2) (slice c 9 4) (slice c 5 4))
  | 14 => .ok (.bezQ (slice c 9 6) (slice c 5 4))
  | 15 => .ok (.bnzQ (slice c 9 6) (slice c 5 4))
  | 16 => .ok (.jQ (slice c 5 10))
  | 17 => if field c 9 6 = 0 then (.ok (.jrQ (slice c 5 4))) else .error .mustBeZero
  | 18 => if field c 5 10 = 0 then (.ok .doneQ) else .error .mustBeZero
  | 19 => if field c 5 10 = 0 then (.ok .brkQ) else .error .mustBeZero
  | 20 => if field c 5 10 = 0 then (.ok .nopQ) else .error .mustBeZero
  | _ => .error .reservedOp5

/-- Class bits of a halfword (04: R71). -/
def halfClass (h : Nat) : Nat := h / 16384 % 4

/-- An instruction from its first halfword and, where it has one, its second: the instruction and its length in bytes
(04: R71, R73). -/
def decodeHalves (h0 : Nat) (h1 : Option Nat) : Except Reject (Instr × Nat) :=
  match halfClass h0 with
  | 3 =>
    match h1 with
    | none => .error .truncated
    | some h1 =>
      if halfClass h1 = 2 then
        (decodePayload (h0 % 16384 + 16384 * (h1 % 16384))).map fun i => (i, 4)
      else .error .noContinuation
  | 2 => .error .continuation
  | _ => (decodeShort (h0 % 32768)).map fun i => (i, 2)

/-- An instruction from the bytes of code memory, lowest address first, little-endian halfwords (00: R4, 04: R71):
the instruction and the bytes after it. -/
def decodeBytes : List (BitVec 8) → Except Reject (Instr × List (BitVec 8))
  | b0 :: b1 :: b2 :: b3 :: rest =>
    (decodeHalves (b0.toNat + 256 * b1.toNat) (some (b2.toNat + 256 * b3.toNat))).map fun r =>
      (r.1, if r.2 = 4 then rest else b2 :: b3 :: rest)
  | b0 :: b1 :: rest => (decodeHalves (b0.toNat + 256 * b1.toNat) none).map fun r => (r.1, rest)
  | _ => .error .truncated

/-- The bytes of `n` bits of a word, lowest first. -/
def wordBytes : Nat → Nat → List (BitVec 8)
  | 0, _ => []
  | n + 1, w => BitVec.ofNat 8 w :: wordBytes n (w / 256)

/-- The decoder's reading of an instruction whose bits are `w`, bit 0 the least significant bit of the first
halfword. An instruction is at most 4 bytes long; bits above `nbits` are 0. -/
def decodeTableWord (nbits w : Nat) : Option Instr :=
  match decodeBytes (wordBytes 4 (w % 2 ^ nbits)) with
  | .ok (i, _) => some i
  | .error _ => none

/-- A field of an encoding in its place. -/
def place {n : Nat} (lo : Nat) (x : BitVec n) : Nat := x.toNat * 2 ^ lo

set_option maxHeartbeats 2000000 in
/-- The payload of an instruction's encoding and whether it is a 32-bit form (04: R74-R81); none for a row without
an encoding. -/
def payload : Instr → Option (Bool × Nat)
  | .add w cs rb ra rd => some (true, 0x0 + place 7 rd + place 13 ra + place 19 rb + place 25 cs + place 27 w)
  | .sub w cs rb ra rd => some (true, 0x1 + place 7 rd + place 13 ra + place 19 rb + place 25 cs + place 27 w)
  | .and w cs rb ra rd => some (true, 0x2 + place 7 rd + place 13 ra + place 19 rb + place 25 cs + place 27 w)
  | .or w cs rb ra rd => some (true, 0x3 + place 7 rd + place 13 ra + place 19 rb + place 25 cs + place 27 w)
  | .xor w cs rb ra rd => some (true, 0x4 + place 7 rd + place 13 ra + place 19 rb + place 25 cs + place 27 w)
  | .andn w cs rb ra rd => some (true, 0x5 + place 7 rd + place 13 ra + place 19 rb + place 25 cs + place 27 w)
  | .shl w cs rb ra rd => some (true, 0x6 + place 7 rd + place 13 ra + place 19 rb + place 25 cs + place 27 w)
  | .shr w cs rb ra rd => some (true, 0x7 + place 7 rd + place 13 ra + place 19 rb + place 25 cs + place 27 w)
  | .sar w cs rb ra rd => some (true, 0x8 + place 7 rd + place 13 ra + place 19 rb + place 25 cs + place 27 w)
  | .ror w cs rb ra rd => some (true, 0x9 + place 7 rd + place 13 ra + place 19 rb + place 25 cs + place 27 w)
  | .mul w cs rb ra rd => some (true, 0xA + place 7 rd + place 13 ra + place 19 rb + place 25 cs + place 27 w)
  | .mulh w cs rb ra rd => some (true, 0xB + place 7 rd + place 13 ra + place 19 rb + place 25 cs + place 27 w)
  | .mulhu w cs rb ra rd => some (true, 0xC + place 7 rd + place 13 ra + place 19 rb + place 25 cs + place 27 w)
  | .div w cs rb ra rd => some (true, 0xD + place 7 rd + place 13 ra + place 19 rb + place 25 cs + place 27 w)
  | .divu w cs rb ra rd => some (true, 0xE + place 7 rd + place 13 ra + place 19 rb + place 25 cs + place 27 w)
  | .rem w cs rb ra rd => some (true, 0xF + place 7 rd + place 13 ra + place 19 rb + place 25 cs + place 27 w)
  | .remu w cs rb ra rd => some (true, 0x10 + place 7 rd + place 13 ra + place 19 rb + place 25 cs + place 27 w)
  | .min w cs rb ra rd => some (true, 0x11 + place 7 rd + place 13 ra + place 19 rb + place 25 cs + place 27 w)
  | .max w cs rb ra rd => some (true, 0x12 + place 7 rd + place 13 ra + place 19 rb + place 25 cs + place 27 w)
  | .minu w cs rb ra rd => some (true, 0x13 + place 7 rd + place 13 ra + place 19 rb + place 25 cs + place 27 w)
  | .maxu w cs rb ra rd => some (true, 0x14 + place 7 rd + place 13 ra + place 19 rb + place 25 cs + place 27 w)
  | .slt w cs rb ra rd => some (true, 0x15 + place 7 rd + place 13 ra + place 19 rb + place 25 cs + place 27 w)
  | .sltu w cs rb ra rd => some (true, 0x16 + place 7 rd + place 13 ra + place 19 rb + place 25 cs + place 27 w)
  | .seq w cs rb ra rd => some (true, 0x17 + place 7 rd + place 13 ra + place 19 rb + place 25 cs + place 27 w)
  | .sel w cs rb ra rd => some (true, 0x18 + place 7 rd + place 13 ra + place 19 rb + place 25 cs + place 27 w)
  | .clz ra rd => some (true, 0x19 + place 7 rd + place 13 ra)
  | .ctz ra rd => some (true, 0x2000019 + place 7 rd + place 13 ra)
  | .popc ra rd => some (true, 0x4000019 + place 7 rd + place 13 ra)
  | .bswap ra rd => some (true, 0x6000019 + place 7 rd + place 13 ra)
  | .sextb ra rd => some (true, 0x8000019 + place 7 rd + place 13 ra)
  | .sexth ra rd => some (true, 0xA000019 + place 7 rd + place 13 ra)
  | .sextw ra rd => some (true, 0xC000019 + place 7 rd + place 13 ra)
  | .zextw ra rd => some (true, 0xE000019 + place 7 rd + place 13 ra)
  | .bext w cs rb ra rd => some (true, 0x1A + place 7 rd + place 13 ra + place 19 rb + place 25 cs + place 27 w)
  | .bdep w cs rb ra rd => some (true, 0x1B + place 7 rd + place 13 ra + place 19 rb + place 25 cs + place 27 w)
  | .addi imm ra rd => some (true, 0x1C + place 7 rd + place 13 ra + place 19 imm)
  | .andi imm ra rd => some (true, 0x1D + place 7 rd + place 13 ra + place 19 imm)
  | .ori imm ra rd => some (true, 0x1E + place 7 rd + place 13 ra + place 19 imm)
  | .shli n ra rd => some (true, 0x1F + place 7 rd + place 13 ra + place 19 n)
  | .shri n ra rd => some (true, 0x200001F + place 7 rd + place 13 ra + place 19 n)
  | .sari n ra rd => some (true, 0x400001F + place 7 rd + place 13 ra + place 19 n)
  | .rori n ra rd => some (true, 0x600001F + place 7 rd + place 13 ra + place 19 n)
  | .fadd w cs rb ra rd => some (true, 0x20 + place 7 rd + place 13 ra + place 19 rb + place 25 cs + place 27 w)
  | .fsub w cs rb ra rd => some (true, 0x21 + place 7 rd + place 13 ra + place 19 rb + place 25 cs + place 27 w)
  | .fmul w cs rb ra rd => some (true, 0x22 + place 7 rd + place 13 ra + place 19 rb + place 25 cs + place 27 w)
  | .fdiv w cs rb ra rd => some (true, 0x23 + place 7 rd + place 13 ra + place 19 rb + place 25 cs + place 27 w)
  | .ffma w cs rb ra rd => some (true, 0x24 + place 7 rd + place 13 ra + place 19 rb + place 25 cs + place 27 w)
  | .fmin w cs rb ra rd => some (true, 0x25 + place 7 rd + place 13 ra + place 19 rb + place 25 cs + place 27 w)
  | .fmax w cs rb ra rd => some (true, 0x26 + place 7 rd + place 13 ra + place 19 rb + place 25 cs + place 27 w)
  | .fsqrt w cs ra rd => some (true, 0x27 + place 7 rd + place 13 ra + place 25 cs + place 27 w)
  | .fcmpEq rb ra rd => some (true, 0x28 + place 7 rd + place 13 ra + place 19 rb)
  | .fcmpLt rb ra rd => some (true, 0x2000028 + place 7 rd + place 13 ra + place 19 rb)
  | .fcmpLe rb ra rd => some (true, 0x4000028 + place 7 rd + place 13 ra + place 19 rb)
  | .fcmpUnord rb ra rd => some (true, 0x6000028 + place 7 rd + place 13 ra + place 19 rb)
  | .fcvtF32S64 ra rd => some (true, 0x29 + place 7 rd + place 13 ra)
  | .fcvtS64F32 ra rd => some (true, 0x2000029 + place 7 rd + place 13 ra)
  | .fcvtF32Bf16 ra rd => some (true, 0x4000029 + place 7 rd + place 13 ra)
  | .fcvtBf16F32 ra rd => some (true, 0x6000029 + place 7 rd + place 13 ra)
  | .fcvtF32F16 ra rd => some (true, 0x8000029 + place 7 rd + place 13 ra)
  | .fcvtF16F32 ra rd => some (true, 0xA000029 + place 7 rd + place 13 ra)
  | .fcvtF32Fmt fn ra rd => some (true, 0xC000029 + place 7 rd + place 13 ra + place 19 fn)
  | .fcvtFmtF32 fn ra rd => some (true, 0xE000029 + place 7 rd + place 13 ra + place 19 fn)
  | .fneg ra rd => some (true, 0x2A + place 7 rd + place 13 ra)
  | .fabs ra rd => some (true, 0x200002A + place 7 rd + place 13 ra)
  | .fcopysign rb ra rd => some (true, 0x400002A + place 7 rd + place 13 ra + place 19 rb)
  | .fclass ra rd => some (true, 0x2B + place 7 rd + place 13 ra)
  | .movk w k rd => some (true, 0x2E + place 7 rd + place 19 k + place 27 w)
  | .addk w k ra rd => some (true, 0x2F + place 7 rd + place 13 ra + place 19 k + place 27 w)
  | .beq imm rb ra => some (true, 0x30 + place 7 ra + place 13 rb + place 19 imm)
  | .bne imm rb ra => some (true, 0x31 + place 7 ra + place 13 rb + place 19 imm)
  | .blt imm rb ra => some (true, 0x32 + place 7 ra + place 13 rb + place 19 imm)
  | .bge imm rb ra => some (true, 0x33 + place 7 ra + place 13 rb + place 19 imm)
  | .bltu imm rb ra => some (true, 0x34 + place 7 ra + place 13 rb + place 19 imm)
  | .bgeu imm rb ra => some (true, 0x35 + place 7 ra + place 13 rb + place 19 imm)
  | .j imm => some (true, 0x36 + place 7 imm)
  | .jl imm => some (true, 0x37 + place 7 imm)
  | .jr w cs ra rd => some (true, 0x38 + place 7 rd + place 13 ra + place 25 cs + place 27 w)
  | .loop imm ra => some (true, 0x39 + place 7 ra + place 19 imm)
  | .done => some (true, 0x3A)
  | .doneRepost => some (true, 0x200003A)
  | .bfe imm rb ra => some (true, 0x3B + place 7 ra + place 13 rb + place 19 imm)
  | .waitfe rb ra => some (true, 0x3C + place 13 ra + place 19 rb)
  | .csrw csr ra rd => some (true, 0x3D + place 7 rd + place 13 ra + place 19 csr)
  | .csrs csr ra rd => some (true, 0x3E + place 7 rd + place 13 ra + place 19 csr)
  | .csrc csr ra rd => some (true, 0x3F + place 7 rd + place 13 ra + place 19 csr)
  | .csrr csr rd => some (true, 0x7D + place 7 rd + place 19 csr)
  | .ldb imm ra rd => some (true, 0x40 + place 7 rd + place 13 ra + place 19 imm)
  | .ldbu imm ra rd => some (true, 0x41 + place 7 rd + place 13 ra + place 19 imm)
  | .ldh imm ra rd => some (true, 0x42 + place 7 rd + place 13 ra + place 19 imm)
  | .ldhu imm ra rd => some (true, 0x43 + place 7 rd + place 13 ra + place 19 imm)
  | .ldw imm ra rd => some (true, 0x44 + place 7 rd + place 13 ra + place 19 imm)
  | .ldwu imm ra rd => some (true, 0x45 + place 7 rd + place 13 ra + place 19 imm)
  | .ldd imm ra rd => some (true, 0x46 + place 7 rd + place 13 ra + place 19 imm)
  | .stb imm ra rd => some (true, 0x47 + place 7 rd + place 13 ra + place 19 imm)
  | .sth imm ra rd => some (true, 0x48 + place 7 rd + place 13 ra + place 19 imm)
  | .stw imm ra rd => some (true, 0x49 + place 7 rd + place 13 ra + place 19 imm)
  | .std imm ra rd => some (true, 0x4A + place 7 rd + place 13 ra + place 19 imm)
  | .lds imm ra rd => some (true, 0x4B + place 7 rd + place 13 ra + place 19 imm)
  | .ldv ra vn => some (true, 0x4C + place 7 vn + place 13 ra)
  | .stv ra vn => some (true, 0x200004C + place 7 vn + place 13 ra)
  | .bitld wm1 ra rd => some (true, 0x4D + place 7 rd + place 13 ra + place 19 wm1)
  | .bitst wm1 ra rd => some (true, 0x200004D + place 7 rd + place 13 ra + place 19 wm1)
  | .ldr ra h vn => some (true, 0x4E + place 7 vn + place 12 h + place 13 ra)
  | .lde ra rd => some (true, 0x4F + place 7 rd + place 13 ra)
  | .stf ra rd => some (true, 0x200004F + place 7 rd + place 13 ra)
  | .setf ra => some (true, 0x400004F + place 13 ra)
  | .sete ra => some (true, 0x600004F + place 13 ra)
  | .setfRs ra => some (true, 0x408004F + place 13 ra)
  | .seteRs ra => some (true, 0x608004F + place 13 ra)
  | .amo wd ord op ra rd => some (true, 0x50 + place 7 rd + place 13 ra + place 19 op + place 22 ord + place 24 wd)
  | .amoxXchg ord ra rd => some (true, 0x51 + place 7 rd + place 13 ra + place 26 ord)
  | .amoxCas ord rb ra rd => some (true, 0x2000051 + place 7 rd + place 13 ra + place 19 rb + place 26 ord)
  | .amofFadd32 ord ra rd => some (true, 0x52 + place 7 rd + place 13 ra + place 27 ord)
  | .amofFmaxabs ord ra rd => some (true, 0x2000052 + place 7 rd + place 13 ra + place 27 ord)
  | .amofBumplim ord rb ra rd => some (true, 0x4000052 + place 7 rd + place 13 ra + place 19 rb + place 27 ord)
  | .fence sc => some (true, 0x53 + place 19 sc)
  | .fencer rb ra sc => some (true, 0x54 + place 7 sc + place 13 ra + place 19 rb)
  | .tfence => some (true, 0x55)
  | .ldacq sz sc ra rd => some (true, 0x56 + place 7 rd + place 13 ra + place 19 sc + place 23 sz)
  | .strel sz sc ra rd => some (true, 0x57 + place 7 rd + place 13 ra + place 19 sc + place 23 sz)
  | .send rb ra rd => some (true, 0x58 + place 7 rd + place 13 ra + place 19 rb)
  | .sendv vn ra => some (true, 0x59 + place 13 ra + place 19 vn)
  | .sendp rb ra rd => some (true, 0x5A + place 7 rd + place 13 ra + place 19 rb)
  | .post ra => some (true, 0x5C + place 13 ra)
  | .hmask rb ra rd => some (true, 0x5D + place 7 rd + place 13 ra + place 19 rb)
  | .arradd rb ra => some (true, 0x5E + place 13 ra + place 19 rb)
  | .arrwait rb ra => some (true, 0x200005E + place 13 ra + place 19 rb)
  | .arrreset ra rd => some (true, 0x400005E + place 7 rd + place 13 ra)
  | .cbarArrive rb ra rd => some (true, 0x5F + place 7 rd + place 13 ra + place 19 rb)
  | .cbarWait rb ra => some (true, 0x200005F + place 13 ra + place 19 rb)
  | .cbarArrivewait rb ra rd => some (true, 0x400005F + place 7 rd + place 13 ra + place 19 rb)
  | .cpygo rb ra rd => some (true, 0x60 + place 7 rd + place 13 ra + place 19 rb)
  | .cpywait rb rd => some (true, 0x61 + place 7 rd + place 19 rb)
  | .cpystat rb rd => some (true, 0x62 + place 7 rd + place 19 rb)
  | .tmset ra tm => some (true, 0x63 + place 7 tm + place 13 ra)
  | .tmget ra tm => some (true, 0x64 + place 7 tm + place 13 ra)
  | .waitmask rb ra => some (true, 0x65 + place 13 ra + place 19 rb)
  | .testmask rb ra rd => some (true, 0x66 + place 7 rd + place 13 ra + place 19 rb)
  | .hbset rb ra rd => some (true, 0x67 + place 7 rd + place 13 ra + place 19 rb)
  | .fmtset ra fd => some (true, 0x68 + place 7 fd + place 13 ra)
  | .mldw pr fmt tm wb => some (true, 0x69 + place 9 wb + place 11 tm + place 15 fmt + place 18 pr)
  | .mmul pr set fmt tm bank acc => some (true, 0x6A + place 7 acc + place 9 bank + place 10 tm + place 14 fmt + place 17 set + place 18 pr)
  | .mream pr fmt tm q cb => some (true, 0x6B + place 7 cb + place 8 q + place 9 tm + place 13 fmt + place 16 pr)
  | .mrmrg src dst => some (true, 0x6C + place 7 dst + place 8 src)
  | .mdrain ra set acc cb => some (true, 0x6D + place 10 cb + place 11 acc + place 13 set + place 14 ra)
  | .mstore pr fmt tm acc => some (true, 0xED + place 11 acc + place 13 tm + place 17 fmt + place 20 pr)
  | .mclr tgt => some (true, 0x6E + place 7 tgt)
  | .mstat rd => some (true, 0x6F + place 7 rd)
  | .vadd ty vb va vd => some (true, 0x70 + place 7 vd + place 12 va + place 17 vb + place 22 ty)
  | .vsub ty vb va vd => some (true, 0x2000070 + place 7 vd + place 12 va + place 17 vb + place 22 ty)
  | .vmul ty vb va vd => some (true, 0x4000070 + place 7 vd + place 12 va + place 17 vb + place 22 ty)
  | .vfma ty vb va vd => some (true, 0x6000070 + place 7 vd + place 12 va + place 17 vb + place 22 ty)
  | .vmin ty vb va vd => some (true, 0x8000070 + place 7 vd + place 12 va + place 17 vb + place 22 ty)
  | .vmax ty vb va vd => some (true, 0xA000070 + place 7 vd + place 12 va + place 17 vb + place 22 ty)
  | .vabs ty va vd => some (true, 0xC000070 + place 7 vd + place 12 va + place 22 ty)
  | .vneg ty va vd => some (true, 0xE000070 + place 7 vd + place 12 va + place 22 ty)
  | .vand vb va vd => some (true, 0x71 + place 7 vd + place 12 va + place 17 vb)
  | .vor vb va vd => some (true, 0x2000071 + place 7 vd + place 12 va + place 17 vb)
  | .vxor vb va vd => some (true, 0x4000071 + place 7 vd + place 12 va + place 17 vb)
  | .vandn vb va vd => some (true, 0x6000071 + place 7 vd + place 12 va + place 17 vb)
  | .vshl ty vb va vd => some (true, 0x8000071 + place 7 vd + place 12 va + place 17 vb + place 22 ty)
  | .vshr ty vb va vd => some (true, 0xA000071 + place 7 vd + place 12 va + place 17 vb + place 22 ty)
  | .vsar ty vb va vd => some (true, 0xC000071 + place 7 vd + place 12 va + place 17 vb + place 22 ty)
  | .vnot va vd => some (true, 0xE000071 + place 7 vd + place 12 va)
  | .vcmp cond ty vb va vd => some (true, 0x72 + place 7 vd + place 12 va + place 17 vb + place 22 ty + place 25 cond)
  | .vsel ty vb va vd => some (true, 0x73 + place 7 vd + place 12 va + place 17 vb + place 22 ty)
  | .vpermx ty vb va vd => some (true, 0x2000073 + place 7 vd + place 12 va + place 17 vb + place 22 ty)
  | .vbcast ty va vd => some (true, 0x4000073 + place 7 vd + place 12 va + place 22 ty)
  | .vslideup ty vb va vd => some (true, 0x6000073 + place 7 vd + place 12 va + place 17 vb + place 22 ty)
  | .vslidedn ty vb va vd => some (true, 0x8000073 + place 7 vd + place 12 va + place 17 vb + place 22 ty)
  | .vzip ty vb va vd => some (true, 0xA000073 + place 7 vd + place 12 va + place 17 vb + place 22 ty)
  | .vunzip ty va vd => some (true, 0xC000073 + place 7 vd + place 12 va + place 22 ty)
  | .viota ty vd => some (true, 0xE000073 + place 7 vd + place 22 ty)
  | .vcvt dst src part mode va vd => some (true, 0x74 + place 7 vd + place 12 va + place 17 mode + place 19 part + place 22 src + place 25 dst)
  | .vred op ty va vd => some (true, 0x75 + place 7 vd + place 12 va + place 22 ty + place 25 op)
  | .ldtm ty vb tm vd => some (true, 0x76 + place 7 vd + place 12 tm + place 17 vb + place 22 ty)
  | .sttm ty vb tm vd => some (true, 0x2000076 + place 7 vd + place 12 tm + place 17 vb + place 22 ty)
  | .ldstr ty vb va vd => some (true, 0x4000076 + place 7 vd + place 12 va + place 17 vb + place 22 ty)
  | .ststr ty vb va vd => some (true, 0x6000076 + place 7 vd + place 12 va + place 17 vb + place 22 ty)
  | .ldgi ty vb va vd => some (true, 0x8000076 + place 7 vd + place 12 va + place 17 vb + place 22 ty)
  | .stsi ty vb va vd => some (true, 0xA000076 + place 7 vd + place 12 va + place 17 vb + place 22 ty)
  | .ldfe va vd => some (true, 0xC000076 + place 7 vd + place 12 va)
  | .vmovls ty vb va vd => some (true, 0x77 + place 7 vd + place 12 va + place 17 vb + place 22 ty)
  | .vmovsl ty vb va vd => some (true, 0x2000077 + place 7 vd + place 12 va + place 17 vb + place 22 ty)
  | .exp ty va vd => some (true, 0x78 + place 7 vd + place 12 va + place 22 ty)
  | .exp2 ty va vd => some (true, 0x2000078 + place 7 vd + place 12 va + place 22 ty)
  | .log2 ty va vd => some (true, 0x4000078 + place 7 vd + place 12 va + place 22 ty)
  | .rsqrt ty va vd => some (true, 0x6000078 + place 7 vd + place 12 va + place 22 ty)
  | .rcp ty va vd => some (true, 0x8000078 + place 7 vd + place 12 va + place 22 ty)
  | .tanh ty va vd => some (true, 0xA000078 + place 7 vd + place 12 va + place 22 ty)
  | .sigmoid ty va vd => some (true, 0xC000078 + place 7 vd + place 12 va + place 22 ty)
  | .rowmaxsub ty va vd => some (true, 0xE000078 + place 7 vd + place 12 va + place 22 ty)
  | .smpath ty vb vd => some (true, 0x79 + place 7 vd + place 17 vb + place 22 ty)
  | .smerge ty vb => some (true, 0x2000079 + place 17 vb + place 22 ty)
  | .smkv ty vb => some (true, 0x4000079 + place 17 vb + place 22 ty)
  | .smsort ty va vd => some (true, 0x6000079 + place 7 vd + place 12 va + place 22 ty)
  | .gxgather ty vb va => some (true, 0x7A + place 12 va + place 17 vb + place 22 ty)
  | .gxscat ty vb va => some (true, 0x200007A + place 12 va + place 17 vb + place 22 ty)
  | .gxbins ty vb va vd => some (true, 0x400007A + place 7 vd + place 12 va + place 17 vb + place 22 ty)
  | .gxstat vd => some (true, 0x600007A + place 7 vd)
  | .zdgo vb => some (true, 0x7B + place 17 vb)
  | .zdwait vd => some (true, 0x200007B + place 7 vd)
  | .rdsum ty vb va => some (true, 0x400007B + place 12 va + place 17 vb + place 22 ty)
  | .rdmax ty vb va => some (true, 0x600007B + place 12 va + place 17 vb + place 22 ty)
  | .rdjoin vb => some (true, 0x800007B + place 17 vb)
  | .lease prio eng ra rd => some (true, 0x7C + place 7 rd + place 13 ra + place 19 eng + place 22 prio)
  | .lyield eng rd => some (true, 0x200007C + place 7 rd + place 19 eng)
  | .lfree eng => some (true, 0x400007C + place 19 eng)
  | .lstat eng rd => some (true, 0x600007C + place 7 rd + place 19 eng)
  | .brk => some (true, 0x7E)
  | .trap n ra => some (true, 0x200007E + place 13 ra + place 19 n)
  | .dbgmark ra => some (true, 0x400007E + place 13 ra)
  | .qtile rb ra rd => some (true, 0x600007E + place 7 rd + place 13 ra + place 19 rb)
  | .qcap rd => some (true, 0x800007E + place 7 rd)
  | .qpwr rd => some (true, 0xA00007E + place 7 rd)
  | .nop => some (true, 0xC00007E)
  | .tret => some (true, 0x7F)
  | .evwait => some (true, 0x8007F)
  | .tlbinv ra => some (true, 0x10007F + place 13 ra)
  | .tlbinva ra => some (true, 0x18007F + place 13 ra)
  | .icinv ra rd => some (true, 0x20007F + place 7 rd + place 13 ra)
  | .dcflush ra rd => some (true, 0x28007F + place 7 rd + place 13 ra)
  | .dcinv ra rd => some (true, 0x30007F + place 7 rd + place 13 ra)
  | .haltb ra => some (true, 0x38007F + place 13 ra)
  | .resumeb ra => some (true, 0x40007F + place 13 ra)
  | .savectx ra rd => some (true, 0x48007F + place 7 rd + place 13 ra)
  | .loadctx ra rd => some (true, 0x50007F + place 7 rd + place 13 ra)
  | .addQ ra rd => some (false, 0x1 + place 5 rd + place 9 ra)
  | .subQ ra rd => some (false, 0x2 + place 5 rd + place 9 ra)
  | .andQ ra rd => some (false, 0x3 + place 5 rd + place 9 ra)
  | .orQ ra rd => some (false, 0x4 + place 5 rd + place 9 ra)
  | .movQ ra rd => some (false, 0x5 + place 5 rd + place 9 ra)
  | .moviQ imm rd => some (false, 0x6 + place 5 rd + place 9 imm)
  | .addiQ imm rd => some (false, 0x7 + place 5 rd + place 9 imm)
  | .shliQ n rd => some (false, 0x8 + place 5 rd + place 9 n)
  | .shriQ n rd => some (false, 0x9 + place 5 rd + place 9 n)
  | .lddQ ext ra rd => some (false, 0xA + place 5 rd + place 9 ra + place 13 ext)
  | .stdQ ext ra rd => some (false, 0xB + place 5 rd + place 9 ra + place 13 ext)
  | .ldwQ ext ra rd => some (false, 0xC + place 5 rd + place 9 ra + place 13 ext)
  | .stwQ ext ra rd => some (false, 0xD + place 5 rd + place 9 ra + place 13 ext)
  | .bezQ imm rd => some (false, 0xE + place 5 rd + place 9 imm)
  | .bnzQ imm rd => some (false, 0xF + place 5 rd + place 9 imm)
  | .jQ imm => some (false, 0x10 + place 5 imm)
  | .jrQ rd => some (false, 0x11 + place 5 rd)
  | .doneQ => some (false, 0x12)
  | .brkQ => some (false, 0x13)
  | .nopQ => some (false, 0x14)
  | .powerOnReset => none
  | .doorbell .. => none
  | .cheadWrite .. => none
  | .teardown .. => none
  | .reset .. => none
  | .replay .. => none
  | .abort .. => none
  | .workRecordRead .. => none
  | .itemDispatch .. => none
  | .tokenRefill .. => none
  | .routeQuiet .. => none
  | .routeQuietTimeout .. => none
  | .launchStart .. => none
  | .clusterStart .. => none
  | .completionSignal .. => none
  | .entryInvalidate .. => none
  | .nodeComplete .. => none
  | .conditionRead .. => none
  | .copyNodeDone .. => none
  | .drainComplete .. => none
  | .linkFault .. => none
  | .routeRepair .. => none
  | .routerForward .. => none
  | .islandQtile .. => none
  | .codeCacheFill .. => none
  | .activationStart .. => none
  | .messageDeposit .. => none
  | .dispatchAccept .. => none
  | .engineOpComplete .. => none
  | .engineFault .. => none
  | .leaseGrant .. => none
  | .graceExpiry .. => none
  | .leaseRelease .. => none
  | .engineGate .. => none
  | .powerEvaluation .. => none
  | .thermalTrip .. => none
  | .operatingPointChange .. => none
  | .operatingPointDone .. => none
  | .railEvaluation .. => none
  | .voteWithdraw .. => none
  | .ldoAcknowledge .. => none
  | .stackThrottle .. => none
  | .stackRestore .. => none
  | .sendInject .. => none
  | .requestServe .. => none
  | .watchpointStop .. => none
  | .replySink .. => none
  | .islandForward .. => none
  | .walkComplete .. => none
  | .storeRelease .. => none
  | .recordStart .. => none
  | .sectorComplete .. => none
  | .sectorFault .. => none
  | .burstStart .. => none
  | .headboxBlockSend .. => none
  | .headboxBlockTake .. => none
  | .rdContribution .. => none
  | .zdJobEnd .. => none
  | .fabricFlagArrive .. => none
  | .fabricResend .. => none
  | .trapTake .. => none
  | .resumeRetry .. => none
  | .resumeNext .. => none
  | .resumeGoto .. => none
  | .resumeEnd .. => none
  | .preemptDrainEnd .. => none
  | .lockstepCheckpoint .. => none
  | .lockstepMismatch .. => none
  | .lockstepRollback .. => none
  | .islandTrapEntry .. => none
  | .islandEventEntry .. => none
  | .islandTimer .. => none
  | .ktcmpWrite .. => none
  | .wedgedCoreRestart .. => none
  | .hubRead .. => none
  | .hubWrite .. => none
  | .softStop .. => none
  | .softStopComplete .. => none
  | .clusterStop .. => none
  | .step .. => none
  | .hubResume .. => none
  | .hardStopReceive .. => none
  | .coreStop .. => none
  | .routerCounterWrite .. => none
  | .hostWrite .. => none
  | .hostRead .. => none
  | .linkFrameReceive .. => none
  | .linkReplay .. => none
  | .fabricRequestReceive .. => none
  | .quoteRequest .. => none
  | .measurementExtend .. => none
  | .restoreComplete .. => none

/-- The halfwords of an instruction, the first at the lower address (04: R71); empty for a row without an encoding. -/
def encode (i : Instr) : List (BitVec 16) :=
  match payload i with
  | some (true, p) => [BitVec.ofNat 16 (0xC000 + p % 16384), BitVec.ofNat 16 (0x8000 + p / 16384)]
  | some (false, c) => [BitVec.ofNat 16 c]
  | none => []

/-- The bytes of a list of halfwords (00: R4). -/
def halfBytes : List (BitVec 16) → List (BitVec 8)
  | [] => []
  | h :: t => h.setWidth 8 :: (h >>> 8).setWidth 8 :: halfBytes t

/-- The length in bytes of an instruction of the table's encoded rows: 2 for the 16-bit forms, else 4 (04: R71). -/
def Instr.len (i : Instr) : Nat :=
  match payload i with
  | some (false, _) => 2
  | _ => 4

/-- The row has an encoding: a core fetches it. -/
def Instr.encoded (i : Instr) : Bool := (payload i).isSome

end Sys2Proof
end

