-- ==== Sys2Proof/Machine/Num.lean ====
section
/-! DEFINITION. Number formats and exact arithmetic (11: R211-R227; 06: R113-R119). A value is a NaN, an infinity or
an exact binary number; one encoder turns any value into any format and gives its flags. -/

namespace Sys2Proof.Machine

/-- The six sticky flags in the order of FCSR (05: R101). -/
abbrev Flags := BitVec 6

def Flags.none : Flags := 0#6
def Flags.nv : Flags := 1#6
def Flags.dz : Flags := 2#6
def Flags.of : Flags := 4#6
def Flags.uf : Flags := 8#6
def Flags.nx : Flags := 16#6
def Flags.sat : Flags := 32#6

/-- An exact value: `fin neg m e` is (−1)^neg · m · 2^e (04: R84, `real`). -/
inductive Val where
  | nan (signalling : Bool)
  | inf (neg : Bool)
  | fin (neg : Bool) (m : Nat) (e : Int)
  deriving DecidableEq, Repr

/-- How a format treats special values and overflow (11: R212, R216, R219, R223). `std` is a format of R212;
`ieee` is policy 0, `oneNan` policy 1, `sat` policy 2 and every integer format, `tc` two's complement, `scale`
UE8M4. -/
inductive Policy where
  | std | ieee | oneNan | sat | tc | scale
  deriving DecidableEq, Repr

/-- A number format: sign bits, exponent bits, mantissa bits, bias, policy (11: R213). -/
structure Fmt where
  s : Nat
  e : Nat
  m : Nat
  bias : Int
  pol : Policy
  deriving DecidableEq, Repr

/-- Width of a code (11: R213). -/
def Fmt.w (f : Fmt) : Nat := f.s + f.e + f.m

def Fmt.f32 : Fmt := ⟨1, 8, 23, 127, .std⟩
def Fmt.f16 : Fmt := ⟨1, 5, 10, 15, .std⟩
def Fmt.bf16 : Fmt := ⟨1, 8, 7, 127, .std⟩
def Fmt.ue8m4 : Fmt := ⟨0, 8, 4, 127, .scale⟩
/-- Two's-complement integer of `n` bits (11: R211). -/
def Fmt.int (n : Nat) : Fmt := ⟨1, 0, n - 1, 0, .tc⟩
/-- Unsigned integer of `n` bits (11: R211). -/
def Fmt.uint (n : Nat) : Fmt := ⟨0, 0, n, 0, .sat⟩

/-- Bits of a number from `lo`, `n` of them. -/
def bitsOf (v lo n : Nat) : Nat := v / 2 ^ lo % 2 ^ n

/-- An `n`-bit two's-complement reading (04: R84, `sext`). -/
def sextNat (v n : Nat) : Int := if bitsOf v (n - 1) 1 = 1 then (v % 2 ^ n : Int) - 2 ^ n else (v % 2 ^ n : Int)

/-- The format a format register describes, or none (11: R213, R214). -/
def Fmt.ofReg (r : BitVec 32) : Option Fmt :=
  let v := r.toNat
  let s := bitsOf v 0 1
  let e := bitsOf v 1 3
  let m := bitsOf v 4 3
  let b := sextNat (bitsOf v 7 8) 8
  let tc := bitsOf v 15 1
  let pol := bitsOf v 16 2
  if bitsOf v 18 14 ≠ 0 then none
  else if 8 < s + e + m || e + m < 1 then none
  else if pol = 3 then none
  else if tc = 1 && !(e = 0 && s = 1) then none
  else if e = 0 && pol ≠ 2 then none
  else if pol = 0 && !(2 ≤ e && 1 ≤ m) then none
  else if pol = 1 && e < 1 then none
  else some ⟨s, e, m, b, if tc = 1 then .tc else if pol = 0 then .ieee else if pol = 1 then .oneNan else .sat⟩

/-- Exact value of a code (11: R212, R215, R216, R219). -/
def Fmt.real (f : Fmt) (b : Nat) : Val :=
  let b := b % 2 ^ f.w
  let neg := f.s = 1 && bitsOf b (f.w - 1) 1 = 1
  let E := bitsOf b f.m f.e
  let M := bitsOf b 0 f.m
  let top := 2 ^ f.e - 1
  let plain : Val :=
    if f.e = 0 then .fin neg M (-f.bias)
    else if E = 0 then .fin neg M (1 - f.bias - f.m)
    else .fin neg (2 ^ f.m + M) (E - f.bias - f.m)
  match f.pol with
  | .std => if E = top then (if M = 0 then .inf neg else .nan (bitsOf M (f.m - 1) 1 = 0)) else plain
  | .ieee => if E = top then (if M = 0 then .inf neg else .nan false) else plain
  | .oneNan => if b = 2 ^ f.w - 1 then .nan false else plain
  | .scale => if E = top then .nan false else plain
  | .sat => plain
  | .tc => let z := sextNat b f.w
           .fin (z < 0) z.natAbs (-f.bias)

/-- Code of a NaN in a format that has one; 0 where it has none (11: R224). -/
def Fmt.nanCode (f : Fmt) : Nat :=
  match f.pol with
  | .std => (2 ^ f.e - 1) * 2 ^ f.m + 2 ^ (f.m - 1)
  | .ieee => 2 ^ (f.e + f.m) - 1
  | .oneNan => 2 ^ f.w - 1
  | .scale => 0xFF0
  | .sat | .tc => 0

/-- Magnitude code of the largest finite value of a sign (11: R212, R216, R219). -/
def Fmt.maxMag (f : Fmt) (neg : Bool) : Nat :=
  match f.pol with
  | .std | .ieee => (2 ^ f.e - 1) * 2 ^ f.m - 1
  | .oneNan => if f.s = 1 && !neg then 2 ^ (f.e + f.m) - 1 else 2 ^ (f.e + f.m) - 2
  | .scale => 0xFEF
  | .sat => 2 ^ (f.e + f.m) - 1
  | .tc => if neg then 2 ^ f.m else 2 ^ f.m - 1

/-- The code of a sign and a magnitude code. A format with e = 0 or no sign has one zero (11: R222, step 3). -/
def Fmt.signed (f : Fmt) (neg : Bool) (mag : Nat) : Nat :=
  if f.pol = .tc then (if neg then (2 ^ f.w - mag) % 2 ^ f.w else mag)
  else if neg && f.s = 1 && !(f.e = 0 && mag = 0) then 2 ^ (f.w - 1) + mag else mag

/-- The infinity of a sign, in a format that has one (11: R212, R216). -/
def Fmt.infCode (f : Fmt) (neg : Bool) : Nat := f.signed neg ((2 ^ f.e - 1) * 2 ^ f.m)

/-- `m · 2^d` rounded to an integer magnitude under a mode, for a value of a sign (11: R221). -/
def roundTo (rm : Nat) (neg : Bool) (m : Nat) (d : Int) : Nat :=
  if 0 ≤ d then m * 2 ^ d.toNat
  else
    let sh := (-d).toNat
    let q := m / 2 ^ sh
    let r := m % 2 ^ sh
    let half := 2 ^ (sh - 1)
    let up : Bool :=
      match rm with
      | 0 => half < r || (r = half && q % 2 = 1)
      | 1 => false
      | 2 => !neg && r ≠ 0
      | 3 => neg && r ≠ 0
      | _ => half ≤ r
    if up then q + 1 else q

/-- `m1 · 2^e1 < m2 · 2^e2` for magnitudes. -/
def magLt (m1 : Nat) (e1 : Int) (m2 : Nat) (e2 : Int) : Bool :=
  let e := min e1 e2
  decide (m1 * 2 ^ (e1 - e).toNat < m2 * 2 ^ (e2 - e).toNat)

/-- Result of an overflow (11: R223). -/
def Fmt.overflow (f : Fmt) (rm : Nat) (neg : Bool) : Nat × Flags :=
  match f.pol with
  | .std | .ieee =>
    let toInf : Bool := match rm with
      | 1 => false
      | 2 => !neg
      | 3 => neg
      | _ => true
    (if toInf then f.infCode neg else f.signed neg (f.maxMag neg), Flags.of ||| Flags.nx)
  | _ => (f.signed neg (f.maxMag neg), Flags.sat ||| Flags.nx)

/-- Magnitude code of `r · 2^q` for a floating format, `q` the exponent of its quantum (11: R222, step 6). -/
def Fmt.magCode (f : Fmt) (r : Nat) (q : Int) : Nat :=
  if f.e = 0 then r
  else if r < 2 ^ f.m then r
  else
    let k := r.log2
    let E := (q + k + f.bias).toNat
    E * 2 ^ f.m + (r * 2 ^ f.m / 2 ^ k - 2 ^ f.m)

/-- The code of a value in a format under a rounding mode, with the flags (11: R222-R224). -/
def Fmt.encode (f : Fmt) (rm : Nat) (x : Val) : Nat × Flags :=
  match x with
  | .nan sig =>
    let base := match f.pol with
      | .sat | .tc => Flags.nv
      | _ => Flags.none
    (f.nanCode, if sig then base ||| Flags.nv else base)
  | .inf neg =>
    match f.pol with
    | .std => (f.infCode neg, Flags.none)
    | .ieee => if neg && f.s = 0 then (0, Flags.sat ||| Flags.nx) else (f.infCode neg, Flags.none)
    | .scale => if neg then (0xFF0, Flags.nv) else (0xFEF, Flags.sat ||| Flags.nx)
    | _ => if neg && f.s = 0 then (0, Flags.sat ||| Flags.nx)
           else (f.signed neg (f.maxMag neg), Flags.sat ||| Flags.nx)
  | .fin neg m e =>
    if m = 0 then (f.signed neg 0, Flags.none)
    else if neg && f.s = 0 then
      (if f.pol = .scale then (0xFF0, Flags.nv) else (0, Flags.sat ||| Flags.nx))
    else
      let k : Int := m.log2 + e
      let q : Int := if f.e = 0 then -f.bias else max k (1 - f.bias) - f.m
      let r := roundTo rm neg m (e - q)
      let big : Bool :=
        match f.real (f.signed neg (f.maxMag neg)) with
        | .fin _ mm me => magLt mm me r q
        | _ => false
      if big then f.overflow rm neg
      else
        let exact := !(magLt m e r q) && !(magLt r q m e)
        let tiny := f.e ≠ 0 && r < 2 ^ f.m
        let fl := if exact then Flags.none else if tiny then Flags.nx ||| Flags.uf else Flags.nx
        (f.signed neg (f.magCode r q), fl)

/-- A value rounded to an integer of a sign and a magnitude, with whether it changed (11: R221). -/
def Val.toInt (rm : Nat) : Val → Int × Bool
  | .fin neg m e =>
    let r := roundTo rm neg m e
    let exact := !(magLt m e r 0) && !(magLt r 0 m e)
    (if neg then -(r : Int) else r, !exact)
  | _ => (0, false)

def Val.ofInt (z : Int) : Val := .fin (z < 0) z.natAbs 0

def Val.isNan : Val → Bool
  | .nan _ => true
  | _ => false

def Val.isSnan : Val → Bool
  | .nan s => s
  | _ => false

def Val.isInf : Val → Bool
  | .inf _ => true
  | _ => false

def Val.isZero : Val → Bool
  | .fin _ m _ => m = 0
  | _ => false

def Val.neg : Val → Val
  | .nan s => .nan s
  | .inf n => .inf (!n)
  | .fin n m e => .fin (!n) m e

def Val.sign : Val → Bool
  | .nan _ => false
  | .inf n => n
  | .fin n _ _ => n

def Val.abs : Val → Val
  | .nan s => .nan s
  | .inf _ => .inf false
  | .fin _ m e => .fin false m e

/-- NV where a signalling NaN is read (06: R113). -/
def snanFlag (xs : List Val) : Flags := if xs.any Val.isSnan then Flags.nv else Flags.none

/-- Signed magnitude of a finite value against an exponent not above its own. -/
def scaled (x : Val) (e0 : Int) : Int :=
  match x with
  | .fin n m e => (if n then -1 else 1) * (m * 2 ^ (e - e0).toNat : Nat)
  | _ => 0

def Val.exp : Val → Int
  | .fin _ m e => if m = 0 then 0 else e
  | _ => 0

/-- x < y for values that are not NaNs; −0 equals +0 (06: R116). -/
def Val.lt (x y : Val) : Bool :=
  match x, y with
  | .nan _, _ => false
  | _, .nan _ => false
  | .inf a, .inf b => a && !b
  | .inf a, _ => a
  | _, .inf b => !b
  | x, y =>
    let e := min x.exp y.exp
    decide (scaled x e < scaled y e)

/-- x = y for values that are not NaNs; −0 equals +0 (06: R116). -/
def Val.eq (x y : Val) : Bool := !x.isNan && !y.isNan && !x.lt y && !y.lt x

/-- An exact product, with NV for 0 · ∞ (06: R114; 11: R226). A NaN stays a NaN. -/
def Val.mul (x y : Val) : Val × Flags :=
  match x, y with
  | .nan a, .nan b => (.nan (a || b), Flags.none)
  | .nan a, _ => (.nan a, Flags.none)
  | _, .nan b => (.nan b, Flags.none)
  | .inf a, .inf b => (.inf (a != b), Flags.none)
  | .inf a, .fin b m _ => if m = 0 then (.nan false, Flags.nv) else (.inf (a != b), Flags.none)
  | .fin b m _, .inf a => if m = 0 then (.nan false, Flags.nv) else (.inf (a != b), Flags.none)
  | .fin a m e, .fin b n f => (.fin (a != b) (m * n) (e + f), Flags.none)

/-- A product of several factors; 0 · ∞ among them is NV, even with a NaN factor (11: R226, rule 1). -/
def product (xs : List Val) : Val × Flags :=
  if xs.any Val.isZero && xs.any Val.isInf then (.nan false, Flags.nv)
  else (xs.foldl (fun a x => (a.mul x).1) (.fin false 1 0), snanFlag xs)

/-- The exact sum of finite values; a sum of zero carries no sign here. -/
def finSum (xs : List Val) : Val :=
  let nz := xs.filter fun x => !x.isZero
  let e := nz.foldl (fun a x => min a x.exp) (match nz with
    | x :: _ => x.exp
    | [] => 0)
  let z := nz.foldl (fun (a : Int) x => a + scaled x e) 0
  .fin (z < 0) z.natAbs e

/-- The value of an exact sum of terms, each with the flags of its making, and the sign of an exact zero
(11: R226; 06: R113). -/
def exactSum (rm : Nat) (ts : List (Val × Flags)) : Val × Flags :=
  let vs := ts.map Prod.fst
  let fl := ts.foldl (fun a t => a ||| t.2) Flags.none
  if fl &&& Flags.nv ≠ 0#6 then (.nan false, Flags.nv)
  else if vs.any Val.isNan then (.nan false, snanFlag vs)
  else
    let p := vs.any fun v => v.isInf && !v.sign
    let n := vs.any fun v => v.isInf && v.sign
    if p && n then (.nan false, Flags.nv)
    else if p then (.inf false, Flags.none)
    else if n then (.inf true, Flags.none)
    else
      match finSum vs with
      | .fin neg m e =>
        if m ≠ 0 then (.fin neg m e, Flags.none)
        else
          let allNeg := vs.all fun v => v.isZero && v.sign
          let allPos := vs.all fun v => v.isZero && !v.sign
          (.fin (if rm = 3 then !allPos else allNeg) 0 0, Flags.none)
      | v => (v, Flags.none)

/-- An exact sum rounded once (11: R226). -/
def sumTo (f : Fmt) (rm : Nat) (ts : List (Val × Flags)) : Nat × Flags :=
  let t := exactSum rm ts
  let c := f.encode rm t.1
  (c.1, t.2 ||| c.2)

/-- x / y to more bits than any format keeps, the last one sticky (06: R114). -/
def quotient (x y : Val) : Val × Flags :=
  match x, y with
  | .nan _, _ => (.nan false, snanFlag [x, y])
  | _, .nan _ => (.nan false, snanFlag [x, y])
  | .inf _, .inf _ => (.nan false, Flags.nv)
  | .inf a, .fin b _ _ => (.inf (a != b), Flags.none)
  | .fin a _ _, .inf b => (.fin (a != b) 0 0, Flags.none)
  | .fin a m e, .fin b n f =>
    if n = 0 then (if m = 0 then (.nan false, Flags.nv) else (.inf (a != b), Flags.dz))
    else if m = 0 then (.fin (a != b) 0 0, Flags.none)
    else
      let q := m * 2 ^ 96 / n
      let r := m * 2 ^ 96 % n
      (.fin (a != b) (2 * q + if r = 0 then 0 else 1) (e - f - 97), Flags.none)

/-- Integer square root, by bits from `b` down; `r` holds the bits found. -/
def isqrtFrom (n : Nat) : Nat → Nat → Nat
  | 0, r => if (r + 1) * (r + 1) ≤ n then r + 1 else r
  | b + 1, r => isqrtFrom n b (if (r + 2 ^ (b + 1)) * (r + 2 ^ (b + 1)) ≤ n then r + 2 ^ (b + 1) else r)

def isqrt (n : Nat) : Nat := isqrtFrom n (n.log2 / 2 + 1) 0

/-- √x to more bits than any format keeps, the last one sticky (06: R114). -/
def squareRoot (x : Val) : Val × Flags :=
  match x with
  | .nan _ => (.nan false, snanFlag [x])
  | .inf neg => if neg then (.nan false, Flags.nv) else (.inf false, Flags.none)
  | .fin neg m e =>
    if m = 0 then (.fin neg 0 0, Flags.none)
    else if neg then (.nan false, Flags.nv)
    else
      let odd : Bool := e % 2 ≠ 0
      let n := (if odd then 2 * m else m) * 2 ^ 128
      let e' := ((if odd then e - 1 else e) - 128) / 2
      let r := isqrt n
      (.fin false (2 * r + if r * r = n then 0 else 1) (e' - 1), Flags.none)

/-- A value computed elsewhere, rounded into a format with all its flags; a NaN here has set its own. -/
def rounded (f : Fmt) (rm : Nat) (t : Val × Flags) : Nat × Flags :=
  let v := match t.1 with
    | .nan _ => Val.nan false
    | v => v
  let c := f.encode rm v
  (c.1, t.2 ||| c.2)

def fadd (f : Fmt) (rm : Nat) (x y : Nat) : Nat × Flags :=
  sumTo f rm [(f.real x, Flags.none), (f.real y, Flags.none)]

def fsub (f : Fmt) (rm : Nat) (x y : Nat) : Nat × Flags :=
  sumTo f rm [(f.real x, Flags.none), ((f.real y).neg, Flags.none)]

/-- A product rounded once (06: R114). -/
def fmul (f : Fmt) (rm : Nat) (x y : Nat) : Nat × Flags :=
  let p := (f.real x).mul (f.real y)
  rounded f rm (p.1, p.2 ||| snanFlag [f.real x, f.real y])

def fdiv (f : Fmt) (rm : Nat) (x y : Nat) : Nat × Flags := rounded f rm (quotient (f.real x) (f.real y))

/-- d + x · y rounded once (06: R114): 0 · ∞ is invalid even when d is a NaN. -/
def ffma (f : Fmt) (rm : Nat) (d x y : Nat) : Nat × Flags :=
  let p := product [f.real x, f.real y]
  let t := exactSum rm [(f.real d, Flags.none), p]
  rounded f rm (t.1, t.2 ||| snanFlag [f.real d, f.real x, f.real y])

def fsqrt (f : Fmt) (rm : Nat) (x : Nat) : Nat × Flags := rounded f rm (squareRoot (f.real x))

/-- FMIN and FMAX (06: R115): an operand's encoding unchanged, −0 below +0. -/
def fminmax (f : Fmt) (isMax : Bool) (x y : Nat) : Nat × Flags :=
  let a := f.real x
  let b := f.real y
  let fl := snanFlag [a, b]
  if a.isNan && b.isNan then (f.nanCode, fl)
  else if a.isNan then (y, fl)
  else if b.isNan then (x, fl)
  else
    let less := a.lt b || (a.eq b && a.sign && !b.sign)
    (if less != isMax then x else y, fl)

/-- FP32 comparison (06: R116): selector 0 EQ, 1 LT, 2 LE, 3 UNORD. -/
def fcompare (f : Fmt) (sel : Nat) (x y : Nat) : Bool × Flags :=
  let a := f.real x
  let b := f.real y
  let nan := a.isNan || b.isNan
  match sel with
  | 0 => (!nan && a.eq b, snanFlag [a, b])
  | 1 => (!nan && a.lt b, if nan then Flags.nv else Flags.none)
  | 2 => (!nan && (a.lt b || a.eq b), if nan then Flags.nv else Flags.none)
  | _ => (nan, snanFlag [a, b])

/-- A conversion between formats, rounded once (11: R225). -/
def convert (src dst : Fmt) (rm : Nat) (b : Nat) : Nat × Flags := dst.encode rm (src.real b)

/-- FCVT to a 64-bit integer (06: R117, fn 1). -/
def toS64 (rm : Nat) (x : Val) : BitVec 64 × Flags :=
  match x with
  | .nan _ => (0#64, Flags.nv)
  | .inf neg => (if neg then 0x8000000000000000#64 else 0x7FFFFFFFFFFFFFFF#64, Flags.nv)
  | v =>
    let t := v.toInt rm
    if t.1 < -2 ^ 63 then (0x8000000000000000#64, Flags.nv)
    else if 2 ^ 63 ≤ t.1 then (0x7FFFFFFFFFFFFFFF#64, Flags.nv)
    else (BitVec.ofInt 64 t.1, if t.2 then Flags.nx else Flags.none)

/-- The EXP field of FCLASS: floor of log2 |x| for a finite nonzero x (06: R119). -/
def Val.ilog2 : Val → Int
  | .fin _ m e => m.log2 + e
  | _ => 0

/-- A finite value is an integer (06: R119). -/
def Val.isInteger : Val → Bool
  | .fin _ m e => m = 0 || 0 ≤ e || m % 2 ^ (-e).toNat = 0
  | _ => false

/-- FCLASS (06: R119). -/
def fclass (x : Nat) : BitVec 64 :=
  let v := Fmt.f32.real x
  let expf := bitsOf x 23 8
  let kind := match v with
    | .nan s => if s then 5 else 4
    | .inf _ => 3
    | .fin _ m _ => if m = 0 then 0 else if expf = 0 then 1 else 2
  let fin : Bool := match v with
    | .fin _ m _ => m ≠ 0
    | _ => false
  let ex := if fin then (v.ilog2 % 4096).toNat else 0
  BitVec.ofNat 64 (kind + 8 * bitsOf x 31 1 + (if v.isInteger then 16 else 0) + 4096 * ex)

/-- Combine in tree order (11: R227): neighbours pairwise, an odd last one carried. -/
def treeLevel (op : Nat → Nat → Nat × Flags) : List Nat → List Nat × Flags
  | a :: b :: rest =>
    let r := op a b
    let t := treeLevel op rest
    (r.1 :: t.1, r.2 ||| t.2)
  | xs => (xs, Flags.none)

/-- Tree order over all levels (11: R227), for at most 2^fuel values. -/
def treeFold (op : Nat → Nat → Nat × Flags) : Nat → List Nat → List Nat × Flags
  | 0, xs => (xs, Flags.none)
  | n + 1, xs =>
    match xs with
    | a :: b :: rest =>
      let l := treeLevel op (a :: b :: rest)
      let t := treeFold op n l.1
      (t.1, l.2 ||| t.2)
    | xs => (xs, Flags.none)

/-- Container pitch of a format of width `w` (11: R220). -/
def pitch (w : Nat) : Nat := if w ≤ 1 then 1 else if w ≤ 2 then 2 else if w ≤ 4 then 4 else if w ≤ 8 then 8 else if w ≤ 16 then 16 else if w ≤ 32 then 32 else 64

end Sys2Proof.Machine
end

