-- ==== Sys2Proof/Machine/Tab.lean ====
section
/-! DEFINITION. Finite tables of numbered units, bit fields of words, and memory as a canonical list of cells
(10: R189, R194; 00: R4). -/

namespace Sys2Proof.Machine

/-- A table of numbered units: entries with rising numbers; a number that is not listed stands for a default. -/
abbrev Tab (α : Type) := List (Nat × α)

/-- Unit `k` of a table. -/
def Tab.get {α : Type} (d : α) : Tab α → Nat → α
  | [], _ => d
  | (i, a) :: t, k => if i = k then a else if k < i then d else Tab.get d t k

/-- The table with unit `k` replaced. -/
def Tab.put {α : Type} : Tab α → Nat → α → Tab α
  | [], k, v => [(k, v)]
  | (i, a) :: t, k, v => if i = k then (k, v) :: t else if k < i then (k, v) :: (i, a) :: t else (i, a) :: Tab.put t k v

/-- The numbers listed. -/
def Tab.keys {α : Type} (t : Tab α) : List Nat := t.map Prod.fst

/-- Element `n` of a list, or a default. -/
def nth {α : Type} (d : α) : List α → Nat → α
  | [], _ => d
  | a :: _, 0 => a
  | _ :: t, n + 1 => nth d t n

/-- The list with element `n` replaced. -/
def setNth {α : Type} : List α → Nat → α → List α
  | [], _, _ => []
  | _ :: t, 0, v => v :: t
  | a :: t, n + 1, v => a :: setNth t n v

/-- The list without element `n`. -/
def dropNth {α : Type} : List α → Nat → List α
  | [], _ => []
  | _ :: t, 0 => t
  | a :: t, n + 1 => a :: dropNth t n

/-- The numbers `lo … lo + n − 1`. -/
def span (lo : Nat) : Nat → List Nat
  | 0 => []
  | n + 1 => lo :: span (lo + 1) n

/-- The elements after a number, then those up to it. -/
def rotate (last : Nat) (l : List Nat) : List Nat := l.filter (fun a => decide (last < a)) ++ l.filter (fun a => decide (a ≤ last))

/-- Bits `lo … lo + n − 1` of a word as a number (00: R4). -/
def bits {w : Nat} (x : BitVec w) (lo n : Nat) : Nat := x.toNat / 2 ^ lo % 2 ^ n

/-- Bit `i` of a word. -/
def bit {w : Nat} (x : BitVec w) (i : Nat) : Bool := bits x i 1 = 1

/-- A word of 64 bits from fields, each a low bit and a value; the fields do not overlap. -/
def fields (fs : List (Nat × Nat)) : Word := BitVec.ofNat 64 (fs.foldl (fun a f => a + f.2 * 2 ^ f.1) 0)

/-- 1 for true. -/
def b2n (b : Bool) : Nat := if b then 1 else 0

/-- A number from bytes, the first one lowest (00: R4). -/
def ofBytes : List Byte → Nat
  | [] => 0
  | b :: t => b.toNat + 256 * ofBytes t

/-- The `n` low bytes of a number, lowest first (00: R4). -/
def toBytes : Nat → Nat → List Byte
  | 0, _ => []
  | n + 1, v => BitVec.ofNat 8 v :: toBytes n (v / 256)

/-- The first `n` elements; with fewer, all of them. -/
def takeN {α : Type} : Nat → List α → List α
  | 0, _ => []
  | _, [] => []
  | n + 1, a :: t => a :: takeN n t

/-- All but the first `n` elements. -/
def dropN {α : Type} : Nat → List α → List α
  | 0, l => l
  | _, [] => []
  | n + 1, _ :: t => dropN n t

/-- Words of 64 bits from bytes; the last one is padded with zeros. -/
def wordsOf (bs : List Byte) : Nat → List Word
  | 0 => []
  | n + 1 => BitVec.ofNat 64 (ofBytes (takeN 8 bs)) :: wordsOf (dropN 8 bs) n

/-- The bytes of words (00: R4). -/
def bytesOf : List Word → List Byte
  | [] => []
  | w :: t => toBytes 8 w.toNat ++ bytesOf t

/-- Sign extension of the low `n` bits to a word (04: R84). -/
def sextWord (v n : Nat) : Word :=
  if v / 2 ^ (n - 1) % 2 = 1 then BitVec.ofNat 64 (v % 2 ^ n + (2 ^ 64 - 2 ^ n)) else BitVec.ofNat 64 (v % 2 ^ n)

/-! ### Memory -/

/-- What a byte that nothing has written reads as (assumption log 3). -/
def Mem.empty : Byte := 0

/-- The byte at an address. -/
def Mem.read : List Host.Cell → Nat → Byte
  | [], _ => Mem.empty
  | (i, b) :: t, a => if i = a then b else if a < i then Mem.empty else Mem.read t a

/-- The memory with one byte written, in canonical form. -/
def Mem.write : List Host.Cell → Nat → Byte → List Host.Cell
  | [], a, v => if v = Mem.empty then [] else [(a, v)]
  | (i, b) :: t, a, v =>
    if i = a then (if v = Mem.empty then t else (a, v) :: t)
    else if a < i then (if v = Mem.empty then (i, b) :: t else (a, v) :: (i, b) :: t)
    else (i, b) :: Mem.write t a v

/-- `n` bytes from an address. -/
def Mem.readBytes (m : List Host.Cell) (a : Nat) : Nat → List Byte
  | 0 => []
  | n + 1 => Mem.read m a :: Mem.readBytes m (a + 1) n

/-- Bytes written from an address up. -/
def Mem.writeBytes (m : List Host.Cell) (a : Nat) : List Byte → List Host.Cell
  | [] => m
  | b :: t => Mem.writeBytes (Mem.write m a b) (a + 1) t

/-- A little-endian number of `n` bytes. -/
def Mem.readNat (m : List Host.Cell) (a n : Nat) : Nat := ofBytes (Mem.readBytes m a n)

/-- Every listed byte lies above `lo`, rising, and none reads as an unlisted one. -/
def Mem.above (lo : Nat) : List Host.Cell → Bool
  | [] => true
  | (i, b) :: t => decide (lo ≤ i) && b != Mem.empty && Mem.above (i + 1) t

/-- The canonical form of memory. -/
def Memory.wf (m : List Host.Cell) : Bool := Mem.above 0 m

end Sys2Proof.Machine
end

