-- ==== Sys2Proof/Machine/State.lean ====
section
/-! DEFINITION. The state of the wafer and its module as plain data (INVENTORY.md, ## State, names the rule of every
piece). The default of each field is its value at reset. Numbered units stand in tables; a unit that is not listed is
as it was at reset. Core `k = 4·pos + c`, position `pos = 128·y + x`, region `r = 8·(y div 16) + (x div 16)`. -/

namespace Sys2Proof.Machine

/-! ### Accesses, reply slots, store buffers -/

/-- An access as a request carries it (09: R182): kind 0 LOAD, 1 STORE, 2 LOADBLK, 3 AMO, 4 AMOX, 5 AMOF, 6 LDACQ,
7 STREL, 8 QTILE, 9 FILL; address as issued; bytes; selector; ord; scope code; operands. -/
structure Access where
  kind : Nat := 0
  addr : Word := 0
  n : Nat := 0
  op : Nat := 0
  ord : Nat := 0
  scope : Nat := 0
  d1 : Word := 0
  d2 : Word := 0
  deriving DecidableEq, Repr

/-- A reply slot in use (09: R184): the access, the issuing instruction, its home scope and memory (15: R311), its place
in program order, the destination bytes in register space, sign extension, whether it has been performed (15: R312),
whether another wafer's memory is the target. -/
structure Slot where
  acc : Access := {}
  pc : Word := 0
  home : Nat := 0
  dest : Nat := 0
  seq : Nat := 0
  dst : Nat := 0
  len : Nat := 0
  signed : Bool := false
  store : Bool := false
  performed : Bool := false
  deriving DecidableEq, Repr

/-- A store-buffer entry (15: R314): bits of one aligned word. `local` is the home address of the word where the own
cluster serves it; `linked` an entry released with the next (BITST over two words); `setFull` an STF; `rel` the scope
of a STREL. -/
structure Buffered where
  acc : Access := {}
  pc : Word := 0
  word : Word := 0
  mask : Word := 0
  data : Word := 0
  homeAt : Option Nat := none
  home : Nat := 0
  dest : Nat := 0
  seq : Nat := 0
  linked : Bool := false
  setFull : Bool := false
  rel : Option Nat := none
  deriving DecidableEq, Repr

/-- A send-queue entry (09: R175): header word 0, payload and prelude as addresses of the sender or as a snapshot,
its place in program order. -/
structure SendEntry where
  hdr : Word := 0
  addr : Word := 0
  len : Nat := 0
  pcnt : Nat := 0
  snap : Option (List Byte) := none
  seq : Nat := 0
  deriving DecidableEq, Repr

/-- An engine operation (07: R143, R144): the instruction, its address and place in program order; the engines it needs;
what it read at issue (rounding mode, view bases, descriptor, format registers, scalars, scale codes); the register-space
words it reads and writes (first, count); the words it read when accepted; its progress index (16: R340), what it
carries from finished units, and the flags they set; whether it has charged DEPTH (13: R274); the runs of bytes that it
has written and counted (12: R230), as home and length; under a window map the memory as it stood when accepted
(20: R388); whether a RETRY has returned it to its engine's queue (16: R338). -/
structure EngOp where
  instr : Instr := .nop
  pc : Word := 0
  seq : Nat := 0
  engs : List Nat := []
  rm : Nat := 0
  vbase : Nat := 512
  abase : Nat := 8704
  tm : BitVec 512 := 0
  fmts : List (BitVec 32) := []
  scal : List Word := []
  tabl : List Nat := []
  reads : List (Nat × Nat) := []
  writes : List (Nat × Nat) := []
  got : Tab Word := []
  prog : Nat := 0
  carry : Nat := 0
  flags : BitVec 6 := 0
  begun : Bool := false
  hits : List (Nat × Nat) := []
  early : Option (List Host.Cell) := none
  back : Bool := false
  deriving DecidableEq, Repr

/-- What a core keeps of the last stopped operation of an engine beside its PIDX register (16: R340): its address,
itself, whether an eviction or a pre-emption stopped it (13: R266), whether it had charged DEPTH, what it had counted or
gathered so far (12: R258; 13: R278), the flags of its completed units (05: R101; log 127), and the bytes it had counted
(12: R230). -/
structure StopRec where
  pc : Word := 0
  instr : Instr := .nop
  lost : Bool := false
  begun : Bool := false
  carry : Nat := 0
  flags : BitVec 6 := 0
  hits : List (Nat × Nat) := []
  deriving DecidableEq, Repr

/-! ### Causes, traps -/

/-- A cause due at the next boundary (16: R334): kind 1 D, 3 G, 4 X (R336); the named instruction, the address, and for
a D cause the slot number and the access, for a G cause the engine and, for LEASE_LOST, the operation that the frame
names (16: R338). -/
structure Due where
  kind : Nat := 4
  cause : Nat := 0
  pc : Word := 0
  addr : Word := 0
  unit : Nat := 9
  slotNo : Nat := 0
  slot : Slot := {}
  op : EngOp := {}
  deriving DecidableEq, Repr

/-- A trap in force (16: R335, R336): the frame's eight words and what the return needs. -/
structure Trapped where
  frame : List Word := []
  due : Due := {}
  deriving DecidableEq, Repr

/-- What the last issue waited for; the instruction has not executed (06: R105). -/
inductive Wait where
  | regWord (w : Nat)
  | owedWrite (w : Nat)
  | slot
  | storeBuffer
  | sendQueue
  | sendRange
  | order
  | memWord (a : Nat)
  | overlap
  | lease (e : Nat)
  | leaseQueue
  | dispatch
  | engines
  | performed
  | barrier
  | arrival
  | copy
  | fetch
  | checkpoint
  | event
  | flags
  | stream
  deriving DecidableEq, Repr

/-! ### Handlers, leases, engine operations -/

/-- State of a valid handler entry (01: R19). -/
inductive EntryState where
  | filling | ready | running
  deriving DecidableEq, Repr

/-- A handler table entry (01: R15): words 0-5 and, hidden, its life (R19), the launch mask and launch (07: R132), the
latched arrival word (R20), arrival counts of its four buffers (12: R232) and per buffer the bytes of each 512-byte
chunk not yet written and the chunk map (12: R231). -/
structure Handler where
  words : List Word := [0, 0, 0, 0, 0, 0]
  life : EntryState := .filling
  launchMask : Bool := false
  launch : Nat := 0
  arrival : Word := 0
  counts : List Nat := [0, 0, 0, 0]
  fill : List (Tab Nat) := [[], [], [], []]
  chunks : List (Tab Bool) := [[], [], [], []]
  deriving DecidableEq, Repr

/-- A core's state for one engine (07: R146). -/
inductive LeaseState where
  | none | queued | held | grace | lost
  deriving DecidableEq, Repr

structure Lease where
  st : LeaseState := .none
  prio : Nat := 0
  restart : Word := 0
  rd : Nat := 0
  handle : Word := 0
  yielding : Bool := false
  yieldDone : Option Nat := none
  deriving DecidableEq, Repr

/-- What is known of a weight bank (13: R265, R267, R271): format code and register value used to load it, class,
scales by column and block. -/
structure BankInfo where
  loaded : Bool := false
  code : Nat := 0
  fmt : BitVec 32 := 0
  cls : Nat := 0
  scales : List (List Nat) := []
  deriving DecidableEq, Repr

/-- What is known of a counter bank (13: R273). -/
structure CountInfo where
  bound : Bool := false
  depth : Nat := 0
  fa : BitVec 32 := 0
  fb : BitVec 32 := 0
  rs : List Nat := []
  cs : List Nat := []
  deriving DecidableEq, Repr

/-! ### Cores -/

/-- The register space of a core (05: R88-R97): words, empty bits, pending marks, the fresh copies in slices M and D. -/
structure RegSpace where
  words : Tab Word := []
  empty : Tab Bool := []
  pend : Tab Bool := []
  freshM : Word := BitVec.allOnes 64
  freshD : Word := BitVec.allOnes 64
  deriving DecidableEq, Repr

/-- Role in a lockstep pair (01: R26; 16: R347). -/
inductive PairRole where
  | alone | first | second
  deriving DecidableEq, Repr

/-- What the shadow bank holds (16: R349). -/
structure Shadow where
  reg : RegSpace := {}
  pc : Word := 0
  came : Option Word := none
  fcsr : Word := 0
  vbase : Word := 512
  abase : Word := 8704
  pidx : Tab Word := []
  tms : Tab (BitVec 512) := []
  fmts : Tab (BitVec 32) := []
  seq : Nat := 0
  deriving DecidableEq, Repr

/-- A store or send held in a pair until its checkpoint (16: R349). -/
inductive Held where
  | store (b : Buffered)
  | send (e : SendEntry)
  deriving DecidableEq, Repr

/-- A tile core (inventory, "Each tile core"). `link` is what GOTO has still to write to s63 (16: R338; 05: R93); `sends`
are sends that a checkpoint let go and that wait for room in the send queue (log 109); `steps` the step requests that
wait for the frame of the one under way (17: R364; log 114). -/
structure Core where
  reg : RegSpace := {}
  pc : Word := 0
  came : Option Word := none
  ch : Option Nat := none
  link : Option Word := none
  loading : List Nat := []
  trapped : Option Trapped := none
  blocked : Option Wait := none
  due : List Due := []
  fcsr : Word := 0
  vbase : Word := 512
  abase : Word := 8704
  cycle : Word := 0
  instret : Word := 0
  pidx : Tab Word := []
  stopRec : Tab StopRec := []
  tfbase : Word := 0
  tfcount : Nat := 0
  tms : Tab (BitVec 512) := []
  fmts : Tab (BitVec 32) := []
  hands : Tab Handler := []
  rr : List Nat := [0, 0, 0, 0, 0, 0, 0, 0]
  slots : List (Option Slot) := [none, none, none, none, none, none, none, none]
  nextSeq : Nat := 0
  sbuf : List Buffered := []
  sbHeld : Option Buffered := none
  stream : List Buffered := []
  hostPorts : List Nat := []
  sendq : List SendEntry := []
  sends : List SendEntry := []
  seqs : Tab Nat := []
  dispq : List EngOp := []
  leases : Tab Lease := []
  kept : Tab BankInfo := []
  keptC : Tab CountInfo := []
  stuck : Tab EngOp := []
  barWait : Option (Nat × Nat) := none
  opp : Nat := 3
  oppNew : Option Nat := none
  stopped : Nat := 0
  received : Option Nat := none
  recvTrapped : Bool := false
  stopCount : Nat := 0
  stepping : Bool := false
  stepSeq : Nat := 0
  stepFrame : Bool := false
  steps : Nat := 0
  traceLost : Bool := false
  traceNo : Nat := 0
  pair : PairRole := .alone
  shadow : Shadow := {}
  sinceCkpt : Nat := 0
  ckptDue : Bool := false
  held : List Held := []
  mismatch : Nat := 0
  rollback : Bool := false
  icache : Tab (BitVec 512) := []
  deriving DecidableEq, Repr

/-- An island core (16: R352-R356). -/
structure ICore where
  regs : Tab Word := []
  pc : Word := 0
  came : Option Word := none
  fcsr : Word := 0
  cycle : Word := 0
  instret : Word := 0
  kstat : Word := 1
  ksp : Word := 0
  kvt : Word := 0
  kwhy : Word := 0
  kaddr : Word := 0
  kxlat : Word := 0
  ktcmp : Word := 0xFFFFFFFFFFFFFFFF
  wedged : Bool := false
  blocked : Option Wait := none
  sbuf : List Buffered := []
  nextSeq : Nat := 0
  deriving DecidableEq, Repr

/-! ### Messages -/

/-- A message under way (09: R169-R171, R182, R183): header words 0-3, prelude, payload; its VC; the router position
that holds it; the input port it stands in (0 N, 1 E, 2 S, 3 W, 4 local; 5: it is still with the unit that made it, before
the local port); whether that port has still to count its SEQ (09: R170); whether its prelude has run (07: R133) or, on
VC4, whether the cluster it passes has met it (12: R252); the fabric port that a request came by, and the header word 1 that it came with (18: R383). -/
structure Msg where
  at_ : Nat := 0
  vc : Nat := 0
  w0 : Word := 0
  w1 : Word := 0
  w2 : Word := 0
  w3 : Word := 0
  prel : List (BitVec 32) := []
  body : List Byte := []
  dir : Nat := 5
  uncounted : Bool := false
  ran : Bool := false
  port : Option Nat := none
  origin : Word := 0
  no : Nat := 0
  deriving DecidableEq, Repr

/-! ### Clusters -/

/-- A barrier of a cluster (07: R139) with its partner table and OVER bit (17: R363). -/
structure Barrier where
  count : Nat := 0
  target : Nat := 0
  phase : Nat := 0
  partners : List Nat := []
  overBit : Bool := false
  deriving DecidableEq, Repr

/-- State of a copy channel (12: R244). -/
inductive ChanState where
  | idle | active | parked | fault
  deriving DecidableEq, Repr

/-- A sector of a started record (12: R240). -/
inductive SectorState where
  | idle | complete
  deriving DecidableEq, Repr

/-- A copy channel (12: R237-R244). `failing` is the first fault of the running record with its address; `issued`, once no
further sector is issued, those that have still to complete or fail; `hits` the runs of bytes that the record has written
and counted (12: R230); `served` says that a fault of the channel has been answered (12: R242; log 115). -/
structure Chan where
  st : ChanState := .idle
  owner : Nat := 0
  launch : Nat := 0
  addr : Word := 0
  prog : Nat := 0
  cause : Nat := 0
  recs : Nat := 0
  cache : Tab (List Word) := []
  started : Bool := false
  record : List Word := []
  srcTm : BitVec 512 := 0
  sectors : Tab SectorState := []
  restart : Bool := false
  inNotify : Bool := false
  failing : Option (Nat × Word) := none
  issued : Option (List Nat) := none
  hits : List (Nat × Nat) := []
  served : Bool := false
  deriving DecidableEq, Repr

/-- A request of the lease queue (07: R148), oldest first in the queue. -/
structure LeaseReq where
  core : Nat := 0
  eng : Nat := 0
  prio : Nat := 0
  deriving DecidableEq, Repr

/-- Power state of an engine (07: R149): gated; waking for a core or for a LEASE record; warm; held by a core. -/
inductive Power where
  | gated
  | waking (core : Option Nat) (prio : Nat) (warm boost : Bool)
  | warm
  | held (core : Nat)
  deriving DecidableEq, Repr

/-- An engine of the bay: power state, release order, grant order (07: R147, R155). -/
structure Engine where
  power : Power := .gated
  released : Nat := 0
  granted : Nat := 0
  deriving DecidableEq, Repr

/-- A stationary weight bank of MX or RM (13: R267, R271) with the codes of its elements by column. -/
structure WBank where
  info : BankInfo := {}
  elems : List (List Nat) := []
  deriving DecidableEq, Repr

/-- A ream counter bank (13: R272, R273): counts by 128·(16·i + j) + class. -/
structure CBank where
  info : CountInfo := {}
  counts : Tab Nat := []
  deriving DecidableEq, Repr

/-- The ZD engine (14: R302-R305): the dictionary (index bits, entry bytes, entries), the result word of the last job,
and the stream and output bytes of whole blocks of a job that a fault has stopped. -/
structure ZdState where
  has : Bool := false
  ibits : Nat := 0
  esz : Nat := 0
  dict : List (List Byte) := []
  result : Word := 0
  deriving DecidableEq, Repr

/-- An RD join slot (14: R306-R308): its control word and parent header, contributions of the round, accumulator. -/
structure RdSlot where
  armed : Bool := false
  ctl : Word := 0
  parent : Word := 0
  count : Nat := 0
  acc : List Byte := []
  deriving DecidableEq, Repr

/-- A memory fill asked for by a code cache (04: R68): its line, whether the line has been invalidated since (04: R70),
the cause of its failure. -/
structure Fill where
  line : Word := 0
  stale : Bool := false
  fault : Option (Nat × Word) := none
  deriving DecidableEq, Repr

/-- An eviction demand in force (07: R155): the engine and the core put into GRACE, and the demanding request, if any
(07: R147). -/
structure Demand where
  eng : Nat := 0
  core : Nat := 0
  req : Option LeaseReq := none
  deriving DecidableEq, Repr

/-- A cluster (inventory, "Each cluster"). `gens` are the grants of each engine and `saves` the saves of the cluster since
reset (07: R151; 16: R342); `fillLast` is the core whose instruction cache was served last (04: R68),
3 after reset, so that core 0 comes first (DESIGN CHOICE; unsafe; log 6). -/
structure Cluster where
  bars : Tab Barrier := []
  chans : Tab Chan := []
  leaseQ : List LeaseReq := []
  engs : Tab Engine := []
  gens : Tab Nat := []
  saves : Nat := 0
  stamp : Nat := 0
  demand : Option Demand := none
  inflight : Tab (List (Nat × EngOp)) := []
  arb : Nat := 3
  wbanks : Tab WBank := []
  cbanks : Tab CBank := []
  sfBuilt : Bool := false
  gxStat : List Word := [0, 0, 0, 0]
  zd : ZdState := {}
  rd : Tab RdSlot := []
  hb : Tab Word := []
  hbGrant : Word := 0
  wp : Tab Word := []
  qcap : Word := 0
  partMask : Word := 0
  qpwr : Word := 0
  qopp : List Nat := [0, 0, 0, 0]
  ccache : Tab (BitVec 512) := []
  fills : List (Option Fill) := [none, none, none, none]
  fillLast : Nat := 3
  inq : Tab (List Msg) := []
  frontLast : Nat := 7
  came : Nat := 0
  captured : List Msg := []
  dropped : Nat := 0
  reqq : List Msg := []
  soft : Bool := false
  hardTags : List Nat := []
  clusterStops : List Nat := []
  covers : List Nat := []
  pendStops : List (Nat × Nat) := []
  traceOn : Bool := false
  deriving DecidableEq, Repr

/-! ### Queues, launches, graphs -/

/-- A work record that the sequencer has read (02: R35): its HSEQ, its words, whether it has been dispatched, whether
its result has been reported. -/
structure Item where
  hseq : Nat := 0
  words : List Word := []
  dispatched : Bool := false
  deriving DecidableEq, Repr

/-- A work queue (02: R30-R34, R45-R47): the fields of its position block, its rings (translated addresses, log of
their sizes), the records read and not yet reported, numbers reported above DONEH, completion records that wait for
room, the last 512 written, the command that drains it, the counts of R45, its MSI-X port and vector and the CSEQ of
its last message (18: R380), the place of its position block in the lead island's SRAM (02: R30; log 81). The sizes of the
rings are 2^4 until they are set (DESIGN CHOICE; unsafe; log 6). -/
structure Queue where
  st : Nat := 0
  tenant : Nat := 0
  tag : Nat := 0
  n : Nat := 4
  m : Nat := 4
  work : Word := 0
  comp : Word := 0
  consumed : Nat := 0
  doneh : Nat := 0
  cseq : Nat := 0
  chead : Nat := 0
  tail : Nat := 0
  items : List Item := []
  ended : List Nat := []
  pend : List (List Word) := []
  kept : List (List Word) := []
  cmd : Nat := 0
  nDispatched : Nat := 0
  nCompleted : Nat := 0
  nSuppressed : Nat := 0
  nDiscarded : Nat := 0
  vector : Option (Nat × Nat) := none
  sent : Nat := 0
  place : Option Nat := none
  deriving DecidableEq, Repr

/-- A tenant of a sequencer (02: R42, R44): REFILL, BAL, DEBT, its queue last served. REFILL is 1 until the island OS sets
it (DESIGN CHOICE; unsafe; log 6). -/
structure Tenant where
  refill : Nat := 1
  bal : Nat := 0
  debt : Nat := 0
  last : Nat := 0
  deriving DecidableEq, Repr

/-- Where a launch stands: it has been dispatched and waits to load (log 38), its route classes are being quieted
(03: R62), its cores hold its state (01: R28), it has started, its entries are masked (02: R36, R45). -/
inductive LaunchPhase where
  | waiting | quieting | loaded | started | masked
  deriving DecidableEq, Repr

/-- A mould launch (02: R36): its queue, record and node (0xFFFF for a work record), the graph of a placement node, its
32-bit id, EXPECT, signals counted, whether its result is reported, whether its saved activations are lost
(16: R345, R346), its placed cores, its handler entries as core and channel, its seeds likewise, the mould while
classes are quieted. -/
structure Launch where
  queue : Nat := 0
  hseq : Nat := 0
  node : Nat := 0xFFFF
  graph : Nat := 0
  id : Nat := 0
  phase : LaunchPhase := .loaded
  expect : Nat := 0
  count : Nat := 0
  user : Word := 0
  reported : Bool := false
  torn : Bool := false
  cores : List Nat := []
  entries : List (Nat × Nat) := []
  seeds : List (Nat × Nat) := []
  mould : List Byte := []
  deriving DecidableEq, Repr

/-- Where a node stands (02: R38): not ready, ready, running, waiting for its condition word, a loop whose further pass
waits for its turn (02: R40, R44), complete. -/
inductive NodePhase where
  | idle | ready | running | condition | again | finished
  deriving DecidableEq, Repr

/-- A node of a graph: its eight words, RCV, its phase, the passes of a loop, its launch; `redo`: a further pass of a
loop about it began while it ran (log 121). -/
structure Node where
  words : List Word := []
  rcv : Nat := 0
  phase : NodePhase := .idle
  redo : Bool := false
  passes : Nat := 0
  launch : Nat := 0
  deriving DecidableEq, Repr

/-- A dispatched graph (02: R38-R41): its record, its nodes, the first failure as reason, node and DETAIL, whether the
queue drains it (02: R45). -/
structure Graph where
  queue : Nat := 0
  hseq : Nat := 0
  user : Word := 0
  nodes : List Node := []
  failed : Option (Nat × Nat × Word) := none
  halted : Bool := false
  deriving DecidableEq, Repr

/-! ### Pre-emption (16: R341-R345) -/

/-- The image of a cluster: its state and its cores' as saved, its scratchpad and TCM bytes, empty bits and errors,
the messages captured, whether it is torn. -/
structure Image where
  tag : Nat := 0
  cluster : Cluster := {}
  cores : List Core := []
  mem : List Host.Cell := []
  empty : List Nat := []
  messages : List Msg := []
  torn : Bool := false
  deriving DecidableEq, Repr

/-! ### Headbox ports, stops, host, links, fabric, board -/

/-- A burst under way (12: R251): source, LEN, BLK, FAR, the next block. -/
structure Burst where
  src : Word := 0
  len : Nat := 0
  blk : Nat := 64
  far : Nat := 0
  next : Nat := 0
  deriving DecidableEq, Repr

/-- A headbox port (12: R250): the tag of the partition it is granted to, its burst. -/
structure HbPort where
  grant : Option Nat := none
  burst : Option Burst := none
  deriving DecidableEq, Repr

/-- A hard stop on its way (17: R361): its tag, the position of the router at which it was injected, the positions that
have still to receive it. -/
structure Cast where
  tag : Nat := 0xFF
  origin : Nat := 0
  left : List Nat := []
  deriving DecidableEq, Repr

/-- A rail (08: R165, R166): its voltage in mV, whether it slews down, whether the remaining voter's LDOs are asked and have acknowledged. -/
structure Rail where
  mv : Nat := 850
  slewing : Bool := false
  asked : Bool := false
  acked : Bool := false
  deriving DecidableEq, Repr

/-- An edge-memory stack (08: R167): throttled, and what it then delivers in GB/s; trained (18: R386). -/
structure Stack where
  trained : Bool := false
  throttled : Bool := false
  deliverable : Nat := 3000
  deriving DecidableEq, Repr

/-- A host port (18: R378-R380): trained, its BAR 2 bytes that were written, the data it has returned, the vectors
sent, the bindings of its apertures as tag and virtual base, the requests completed with Unsupported Request. -/
structure HostPort where
  trained : Bool := false
  bar2 : Tab Byte := []
  reads : List (List Byte) := []
  sent : List Nat := []
  apertures : Tab (Nat × Word) := []
  unsupported : Nat := 0
  deriving DecidableEq, Repr

/-- A frame that has not been acknowledged (18: R382): LSEQ, VC and flit, replays. -/
structure Frame where
  lseq : Nat := 0
  vc : Nat := 0
  flit : BitVec 512 := 0
  replays : Nat := 0
  deriving DecidableEq, Repr

/-- A Phoba Link port (18: R382): in service, the wafers that it leads toward (log 137), LSEQ of the last frame received in
order, next LSEQ to send, frames not acknowledged, flits received by VC and not yet a whole message, the beats of every
frame that has left. -/
structure Link where
  up : Bool := false
  toward : List Nat := []
  rx : Nat := 4095
  tx : Nat := 0
  unacked : List Frame := []
  flits : List (Nat × BitVec 512) := []
  wire : List (List (BitVec 128)) := []
  deriving DecidableEq, Repr

/-- A fabric request that has left (15: R329, R330): itself, the target wafer, the port it went by, the number of a
release flag, whether its path is lost. -/
structure FabReq where
  msg : Msg := {}
  wafer : Nat := 0
  port : Nat := 0
  flag : Option Nat := none
  lost : Bool := false
  deriving DecidableEq, Repr

/-- The fabric endpoints (15: R330; 18: R383): joined, the own wafer, the pods by wafer, pairings as source wafer,
source tag and local tag, grants as local tag, first address and length, requests out, flags numbered so far by wafer,
H and the recorded numbers by source wafer, the error counter, flags acknowledged again, replies that wait for room on
their link, and what engines and
islands have stored on other wafers, as physical address and bytes (log 10). -/
structure Fabric where
  joined : Bool := false
  wafer : Nat := 0
  pods : Tab Nat := []
  pairings : List (Nat × Nat × Nat) := []
  grants : List (Nat × Nat × Nat) := []
  out : List FabReq := []
  flagNo : Tab Nat := []
  high : Tab Nat := []
  done : Tab (List Nat) := []
  errors : Nat := 0
  acks : List (Nat × Nat) := []
  replies : List (Nat × Msg) := []
  stores : List (Nat × List Byte) := []
  deriving DecidableEq, Repr

/-- What the board and its fuses hold (03: R49, R51, R52; 18: R384-R386): firmware slots A and B, root hash and
rollback count in fuses, positions retired by fuses and by flash, positions that fail self-test, router positions that
fail as a whole, stitched lanes and spare lanes that fail as position and direction, the serial number, whether
bring-up has ended, what went over I3C (the step of R386 that failed), M0-M7, the quotes returned, and the rails, stacks,
link ports and host ports that fail to come up. -/
structure Board where
  slotA : List Byte := []
  slotB : List Byte := []
  rootHash : BitVec 512 := 0
  rollback : Nat := 0
  fuses : List Nat := []
  flash : List Nat := []
  failing : List Nat := []
  deadRouters : List Nat := []
  badLanes : List (Nat × Nat) := []
  badSpares : List (Nat × Nat) := []
  serial : List Byte := []
  up : Bool := false
  i3c : List Nat := []
  measures : List (BitVec 512) := [0, 0, 0, 0, 0, 0, 0, 0]
  quotes : List (List Byte) := []
  badRails : List Nat := []
  badStacks : List Nat := []
  badLinks : List Nat := []
  badPorts : List Nat := []
  deriving DecidableEq, Repr

/-- Quieting of route classes (03: R62): the classes, the regions, the launch that waits for it or the tag of the
partition whose routes are repaired. -/
structure Quieting where
  classes : List Nat := []
  regions : List Nat := []
  launch : Option Nat := none
  repair : Option Nat := none
  deriving DecidableEq, Repr

/-! ### Routers, regions, partitions -/

/-- An exception entry of a router (03: R59). -/
structure RouteEntry where
  valid : Bool := false
  x0 : Nat := 0
  x1 : Nat := 0
  y0 : Nat := 0
  y1 : Nat := 0
  port : Nat := 0
  deriving DecidableEq, Repr

/-- A router (03: R48, R51, R59; 09: R173; 17: R372): its outgoing directions that carry nothing, those on a spare lane,
route tables by class (entries 0-7 firmware, 8-23 user), by direction the VC of VC2-VC7 that its link served last, SENT
and STALL by 8·port + VC, the interval number. -/
structure Router where
  broken : List Nat := []
  spare : List Nat := []
  tables : Tab (Tab RouteEntry) := []
  last : Tab Nat := []
  sent : Tab Nat := []
  stall : Tab Nat := []
  interval : Nat := 0
  deriving DecidableEq, Repr

/-- A translation held by an MMU (10: R200). -/
structure TlbEntry where
  asid : Nat := 0
  va : Nat := 0
  size : Nat := 12
  pa : Nat := 0
  perm : Nat := 0
  deriving DecidableEq, Repr

/-- A walk in flight (10: R200): its page and the requests that ride it. -/
structure Walk where
  asid : Nat := 0
  page : Nat := 0
  reqs : List Msg := []
  deriving DecidableEq, Repr

/-- A region and its island (inventory, "Each region and island"), with the firmware loaded into it (18: R386). `exit` is
the tag of a partition that exits from it (08: R166; log 118). The first launch id is 1 (02: R36; DESIGN CHOICE; unsafe;
log 6). -/
structure Region where
  firmware : List Byte := []
  tag : Nat := 0
  quiet : Option Quieting := none
  tlb : List TlbEntry := []
  walks : List Walk := []
  waiting : List Msg := []
  inq : Tab (List Msg) := []
  chest : Nat := 90000000
  boost : Bool := false
  hold : Bool := false
  thermal : Bool := false
  milliwatts : Nat := 0
  degrees : Nat := 0
  evaluation : Nat := 0
  ktime : Word := 0
  doorbell : Nat := 0
  nextLaunch : Nat := 1
  tenants : Tab Tenant := []
  lastTenant : Nat := 0
  vote : Nat := 850
  withdrawn : Bool := false
  exit : Option Nat := none
  columnRetired : Bool := false
  hubReplies : List (List Word) := []
  softDone : List Nat := []
  seqs : Tab Nat := []
  eccCount : Nat := 0
  deriving DecidableEq, Repr

/-- A partition (03: R65; 10: R197): its regions as a mask, ASID and root table of its translation context, clusters
retired since it was formed, event ring and its vector (18: R375, R380), save bases by cluster and its saves
(16: R342), bandwidth shares by stack (08: R167), target operating point (08: R160), link directions that failed and
wait for repair as position and direction (03: R64); the context has been released since it was saved (16: R341); the
tenant's policy for arithmetic flags is another than the standard response (16: R333); retirements whose event waits for
completion records, as word 1, QCAP and word 3 (18: R376). -/
structure Partition where
  regions : Nat := 0
  asid : Nat := 0
  root : Nat := 0
  retired : Nat := 0
  ringBase : Word := 0
  ringLog : Nat := 0
  epos : Nat := 0
  ehead : Nat := 0
  eseq : Nat := 0
  vector : Option (Nat × Nat) := none
  sent : Nat := 0
  saveBases : Tab Word := []
  shares : Tab Nat := []
  target : Nat := 3
  broken : List (Nat × Nat) := []
  released : Bool := false
  flagPolicy : Bool := false
  retiring : List (Word × Word × Word) := []
  deriving DecidableEq, Repr

/-- Which core issues, or which row of the table acts next (log 1). -/
inductive Move where
  | issue (c : CoreRef)
  | event (i : Instr)
  deriving DecidableEq, Repr

/-- The state of the machine. -/
structure State where
  agenda : List Move := []
  cur : CoreRef := .tile 0
  free : Nat := 0
  mem : List Host.Cell := []
  memEmpty : List Nat := []
  dirtyHome : List Host.Cell := []
  eccBad : List Nat := []
  eccSoft : List Nat := []
  cores : Tab Core := []
  clusters : Tab Cluster := []
  routers : Tab Router := []
  regions : Tab Region := []
  icores : Tab ICore := []
  parts : Tab Partition := []
  net : List Msg := []
  bridges : Tab (List Msg) := []
  queues : Tab Queue := []
  launches : Tab Launch := []
  nextKey : Nat := 1
  graphs : Tab Graph := []
  images : Tab Image := []
  hbPorts : Tab HbPort := []
  casts : List Cast := []
  rails : Tab Rail := []
  edgeStacks : Tab Stack := []
  hostPorts : Tab HostPort := []
  links : Tab Link := []
  fabric : Fabric := {}
  board : Board := {}
  deriving DecidableEq, Repr

/-- A machine stop. -/
inductive Fault where
  /-- Raised by `step` when the agenda names a unit the wafer does not have. Safe: the machine stops. -/
  | noSuchUnit
  deriving DecidableEq, Repr

/-- An instruction without a meaning. -/
inductive Refusal where
  /-- Raised by `exec` for a row that has no meaning yet. Safe: the machine stops. -/
  | notModelled (mnemonic : String)
  deriving DecidableEq, Repr

/-- Outcome of a step. -/
abbrev Out := Host.Outcome State Fault Refusal

/-- The machine right after reset (05: R89, R100; 10: R195; 16: R353; 18: R386; log 5, 6). -/
def State.reset : State := {}

end Sys2Proof.Machine
end

