-- ==== Sys2Proof/Machine/Ops.lean ====
section
/-! DEFINITION. The named operations over the state: units by number, the geometry of the wafer, registers with the
empty rule, memory homes, injecting messages, taking a trap and an island trap. -/

namespace Sys2Proof.Machine

/-- The list without repeats. -/
def dedup : List Nat → List Nat
  | [] => []
  | a :: t => let r := dedup t
              if r.contains a then r else a :: r

/-! ### Units by number -/

def State.core (s : State) (k : Nat) : Core := Tab.get {} s.cores k
def State.setCore (s : State) (k : Nat) (c : Core) : State := { s with cores := Tab.put s.cores k c }
def State.cluster (s : State) (p : Nat) : Cluster := Tab.get {} s.clusters p
def State.setCluster (s : State) (p : Nat) (c : Cluster) : State := { s with clusters := Tab.put s.clusters p c }
def State.router (s : State) (p : Nat) : Router := Tab.get {} s.routers p
def State.setRouter (s : State) (p : Nat) (r : Router) : State := { s with routers := Tab.put s.routers p r }
def State.region (s : State) (r : Nat) : Region := Tab.get {} s.regions r
def State.setRegion (s : State) (r : Nat) (g : Region) : State := { s with regions := Tab.put s.regions r g }
def State.icore (s : State) (k : Nat) : ICore := Tab.get {} s.icores k
def State.setICore (s : State) (k : Nat) (c : ICore) : State := { s with icores := Tab.put s.icores k c }

/-- A free value (log 2): the counter advances. -/
def State.fresh (s : State) (case : Nat) : Word × State :=
  (Config.freeWord case s.free, { s with free := s.free + 1 })

/-! ### Geometry (00: R1) -/

def posX (p : Nat) : Nat := p % 128
def posY (p : Nat) : Nat := p / 128
def posOf (x y : Nat) : Nat := 128 * y + x
/-- Region of a position (04: R84, `region_of`). -/
def regionOf (p : Nat) : Nat := 8 * (posY p / 16) + posX p / 16
/-- Index 16·(local y) + local x of a position in its region. -/
def localIndex (p : Nat) : Nat := 16 * (posY p % 16) + posX p % 16
/-- A position of the island square (00: R1). -/
def isIsland (p : Nat) : Bool :=
  (posX p % 16 = 7 || posX p % 16 = 8) && (posY p % 16 = 7 || posY p % 16 = 8)
/-- A position that exists. -/
def isPos (p : Nat) : Bool := decide (p < 12288)
/-- Where an island is addressed: local (7, 7) (03: R48). -/
def islandPos (r : Nat) : Nat := posOf (16 * (r % 8) + 7) (16 * (r / 8) + 7)
/-- Position of a tile core. -/
def corePos (k : Nat) : Nat := k / 4
/-- Number of a tile core in its cluster. -/
def coreNo (k : Nat) : Nat := k % 4

/-! ### Homes (log 4) -/

/-- Home of byte 0 of a region's SRAM: the place at which island cores see it (16: R352). -/
def sramHome (r : Nat) : Nat := 0x4000000000000 + r * 2 ^ 24
/-- Home of byte 0 of a cluster's scratchpad. -/
def spadHome (p : Nat) : Nat := 0x10000000000000 + p * 2 ^ 20
/-- Home of byte 0 of a core's TCM. -/
def tcmHome (k : Nat) : Nat := 0x20000000000000 + k * 2 ^ 16

/-- Home bytes of a cluster's scratchpad and of its cores' TCM. -/
def ownBytes (p a : Nat) : Bool :=
  (decide (spadHome p ≤ a) && decide (a < spadHome (p + 1))) || (decide (tcmHome (4 * p) ≤ a) && decide (a < tcmHome (4 * p + 4)))

/-- The scratchpad and the TCMs of a cluster hold nothing any more (03: R53). -/
def State.dropBytes (s : State) (p : Nat) : State :=
  { s with mem := s.mem.filter fun c => !ownBytes p c.1, memEmpty := s.memEmpty.filter fun w => !ownBytes p (8 * w) }

def State.readMem (s : State) (a n : Nat) : Nat := Mem.readNat s.mem a n
def State.readWord (s : State) (a : Nat) : Word := BitVec.ofNat 64 (s.readMem a 8)
/-- Bytes that one ECC code covers around word `w`: its own 8, or the 32-byte unit of edge memory (10: R190). -/
def eccUnit (w : Nat) : Nat × Nat := if 8 * w < 0x18000000000 then (8 * w / 32 * 32, 32) else (8 * w, 8)
/-- An access of `n` bytes at `a` meets the unit of word `w`. -/
def eccMeets (a n w : Nat) : Bool := decide ((eccUnit w).1 < a + n) && decide (a < (eccUnit w).1 + (eccUnit w).2)
/-- `n` bytes at `a` hold the unit of word `w` whole. -/
def eccCovers (a n w : Nat) : Bool := decide (a ≤ (eccUnit w).1) && decide ((eccUnit w).1 + (eccUnit w).2 ≤ a + n)

/-- Bytes written at their home. A unit of ECC written whole holds no error any more (10: R190). -/
def State.writeMem (s : State) (a : Nat) (bs : List Byte) : State :=
  { s with mem := Mem.writeBytes s.mem a bs
           eccBad := s.eccBad.filter fun w => !eccCovers a bs.length w
           eccSoft := s.eccSoft.filter fun w => !eccCovers a bs.length w }
def State.writeWord (s : State) (a : Nat) (v : Word) : State := s.writeMem a (toBytes 8 v.toNat)
/-- The word's bits under a mask replaced. A write of part of a word leaves an error of it standing (10: R190). -/
def State.writeMasked (s : State) (a : Nat) (mask v : Word) : State :=
  let t := s.writeWord a ((s.readWord a &&& ~~~mask) ||| (v &&& mask))
  if mask = BitVec.allOnes 64 then t else { t with eccBad := s.eccBad, eccSoft := s.eccSoft }

/-- An uncorrectable error lies in the bytes of a home address (10: R190). -/
def State.badAt (s : State) (a n : Nat) : Bool := s.eccBad.any (eccMeets a n)
/-- Region whose island counts the corrected errors of a home: the one that holds it, else `r`, that of the island
that reads for the access (10: R190; log 104). -/
def eccOwner (r h : Nat) : Nat :=
  if tcmHome 0 ≤ h then regionOf (corePos ((h - tcmHome 0) / 2 ^ 16))
  else if spadHome 0 ≤ h then regionOf ((h - spadHome 0) / 2 ^ 20)
  else if sramHome 0 ≤ h && decide (h < sramHome 48) then (h - sramHome 0) / 2 ^ 24
  else r
/-- Reading words with a single-bit error counts it at the owning island (10: R190). -/
def State.countEcc (s : State) (r a n : Nat) : State :=
  let hits := s.eccSoft.filter (eccMeets a n)
  if hits.isEmpty then s
  else
    let r := eccOwner r a
    s.setRegion r { s.region r with eccCount := (s.region r).eccCount + hits.length }

/-- The memory full/empty bit of the word at a home address (10: R195). -/
def State.memIsEmpty (s : State) (a : Nat) : Bool := s.memEmpty.contains (a / 8)
def State.setMemFull (s : State) (a : Nat) : State := { s with memEmpty := s.memEmpty.filter (· != a / 8) }
def State.setMemEmpty (s : State) (a : Nat) : State :=
  if s.memEmpty.contains (a / 8) then s else { s with memEmpty := s.memEmpty ++ [a / 8] }

/-! ### Messages (09: R169-R174) -/

/-- Header word 0 (09: R169). -/
def header0 (p core vc ch len pcnt : Nat) : Word :=
  fields [(0, posX p), (7, posY p), (14, core), (16, vc), (19, ch), (24, len), (40, pcnt)]
/-- Header word 1 (09: R170). -/
def header1 (p core seq tag : Nat) : Word := fields [(0, posX p), (7, posY p), (14, core), (16, seq % 65536), (32, tag)]
/-- Destination position of a header. -/
def destPos (w0 : Word) : Nat := posOf (bits w0 0 7) (bits w0 7 7)
/-- Source position of a header. -/
def srcPos (w1 : Word) : Nat := posOf (bits w1 0 7) (bits w1 7 7)
def srcCore (w1 : Word) : Nat := bits w1 14 2

/-- Tag stamped on a cluster's message (03: R65). -/
def State.tagFor (s : State) (p vc : Nat) : Nat := if vc = 0 || vc = 1 then 0xFF else (s.region (regionOf p)).tag

/-- Number `n` as the SEQ of a header word 1 (09: R170). -/
def withSeq (w1 : Word) (n : Nat) : Word := (w1 &&& ~~~(0xFFFF#64 <<< 16)) ||| (BitVec.ofNat 64 (n % 65536) <<< 16)

/-- A message enters the local port of its source: what the port has still to count takes the next SEQ of its source core
and VC (09: R170). -/
def State.enter (s : State) (m : Msg) : State :=
  let p := m.at_
  let put (s : State) (n : Nat) : State :=
    { s with net := s.net ++ [{ m with dir := 4, uncounted := false, w1 := withSeq m.w1 n }] }
  if !m.uncounted then { s with net := s.net ++ [{ m with dir := 4 }] }
  else if isIsland p then
    let g := s.region (regionOf p)
    let n := Tab.get 0 g.seqs m.vc
    put (s.setRegion (regionOf p) { g with seqs := Tab.put g.seqs m.vc ((n + 1) % 65536) }) n
  else
    let k := 4 * p + srcCore m.w1
    let c := s.core k
    let n := Tab.get 0 c.seqs m.vc
    put (s.setCore k { c with seqs := Tab.put c.seqs m.vc ((n + 1) % 65536) }) n

/-- A message of core `k` on its VC, before the local port, which counts its SEQ as it enters (09: R170; 03: R65). -/
def State.injectCore (s : State) (k : Nat) (m : Msg) : State :=
  let p := corePos k
  { s with net := s.net ++ [{ m with at_ := p, dir := 5, uncounted := true, w1 := header1 p (coreNo k) 0 (s.tagFor p m.vc) }] }

/-- A message of core `k` that its port injects at once (09: R170, R175). -/
def State.enterCore (s : State) (k : Nat) (m : Msg) : State :=
  let p := corePos k
  s.enter { m with at_ := p, dir := 5, uncounted := true, w1 := header1 p (coreNo k) 0 (s.tagFor p m.vc) }

/-- A message of an island, before the local port, with tag 0xFF (03: R65). -/
def State.injectIsland (s : State) (r : Nat) (m : Msg) : State :=
  { s with net := s.net ++ [{ m with at_ := islandPos r, dir := 5, uncounted := true, w1 := header1 (islandPos r) 0 0 0xFF }] }

/-- A VC0 message of core `k` to the island of region `r`, with channel and payload words (03: R48). -/
def State.toIsland (s : State) (k r ch : Nat) (ws : List Word) : State :=
  s.injectCore k { vc := 0, w0 := header0 (islandPos r) 0 0 ch (8 * ws.length) 0, body := bytesOf ws }

/-- A report (16: R337) from a unit at position `p` to the island of region `r`, through the port of core 0 (log 107). -/
def State.report (s : State) (p r cause unit chan : Nat) (h0 h1 : Word) : State :=
  s.toIsland (4 * p) r 0
    [fields [(0, cause), (7, posX p), (14, posY p), (21, unit), (23, chan)], h0, h1, 0]

/-- A VC3 reply from position `p` to the source of a request, or from outside the mesh (09: R183; log 9), with SEQ and
SCORE 0 (log 107). -/
def reply (m : Msg) (p tag kind cause : Nat) (addr : Word) (bs : List Byte) : Msg :=
  { at_ := p, vc := 3
    w0 := header0 (srcPos m.w1) (srcCore m.w1) 3 kind bs.length 0
    w1 := header1 p 0 0 tag
    w2 := fields [(0, bits m.w3 0 4), (8, cause)]
    w3 := addr
    body := bs }

/-- Put a message into the mesh as it stands. -/
def State.send (s : State) (m : Msg) : State := { s with net := s.net ++ [m] }

/-- Flits of a message: 64 bytes each (09: R171). -/
def Msg.flits (m : Msg) : Nat :=
  ((if m.vc = 2 || m.vc = 3 then 32 else 16) + 8 * ((m.prel.length + 1) / 2) + m.body.length + 63) / 64

/-- A message has room in a buffer of 4 flits that holds others; one that finds it empty enters, and what is longer than
the buffer stands for flits in the routers behind (09: R173; log 9). -/
def roomFor (held : List Msg) (m : Msg) : Bool :=
  held.isEmpty || decide ((held.foldl (fun n e => n + e.flits) 0) + m.flits ≤ 4)

/-- The class is being quieted in the region: no injection (03: R62). -/
def State.quieted (s : State) (p vc : Nat) : Bool :=
  (s.region (regionOf p)).quiet.any fun q => q.classes.contains vc

/-- The local port of a router takes a message: its buffer of the VC has room, and the class may be injected (03: R62;
09: R173). -/
def State.portRoom (s : State) (p : Nat) (m : Msg) : Bool :=
  !s.quieted p m.vc && roomFor (s.net.filter fun e => e.at_ = p && e.vc = m.vc && e.dir = 4) m

/-! ### Register space (05: R88-R97) -/

/-- Byte ranges of register space as word ranges. -/
def wordsCovering (b n : Nat) : Nat × Nat := if n = 0 then (b / 8, 0) else (b / 8, (b + n - 1) / 8 - b / 8 + 1)

def inRanges (rs : List (Nat × Nat)) (w : Nat) : Bool := rs.any fun r => decide (r.1 ≤ w) && decide (w < r.1 + r.2)

def RegSpace.word (g : RegSpace) (w : Nat) : Word := Tab.get 0 g.words w
/-- Word 0 is always full (05: R90). -/
def RegSpace.isEmpty (g : RegSpace) (w : Nat) : Bool := w ≠ 0 && Tab.get false g.empty w
def RegSpace.isPend (g : RegSpace) (w : Nat) : Bool := Tab.get false g.pend w

/-- The word written and full, and no write owed any more (05: R94). Word 0 discards writes (05: R90). The copies of a
scalar register in slices M and D are stale (05: R97). -/
def RegSpace.put (g : RegSpace) (w : Nat) (v : Word) : RegSpace :=
  let b := BitVec.ofNat 64 (2 ^ w)
  if w = 0 then g
  else { words := Tab.put g.words w v, empty := Tab.put g.empty w false, pend := Tab.put g.pend w false
         freshM := g.freshM &&& ~~~b, freshD := g.freshD &&& ~~~b }

/-- The word full with its bytes as they are, its pending mark cleared (05: R96). -/
def RegSpace.fill (g : RegSpace) (w : Nat) : RegSpace :=
  { g with empty := Tab.put g.empty w false, pend := Tab.put g.pend w false }

/-- The word marked empty by a producer (05: R94). -/
def RegSpace.owe (g : RegSpace) (w : Nat) : RegSpace :=
  if w = 0 then g else { g with empty := Tab.put g.empty w true, pend := Tab.put g.pend w true }

/-- Words of register space written full, one after another (05: R94). -/
def State.putWords (s : State) (k w : Nat) : List Word → State
  | [] => s
  | v :: t => (let c := s.core k
               s.setCore k { c with reg := c.reg.put w v }).putWords k (w + 1) t

/-- All words of ranges, in turn. -/
def RegSpace.overRanges (f : RegSpace → Nat → RegSpace) (g : RegSpace) (rs : List (Nat × Nat)) : RegSpace :=
  rs.foldl (fun g r => (span r.1 r.2).foldl f g) g

/-- Slices of the scalar registers (05: R97). -/
inductive Slice where
  | a | m | d
  deriving DecidableEq, Repr

/-- A read in a slice refreshes its copy (05: R97). -/
def RegSpace.refresh (g : RegSpace) (sl : Slice) (r : Nat) : RegSpace :=
  match sl with
  | .a => g
  | .m => { g with freshM := g.freshM ||| BitVec.ofNat 64 (2 ^ r) }
  | .d => { g with freshD := g.freshD ||| BitVec.ofNat 64 (2 ^ r) }

/-- A write updates the copies that its copy set names (04: R75; 05: R97). -/
def RegSpace.copySet (g : RegSpace) (r cs : Nat) : RegSpace :=
  let b := BitVec.ofNat 64 (2 ^ r)
  { g with freshM := if cs % 2 = 1 then g.freshM ||| b else g.freshM
           freshD := if cs / 2 % 2 = 1 then g.freshD ||| b else g.freshD }

/-- Words of ranges. -/
def wordsIn (rs : List (Nat × Nat)) : List Nat := rs.flatMap fun r => span r.1 r.2

/-- An operation put in its place in program order. -/
def insertOp (o : EngOp) : List EngOp → List EngOp
  | [] => [o]
  | p :: t => if o.seq ≤ p.seq then o :: p :: t else p :: insertOp o t

/-- Operations of a core in the bay, in program order. -/
def Cluster.inflightOf (cl : Cluster) (c : Nat) : List EngOp :=
  (cl.inflight.flatMap fun x => (x.2.filter fun o => o.1 = c).map Prod.snd).foldr insertOp []

/-- Operations of a core that have not yet read all they read, or not yet written all they write. -/
def State.opsOf (s : State) (k : Nat) : List EngOp :=
  (s.core k).dispq ++
    (s.cluster (corePos k)).inflightOf (coreNo k) ++
    (s.core k).stuck.map Prod.snd

/-- A later write to the word must wait: a write is still owed, or an earlier operation still has to read it
(05: R93). What an operation has landed is among its `writes` no more (`EngOp.owing`). -/
def State.writeWaits (s : State) (k w : Nat) : Bool :=
  w ≠ 0 && ((s.core k).reg.isPend w || (s.opsOf k).any fun o => inRanges o.reads w || inRanges o.writes w)

/-! ### The issuing core -/

/-- The scalar register of the issuing core (05: R90; 16: R352). -/
def State.reg (s : State) (r : Nat) : Word :=
  if r = 0 then 0
  else match s.cur with
    | .tile k => (s.core k).reg.word r
    | .island k => Tab.get 0 (s.icore k).regs r

def State.pc (s : State) : Word :=
  match s.cur with
  | .tile k => (s.core k).pc
  | .island k => (s.icore k).pc

def State.fcsr (s : State) : Word :=
  match s.cur with
  | .tile k => (s.core k).fcsr
  | .island k => (s.icore k).fcsr

/-- Rounding mode (05: R101). -/
def State.rm (s : State) : Nat := bits s.fcsr 0 3

/-- The instruction has not executed: what it waits for is noted and nothing else changes (06: R105; log 17). -/
def State.block (s : State) (w : Wait) : State :=
  match s.cur with
  | .tile k => s.setCore k { s.core k with blocked := some w }
  | .island k => s.setICore k { s.icore k with blocked := some w }

/-- Set sticky flags (05: R101; 04: R84, `flag`). -/
def State.raise (s : State) (f : Flags) : State :=
  let v : Word := (f.setWidth 64) <<< 8
  match s.cur with
  | .tile k => s.setCore k { s.core k with fcsr := (s.core k).fcsr ||| v }
  | .island k => s.setICore k { s.icore k with fcsr := (s.icore k).fcsr ||| v }

/-- The instruction retires and control goes to `t`, by a transfer or by sequential flow (04: R72; 05: R100). -/
def State.goto (s : State) (t : Word) : State :=
  match s.cur with
  | .tile k =>
    let c := s.core k
    s.setCore k { c with came := some c.pc, pc := t, blocked := none, instret := c.instret + 1, cycle := c.cycle + 1,
                         sinceCkpt := if c.pair = .first then c.sinceCkpt + 1 else c.sinceCkpt }
  | .island k =>
    let c := s.icore k
    s.setICore k { c with came := some c.pc, pc := t, blocked := none, instret := c.instret + 1, cycle := c.cycle + 1 }

/-- The instruction of `len` bytes retires (04: R71). -/
def State.retire (s : State) (len : Nat) : State := s.goto (s.pc + BitVec.ofNat 64 len)

/-- Write a scalar register, full, with a copy set (04: R84, `setreg`; 05: R97). -/
def State.setReg (s : State) (r : Nat) (v : Word) (cs : Nat) : State :=
  if r = 0 then s
  else match s.cur with
    | .tile k => let c := s.core k
                 s.setCore k { c with reg := (c.reg.put r v).copySet r cs }
    | .island k => let c := s.icore k
                   s.setICore k { c with regs := Tab.put c.regs r v }

/-- Cause codes (16: R333). -/
def cILLEGAL_OP : Nat := 0
def cILLEGAL_ENTRY : Nat := 1
def cEMPTY_READ : Nat := 2
def cPRELUDE_ILLEGAL : Nat := 3
def cBAD_HEADER : Nat := 4
def cUSER_TRAP : Nat := 5
def cFORMAT_UNSUPPORTED : Nat := 6
def cTMAP_INVALID : Nat := 7
def cBAD_ADDRESS : Nat := 16
def cMISALIGNED : Nat := 17
def cPAGE_ABSENT : Nat := 18
def cPTE_MALFORMED : Nat := 19
def cPAGE_PERM : Nat := 20
def cHOST_ABORT : Nat := 21
def cFLAG : Nat := 40
def cLEASE_LOST : Nat := 56
def cENGINE_NOT_HELD : Nat := 57
def cBANK_EMPTY : Nat := 58
def cFORMAT_MISMATCH : Nat := 59
def cSCALE_MISMATCH : Nat := 60
def cCOUNT_DEPTH : Nat := 61
def cBAD_RECORD : Nat := 62
def cSTREAM_CORRUPT : Nat := 63
def cHEADBOX_DENIED : Nat := 64
def cNO_HANDLER : Nat := 68
def cINPUT_OVERFLOW : Nat := 69
def cBAD_DEPOSIT : Nat := 70
def cBARRIER_MISMATCH : Nat := 71
def cPROTECT_DROP : Nat := 72
def cDEST_RETIRED : Nat := 73
def cLINK_LOST : Nat := 74
def cRD_MISMATCH : Nat := 75
def cUNCORR_ECC : Nat := 80
def cLOCKSTEP_SOFT : Nat := 81
def cLOCKSTEP_HARD : Nat := 82
def cTORN_SAVE : Nat := 83
def cTHERMAL_TRIP : Nat := 84
def cWATCHPOINT : Nat := 88
def cBREAKPOINT : Nat := 89
def cSTEP : Nat := 90
def cILLEGAL_TRET : Nat := 91
def cBAD_STATUS : Nat := 92

/-! ### Translation (10: R196-R199) -/

/-- The home of a physical address of R196, or none in a reserved range. -/
def memHome (pa : Nat) : Option Nat :=
  if pa < 0x18000000000 then some pa
  else if 0x8000000000000 ≤ pa && pa < 0x10000000000000 then some pa
  else none

/-- The home of an island core's physical address: R196 and the SRAM of every region (16: R352). -/
def physHome (pa : Nat) : Option Nat :=
  if 0x4000000000000 ≤ pa && pa < 0x4000000000000 + 48 * 2 ^ 24 then some pa else memHome pa

/-- What an access asks of a page (10: R199). -/
inductive Want where
  | read | write | atomic | fetch
  deriving DecidableEq, Repr

/-! ### Other wafers (18: R383) -/

/-- An address of the fabric window. -/
def awayHome (pa : Nat) : Bool := decide (0x2000000000000 ≤ pa) && decide (pa < 0x4000000000000)

/-- The wafer that an address of the fabric window names (18: R383). -/
def waferOf (pa : Nat) : Nat := pa / 2 ^ 41 % 256

/-- An address of the fabric window that a joined module can reach: on another wafer, in its edge memory, over a port in
service that leads toward it (18: R382, R383). -/
def State.reaches (s : State) (pa : Nat) : Bool :=
  let f := s.fabric
  f.joined && waferOf pa ≠ f.wafer && decide (pa % 2 ^ 41 < 0x18000000000) && (f.pods.any fun e => e.1 = waferOf pa) &&
    s.links.any fun l => l.2.up && l.2.toward.contains (waferOf pa)

/-- Home of a byte that an engine or an island's DMA accesses by its physical address (10: R196), or the cause. On another
wafer nothing is atomic (15: R322), and the endpoint there may refuse (18: R383): a free value says so (log 10). -/
def State.pageHome (s : State) (pa : Nat) (w : Want) : Except Nat Nat :=
  match memHome pa with
  | some h => .ok h
  | none =>
    if !awayHome pa || !s.reaches pa || w == .atomic then .error cBAD_ADDRESS
    else if bit (Config.freeWord 40 (2 ^ 64 * s.free + pa / 4096)) 0 then .error cPROTECT_DROP
    else .ok pa

/-- Bytes at a home; those of another wafer are free values (log 10). -/
def State.bytesAt (s : State) (h n : Nat) : List Byte :=
  if awayHome h then (span h n).map fun a => (Config.freeWord 38 (2 ^ 64 * s.free + a)).setWidth 8
  else Mem.readBytes s.mem h n

/-- Bytes that leave for another wafer (15: R329; log 10). -/
def State.storeAway (s : State) (h : Nat) (bs : List Byte) : State :=
  { s with fabric := { s.fabric with stores := s.fabric.stores ++ [(h, bs)] } }

/-- A read of pieces by homes has been made: single-bit errors are counted (10: R190), and what it drew of the free values
stays behind it. -/
def State.countHomes (s : State) (r : Nat) (hs : List (Nat × Nat)) : State :=
  let s := hs.foldl (fun s h => s.countEcc r h.1 h.2) s
  if hs.any fun h => awayHome h.1 then { s with free := s.free + 1 } else s

/-- A page as a walk finds it: its first address, the log of its size, its permission bits X W R (10: R198). -/
structure Page where
  pa : Nat
  size : Nat
  perm : Nat
  deriving DecidableEq, Repr

/-- The page's permissions allow the access (10: R199). -/
def Page.allows (g : Page) : Want → Bool
  | .read => g.perm % 2 = 1
  | .write => g.perm / 2 % 2 = 1
  | .atomic => g.perm % 4 = 3
  | .fetch => g.perm / 4 % 2 = 1

/-- A table entry at a level is malformed (10: R198, R199). -/
def pteMalformed (level : Nat) (e : Word) : Bool :=
  let leaf := bit e 1
  let pfn := bits e 12 40
  bits e 6 6 ≠ 0 || (bit e 5 && level ≠ 3) || (leaf && level = 0) || (!leaf && level = 3) ||
  (!leaf && (bits e 2 4 ≠ 0 || !decide (pfn * 4096 < 0x18000000000))) ||
  (leaf && level = 1 && pfn % 2 ^ 18 ≠ 0) || (leaf && level = 2 && pfn % 2 ^ 9 ≠ 0)

/-- The walk from a table at a level down (10: R198, R199): the page or the cause of the failure. A table entry with an
uncorrectable error fails it (10: R190). -/
def State.walkFrom (s : State) (va : Nat) : List Nat → Nat → Except Nat Page
  | [], _ => .error cPTE_MALFORMED
  | level :: below, table =>
    let sh := 39 - 9 * level
    let at_ := table + 8 * (va / 2 ^ sh % 512)
    let e := s.readWord at_
    if s.badAt at_ 8 then .error cUNCORR_ECC
    else if !bit e 0 then .error cPAGE_ABSENT
    else if pteMalformed level e then .error cPTE_MALFORMED
    else if bit e 1 then
      let pa := bits e 12 40 * 4096
      let size := if level = 3 && bit e 5 then 16 else sh
      let g : Page := ⟨pa / 2 ^ size * 2 ^ size, size, bits e 2 3⟩
      if (memHome g.pa).isNone && !awayHome g.pa then .error cBAD_ADDRESS
      else .ok g
    else s.walkFrom va below (bits e 12 40 * 4096)

/-- The page of a virtual address under a root table (10: R198). -/
def State.walk (s : State) (root va : Nat) : Except Nat Page := s.walkFrom va [0, 1, 2, 3] root

/-- Addresses of the table entries that a walk reads. -/
def State.walkReads (s : State) (va : Nat) : List Nat → Nat → List Nat
  | [], _ => []
  | level :: below, table =>
    let at_ := table + 8 * (va / 2 ^ (39 - 9 * level) % 512)
    let e := s.readWord at_
    at_ :: if s.badAt at_ 8 || !bit e 0 || pteMalformed level e || bit e 1 then [] else s.walkReads va below (bits e 12 40 * 4096)

/-- The physical address of a virtual one for an access (10: R199). -/
def State.translate (s : State) (root va : Nat) (w : Want) : Except Nat Nat :=
  match s.walk root va with
  | .error c => .error c
  | .ok g => if g.allows w then .ok (g.pa + va % 2 ^ g.size) else .error cPAGE_PERM

/-- The partition of a cluster or region, by tag (03: R65). -/
def State.partOf (s : State) (r : Nat) : Partition := Tab.get {} s.parts (s.region r).tag

/-- The single-bit errors that a walk from a root by the island of a region has met are counted (10: R190). -/
def State.countRoot (s : State) (r root va : Nat) : State :=
  if s.eccSoft.isEmpty then s else (s.walkReads va [0, 1, 2, 3] root).foldl (fun s a => s.countEcc r a 8) s

/-- The same, from the root of the region's partition. -/
def State.countWalk (s : State) (r va : Nat) : State := s.countRoot r (s.partOf r).root va

/-- The lead island of a partition: that of its lowest-numbered region (02: R30). -/
def Partition.lead (x : Partition) : Nat := ((span 0 48).find? fun r => x.regions / 2 ^ r % 2 = 1).getD 0

/-- A translated core address (10: R191). -/
def isTranslated (a : Word) : Bool := decide (bits a 48 16 = 1)

/-- The home of the pinned save area of core `k` (05: R100; 16: R335, R342); none while TFBASE maps nothing
(log 20). -/
def State.tfHome (s : State) (k : Nat) : Option Nat :=
  let a := (s.core k).tfbase
  if !isTranslated a then none
  else match s.walk (s.partOf (regionOf (corePos k))).root (bits a 0 48) with
    | .ok g => memHome (g.pa + bits a 0 48 % 2 ^ g.size)
    | .error _ => none

/-! ### Pre-emption (16: R341, R357) -/

/-- The state of a partition's context: 0 RUNNING, 1 SAVING, 2 SAVED, 3 LOADING (16: R357). -/
def State.ctxState (s : State) (tag : Nat) : Nat :=
  let lead := (Tab.get {} s.parts tag : Partition).lead
  bits (s.readWord (sramHome lead + 0xF01000 + 8 * tag)) 0 4

/-- A step's instruction has still to issue, or to complete (17: R364). -/
def Core.inStep (c : Core) : Bool := c.stepping && !c.stepFrame

/-- The core issues nothing (16: R335; 17: R359): a stop is in force, and no step of it (R364). -/
def Core.still (c : Core) : Bool := c.trapped.isSome || (c.stopped ≠ 0 && !c.inStep) || c.rollback

/-- The partition of a position is being saved or restored, or is saved (16: R341). -/
def State.preempted (s : State) (p : Nat) : Bool :=
  let tag := (s.region (regionOf p)).tag
  tag ≠ 0 && s.ctxState tag ≠ 0

/-- The clusters of the position's partition hold nothing of it: it is saved, or is being restored (16: R357). -/
def State.savedOut (s : State) (p : Nat) : Bool :=
  let tag := (s.region (regionOf p)).tag
  tag ≠ 0 && decide (2 ≤ s.ctxState tag)

/-! ### Traps -/

/-- What a cause carries into its frame (16: R332, R336). -/
structure Cause where
  code : Nat
  kind : Nat := 0
  pc : Word := 0
  addr : Word := 0
  detail : Word := 0
  unit : Nat := 9
  slot : Nat := 0
  fetch : Bool := false
  trapn : Nat := 0
  pidx : Word := 0
  due : Due := {}

/-- Identity word of a core in its constant window (04: R78). -/
def State.identity (s : State) (k n : Nat) : Word := s.readWord (tcmHome k + 8 * n)

/-- The frame of a trap of core `k` (16: R336). -/
def State.frame (s : State) (k : Nat) (c : Cause) : List Word :=
  let d := s.core k
  let run := d.ch.isSome
  [ fields [(0, c.code), (8, c.kind), (11, b2n c.fetch), (12, c.unit), (16, c.slot), (19, b2n (d.pair != .alone)),
      (24, d.ch.getD 0), (29, b2n run), (32, d.tfcount % 2 ^ 32)],
    c.pc, d.pc, c.addr, c.detail, c.pidx,
    fields [(0, bits (s.identity k 252) 0 32), (32, bits (s.identity k 252) 32 16), (48, c.trapn)], 7 ]

/-- Tile core `k` takes a cause: TRAPPED, TFCOUNT up, the frame in its save area and on VC0 to its island
(16: R335). An LYIELD or LFREE that waited has not executed (06: R105). -/
def State.takeTrap (s : State) (k : Nat) (c : Cause) : State :=
  let d := s.core k
  let s := s.setCore k { d with
    tfcount := (d.tfcount + 1) % 2 ^ 32, blocked := none
    leases := d.leases.map fun e => (e.1, { e.2 with yielding := false }) }
  let fr := s.frame k c
  let s := s.setCore k { s.core k with trapped := some { frame := fr, due := c.due } }
  let s := match s.tfHome k with
    | some a => s.writeMem a (bytesOf fr)
    | none => s
  s.toIsland k (regionOf (corePos k)) 0 fr

/-- The island core stops for good until firmware restarts it; the hub tells the island's other cores
(16: R354). -/
def State.wedge (s : State) (k cause : Nat) (addr : Word) : State :=
  let s := s.setICore k { s.icore k with wedged := true, blocked := none }
  let r := k / 8
  let g := s.region r
  let m : Msg := { at_ := islandPos r, vc := 0, w0 := header0 (islandPos r) 0 0 0 24 0,
                   w1 := header1 (islandPos r) 0 0 0xFF, body := bytesOf [BitVec.ofNat 64 k, BitVec.ofNat 64 cause, addr] }
  s.setRegion r { g with inq := Tab.put g.inq 0 (Tab.get [] g.inq 0 ++ [m]) }

/-- A frame or a vector of the trap stack lies in region SRAM or edge memory, else the access faults
(16: R353, R354). -/
def kernelHome (pa : Word) : Option Nat := physHome pa.toNat

/-! ### Island stores under way (15: R327; 16: R356) -/

/-- Home bytes under dirty copies in island caches before the first such store (15: R327; 16: R356). -/
def State.dirty (s : State) (a n : Nat) : State :=
  { s with dirtyHome := (span a n).foldl (fun d x =>
      if d.any fun c => c.1 = x then d else Tab.put d x (Mem.read s.mem x)) s.dirtyHome }

/-- The stores of an island core's buffer are performed, oldest first. -/
def State.performAll (s : State) (k : Nat) : State :=
  let c := s.icore k
  let s := c.sbuf.foldl (fun s e => match e.homeAt with
    | some h => (s.dirty h 8).writeMasked h e.mask e.data
    | none => s) s
  if c.sbuf.isEmpty then s else s.setICore k { s.icore k with sbuf := [] }

/-- Entry of an island core into a handler (16: R354): `why` is the cause, or the event with bit 7, `vec` the byte
offset of its vector, `ret` the return address. Its
earlier stores come first. -/
def State.islandEnter (s : State) (k why vec : Nat) (addr ret : Word) : State :=
  let s := s.performAll k
  let c := s.icore k
  let depth := bits c.kstat 4 4
  if depth = 15 then s.wedge k why c.pc
  else
    let f := c.ksp - 64
    match kernelHome f, kernelHome (f + 56) with
    | some fa, some _ =>
      let kstat := (c.kstat &&& ~~~(0xF3 : Word)) ||| fields [(0, 1), (4, depth + 1)]
      let d := { c with ksp := f, kwhy := BitVec.ofNat 64 why, kaddr := addr, kstat := kstat }
      let s := (s.writeMem fa (bytesOf [c.kstat, ret, BitVec.ofNat 64 why, addr, 0, 0, 0, 0])).setICore k d
      match kernelHome (c.kvt + BitVec.ofNat 64 vec) with
      | some va =>
        if s.badAt va 8 then s.wedge k why c.pc
        else (s.countEcc (k / 8) va 8).setICore k { d with came := some c.pc, pc := s.readWord va, blocked := none }
      | none => s.wedge k why c.pc
    | _, _ => s.wedge k why c.pc

/-- A trap of an island core at the instruction that raises it (16: R354). -/
def State.islandTrap (s : State) (k code : Nat) (addr ret : Word) : State := s.islandEnter k code (8 * code) addr ret

/-- The issuing core takes a precise cause at its instruction (04: R84, `trap`; 16: R332, R354). In a pair the trap
waits for a checkpoint (16: R349). -/
def State.trap (s : State) (c : Cause) : State :=
  match s.cur with
  | .tile k =>
    let d := s.core k
    if d.pair = .first && (d.sinceCkpt ≠ 0 || d.ckptDue) then s.block .checkpoint
    else s.takeTrap k { c with pc := d.pc }
  | .island k => s.islandTrap k c.code c.addr (s.icore k).pc

/-- ILLEGAL_OP at the instruction (04: R82). -/
def State.illegal (s : State) : State := s.trap { code := cILLEGAL_OP }

/-! ### Operands -/

/-- First of the registers that is empty (05: R95); an island core's registers are always full (16: R352). -/
def State.firstEmpty (s : State) : List Nat → Option Nat
  | [] => none
  | r :: t =>
    match s.cur with
    | .tile k => if (s.core k).reg.isEmpty r then some r else s.firstEmpty t
    | .island _ => none

/-- The copies read in a slice become fresh (05: R97). -/
def State.refresh (s : State) (sl : Slice) (rs : List Nat) : State :=
  match s.cur with
  | .tile k => let c := s.core k
               s.setCore k { c with reg := rs.foldl (fun g r => g.refresh sl r) c.reg }
  | .island _ => s

/-- The empty rule (04: R75): with every source full go on, else EMPTY_READ for W = 1, else wait. -/
def State.sources (s : State) (w : Bool) (sl : Slice) (rs : List Nat) (go : State → State) : State :=
  match s.firstEmpty rs with
  | some r => if w then s.trap { code := cEMPTY_READ, detail := BitVec.ofNat 64 r } else s.block (.regWord r)
  | none => go (s.refresh sl rs)

/-- A write that must wait for an earlier access of the word stalls the instruction (05: R93). -/
def State.destination (s : State) (rd : Nat) (go : State → State) : State :=
  match s.cur with
  | .tile k => if s.writeWaits k rd then s.block (.owedWrite rd) else go s
  | .island _ => go s

/-- Write the result and retire (06: R104). -/
def State.finish (s : State) (len rd : Nat) (v : Word) (cs : Nat) : State := (s.setReg rd v cs).retire len

/-- What only a tile core executes; an island core raises ILLEGAL_OP (16: R352). -/
def State.onTile (s : State) (go : Nat → State) : State :=
  match s.cur with
  | .tile k => go k
  | .island _ => s.illegal

/-- A scalar instruction with sources `rs` and a result with flags (06: R104). -/
def State.scalar (s : State) (w : Bool) (cs len : Nat) (rs : List Nat) (rd : Nat) (f : State → Word × Flags) : State :=
  s.sources w .a rs fun s => s.destination rd fun s =>
    let r := f s
    (s.raise r.2).finish len rd r.1 cs

end Sys2Proof.Machine
end

