-- ==== Sys2Proof/Machine/Flags.lean ====
section
/-! DEFINITION. FCSR: its fields, the flag a TFENCE or DONE traps on, what a write may leave in it (05: R101), and the
flags of the integer divisions (06: R107). -/

namespace Sys2Proof.Machine

/-- The first flag, in the order NV DZ OF UF NX SAT, that is set and enabled (15: R319; 07: R135). -/
def enabledFlag (fcsr : Word) : Option Nat := (span 0 6).find? fun i => bit fcsr (8 + i) && bit fcsr (16 + i)

/-- A value of FCSR a write may leave: RM 0-4 (05: R101). -/
def fcsrOk (v : Word) : Bool := decide (bits v 0 3 ≤ 4)

/-- FCSR without its reserved bits (05: R101). -/
def fcsrMask (v : Word) : Word := v &&& 0x3F3F07#64

/-- A view base a write may leave: a multiple of 64 from 512 to a limit (05: R92, R102). -/
def viewOk (limit : Nat) (v : Word) : Bool :=
  let o := bits v 0 14
  o % 64 = 0 && decide (512 ≤ o) && decide (o ≤ limit)

/-- A quotient by zero saturates toward the sign of the dividend (06: R107). -/
def divSigned (a b : Word) : Word × Flags :=
  if b = 0#64 then
    (if a = 0#64 then 0#64 else if a.msb then 0x8000000000000000#64 else 0x7FFFFFFFFFFFFFFF#64, Flags.dz)
  else if a = 0x8000000000000000#64 && b = 0xFFFFFFFFFFFFFFFF#64 then (0x7FFFFFFFFFFFFFFF#64, Flags.sat)
  else (BitVec.ofInt 64 (a.toInt.tdiv b.toInt), Flags.none)

def divUnsigned (a b : Word) : Word × Flags :=
  if b = 0#64 then (if a = 0#64 then 0#64 else 0xFFFFFFFFFFFFFFFF#64, Flags.dz)
  else (BitVec.ofNat 64 (a.toNat / b.toNat), Flags.none)

def remSigned (a b : Word) : Word × Flags :=
  if b = 0#64 then (0#64, Flags.dz) else (BitVec.ofInt 64 (a.toInt.tmod b.toInt), Flags.none)

def remUnsigned (a b : Word) : Word × Flags :=
  if b = 0#64 then (0#64, Flags.dz) else (BitVec.ofNat 64 (a.toNat % b.toNat), Flags.none)

end Sys2Proof.Machine
end

