-- ==== Sys2Proof/Machine/Integer.lean ====
section
/-! DEFINITION. Integer register-register, bit, immediate and constant-window instructions (06: R106-R112). -/

namespace Sys2Proof.Machine

/-- An R-form instruction of two sources (06: R106). -/
def State.alu (s : State) (w : BitVec 1) (cs : BitVec 2) (rb ra rd : Reg) (f : Word → Word → Word × Flags) : State :=
  s.scalar (w = 1#1) cs.toNat 4 [ra.toNat, rb.toNat] rd.toNat fun s => f (s.reg ra.toNat) (s.reg rb.toNat)

/-- A result without flags. -/
def plain (v : Word) : Word × Flags := (v, Flags.none)

/-- ROR (06: R106). -/
def rotr (a : Word) (n : Nat) : Word := (a >>> n) ||| (a <<< ((64 - n) % 64))

/-- Shift amounts use bits [5:0] (06: R106). -/
def shamt (b : Word) : Nat := b.toNat % 64

def execAdd (w : BitVec 1) (cs : BitVec 2) (rb ra rd : Reg) (s : State) : Out :=
  .next (s.alu w cs rb ra rd fun a b => plain (a + b))
def execSub (w : BitVec 1) (cs : BitVec 2) (rb ra rd : Reg) (s : State) : Out :=
  .next (s.alu w cs rb ra rd fun a b => plain (a - b))
def execAnd (w : BitVec 1) (cs : BitVec 2) (rb ra rd : Reg) (s : State) : Out :=
  .next (s.alu w cs rb ra rd fun a b => plain (a &&& b))
def execOr (w : BitVec 1) (cs : BitVec 2) (rb ra rd : Reg) (s : State) : Out :=
  .next (s.alu w cs rb ra rd fun a b => plain (a ||| b))
def execXor (w : BitVec 1) (cs : BitVec 2) (rb ra rd : Reg) (s : State) : Out :=
  .next (s.alu w cs rb ra rd fun a b => plain (a ^^^ b))
def execAndn (w : BitVec 1) (cs : BitVec 2) (rb ra rd : Reg) (s : State) : Out :=
  .next (s.alu w cs rb ra rd fun a b => plain (a &&& ~~~b))
def execShl (w : BitVec 1) (cs : BitVec 2) (rb ra rd : Reg) (s : State) : Out :=
  .next (s.alu w cs rb ra rd fun a b => plain (a <<< shamt b))
def execShr (w : BitVec 1) (cs : BitVec 2) (rb ra rd : Reg) (s : State) : Out :=
  .next (s.alu w cs rb ra rd fun a b => plain (a >>> shamt b))
def execSar (w : BitVec 1) (cs : BitVec 2) (rb ra rd : Reg) (s : State) : Out :=
  .next (s.alu w cs rb ra rd fun a b => plain (a.sshiftRight (shamt b)))
def execRor (w : BitVec 1) (cs : BitVec 2) (rb ra rd : Reg) (s : State) : Out :=
  .next (s.alu w cs rb ra rd fun a b => plain (rotr a (shamt b)))
def execMul (w : BitVec 1) (cs : BitVec 2) (rb ra rd : Reg) (s : State) : Out :=
  .next (s.alu w cs rb ra rd fun a b => plain (a * b))
def execMulh (w : BitVec 1) (cs : BitVec 2) (rb ra rd : Reg) (s : State) : Out :=
  .next (s.alu w cs rb ra rd fun a b => plain (BitVec.ofInt 64 (a.toInt * b.toInt / 2 ^ 64)))
def execMulhu (w : BitVec 1) (cs : BitVec 2) (rb ra rd : Reg) (s : State) : Out :=
  .next (s.alu w cs rb ra rd fun a b => plain (BitVec.ofNat 64 (a.toNat * b.toNat / 2 ^ 64)))
def execDiv (w : BitVec 1) (cs : BitVec 2) (rb ra rd : Reg) (s : State) : Out :=
  .next (s.alu w cs rb ra rd divSigned)
def execDivu (w : BitVec 1) (cs : BitVec 2) (rb ra rd : Reg) (s : State) : Out :=
  .next (s.alu w cs rb ra rd divUnsigned)
def execRem (w : BitVec 1) (cs : BitVec 2) (rb ra rd : Reg) (s : State) : Out :=
  .next (s.alu w cs rb ra rd remSigned)
def execRemu (w : BitVec 1) (cs : BitVec 2) (rb ra rd : Reg) (s : State) : Out :=
  .next (s.alu w cs rb ra rd remUnsigned)
def execMin (w : BitVec 1) (cs : BitVec 2) (rb ra rd : Reg) (s : State) : Out :=
  .next (s.alu w cs rb ra rd fun a b => plain (if a.slt b then a else b))
def execMax (w : BitVec 1) (cs : BitVec 2) (rb ra rd : Reg) (s : State) : Out :=
  .next (s.alu w cs rb ra rd fun a b => plain (if b.slt a then a else b))
def execMinu (w : BitVec 1) (cs : BitVec 2) (rb ra rd : Reg) (s : State) : Out :=
  .next (s.alu w cs rb ra rd fun a b => plain (if a.ult b then a else b))
def execMaxu (w : BitVec 1) (cs : BitVec 2) (rb ra rd : Reg) (s : State) : Out :=
  .next (s.alu w cs rb ra rd fun a b => plain (if b.ult a then a else b))
def execSlt (w : BitVec 1) (cs : BitVec 2) (rb ra rd : Reg) (s : State) : Out :=
  .next (s.alu w cs rb ra rd fun a b => plain (if a.slt b then 1 else 0))
def execSltu (w : BitVec 1) (cs : BitVec 2) (rb ra rd : Reg) (s : State) : Out :=
  .next (s.alu w cs rb ra rd fun a b => plain (if a.ult b then 1 else 0))
def execSeq (w : BitVec 1) (cs : BitVec 2) (rb ra rd : Reg) (s : State) : Out :=
  .next (s.alu w cs rb ra rd fun a b => plain (if a = b then 1 else 0))
/-- SEL reads rd as its condition (06: R106). -/
def execSel (w : BitVec 1) (cs : BitVec 2) (rb ra rd : Reg) (s : State) : Out :=
  .next (s.scalar (w = 1#1) cs.toNat 4 [ra.toNat, rb.toNat, rd.toNat] rd.toNat fun s =>
    plain (if s.reg rd.toNat = 0#64 then s.reg rb.toNat else s.reg ra.toNat))

/-! ### Bit instructions (06: R108, R109) -/

/-- An F-form instruction of one source (06: R108). -/
def State.unary (s : State) (ra rd : Reg) (f : Word → Word × Flags) : State :=
  s.scalar false 0 4 [ra.toNat] rd.toNat fun s => f (s.reg ra.toNat)

/-- Leading zeros of the low `n` bits. -/
def clzFrom (v : Nat) : Nat → Nat
  | 0 => 0
  | n + 1 => if v / 2 ^ n % 2 = 1 then 0 else 1 + clzFrom v n
/-- Trailing zeros among `n` bits. -/
def ctzFrom (v : Nat) : Nat → Nat
  | 0 => 0
  | n + 1 => if v % 2 = 1 then 0 else 1 + ctzFrom (v / 2) n
/-- One bits among `n` bits. -/
def popFrom (v : Nat) : Nat → Nat
  | 0 => 0
  | n + 1 => v % 2 + popFrom (v / 2) n
/-- Bytes reversed, `n` of them. -/
def swapBytes (v : Nat) : Nat → Nat
  | 0 => 0
  | n + 1 => v % 256 * 256 ^ n + swapBytes (v / 256) n

def execClz (ra rd : Reg) (s : State) : Out := .next (s.unary ra rd fun a => plain (BitVec.ofNat 64 (clzFrom a.toNat 64)))
def execCtz (ra rd : Reg) (s : State) : Out := .next (s.unary ra rd fun a => plain (BitVec.ofNat 64 (ctzFrom a.toNat 64)))
def execPopc (ra rd : Reg) (s : State) : Out := .next (s.unary ra rd fun a => plain (BitVec.ofNat 64 (popFrom a.toNat 64)))
def execBswap (ra rd : Reg) (s : State) : Out := .next (s.unary ra rd fun a => plain (BitVec.ofNat 64 (swapBytes a.toNat 8)))
def execSextb (ra rd : Reg) (s : State) : Out := .next (s.unary ra rd fun a => plain (sextWord a.toNat 8))
def execSexth (ra rd : Reg) (s : State) : Out := .next (s.unary ra rd fun a => plain (sextWord a.toNat 16))
def execSextw (ra rd : Reg) (s : State) : Out := .next (s.unary ra rd fun a => plain (sextWord a.toNat 32))
def execZextw (ra rd : Reg) (s : State) : Out := .next (s.unary ra rd fun a => plain (BitVec.ofNat 64 (bits a 0 32)))

/-- BEXT: bits of `a` under the mask `b`, packed low (06: R109). -/
def bitExtract (a b : Nat) : Nat → Nat
  | 0 => 0
  | n + 1 => if b % 2 = 1 then a % 2 + 2 * bitExtract (a / 2) (b / 2) n else bitExtract (a / 2) (b / 2) n
/-- BDEP: low bits of `a` spread to the one bits of `b` (06: R109). -/
def bitDeposit (a b : Nat) : Nat → Nat
  | 0 => 0
  | n + 1 => if b % 2 = 1 then a % 2 + 2 * bitDeposit (a / 2) (b / 2) n else 2 * bitDeposit a (b / 2) n

def execBext (w : BitVec 1) (cs : BitVec 2) (rb ra rd : Reg) (s : State) : Out :=
  .next (s.alu w cs rb ra rd fun a b => plain (BitVec.ofNat 64 (bitExtract a.toNat b.toNat 64)))
def execBdep (w : BitVec 1) (cs : BitVec 2) (rb ra rd : Reg) (s : State) : Out :=
  .next (s.alu w cs rb ra rd fun a b => plain (BitVec.ofNat 64 (bitDeposit a.toNat b.toNat 64)))

/-! ### Immediates (06: R110, R111) -/

/-- A signed immediate as a word (06: R110). -/
def simm {n : Nat} (i : BitVec n) : Word := i.signExtend 64

def execAddi (imm : BitVec 9) (ra rd : Reg) (s : State) : Out := .next (s.unary ra rd fun a => plain (a + simm imm))
def execAndi (imm : BitVec 9) (ra rd : Reg) (s : State) : Out := .next (s.unary ra rd fun a => plain (a &&& simm imm))
def execOri (imm : BitVec 9) (ra rd : Reg) (s : State) : Out := .next (s.unary ra rd fun a => plain (a ||| simm imm))
def execShli (n ra rd : BitVec 6) (s : State) : Out := .next (s.unary ra rd fun a => plain (a <<< n.toNat))
def execShri (n ra rd : BitVec 6) (s : State) : Out := .next (s.unary ra rd fun a => plain (a >>> n.toNat))
def execSari (n ra rd : BitVec 6) (s : State) : Out := .next (s.unary ra rd fun a => plain (a.sshiftRight n.toNat))
def execRori (n ra rd : BitVec 6) (s : State) : Out := .next (s.unary ra rd fun a => plain (rotr a n.toNat))


end Sys2Proof.Machine
end

