-- ==== Sys2Proof/Machine/Float.lean ====
section
/-! DEFINITION. Scalar floating point (06: R113-R119). Operands are the low bits of registers; results are written
zero-extended; flags are sticky. -/

namespace Sys2Proof.Machine

/-- The low 32 bits of a register: a binary32 operand (06: R113). -/
def lo32 (v : Word) : Nat := bits v 0 32

/-- A result of a width, zero-extended, with its flags (06: R113). -/
def fpResult (r : Nat × Flags) : Word × Flags := (BitVec.ofNat 64 r.1, r.2)

/-- An R-form FP32 instruction (06: R114). -/
def State.fp2 (s : State) (w : BitVec 1) (cs : BitVec 2) (rb ra rd : Reg) (f : Nat → Nat → Nat → Nat × Flags) : State :=
  s.scalar (w = 1#1) cs.toNat 4 [ra.toNat, rb.toNat] rd.toNat fun s =>
    fpResult (f s.rm (lo32 (s.reg ra.toNat)) (lo32 (s.reg rb.toNat)))

def execFadd (w : BitVec 1) (cs : BitVec 2) (rb ra rd : Reg) (s : State) : Out := .next (s.fp2 w cs rb ra rd (fadd .f32))
def execFsub (w : BitVec 1) (cs : BitVec 2) (rb ra rd : Reg) (s : State) : Out := .next (s.fp2 w cs rb ra rd (fsub .f32))
def execFmul (w : BitVec 1) (cs : BitVec 2) (rb ra rd : Reg) (s : State) : Out := .next (s.fp2 w cs rb ra rd (fmul .f32))
def execFdiv (w : BitVec 1) (cs : BitVec 2) (rb ra rd : Reg) (s : State) : Out := .next (s.fp2 w cs rb ra rd (fdiv .f32))
/-- FFMA reads rd as its addend (06: R114). -/
def execFfma (w : BitVec 1) (cs : BitVec 2) (rb ra rd : Reg) (s : State) : Out :=
  .next (s.scalar (w = 1#1) cs.toNat 4 [ra.toNat, rb.toNat, rd.toNat] rd.toNat fun s =>
    fpResult (ffma .f32 s.rm (lo32 (s.reg rd.toNat)) (lo32 (s.reg ra.toNat)) (lo32 (s.reg rb.toNat))))
def execFmin (w : BitVec 1) (cs : BitVec 2) (rb ra rd : Reg) (s : State) : Out :=
  .next (s.fp2 w cs rb ra rd fun _ x y => fminmax .f32 false x y)
def execFmax (w : BitVec 1) (cs : BitVec 2) (rb ra rd : Reg) (s : State) : Out :=
  .next (s.fp2 w cs rb ra rd fun _ x y => fminmax .f32 true x y)
def execFsqrt (w : BitVec 1) (cs : BitVec 2) (ra rd : Reg) (s : State) : Out :=
  .next (s.scalar (w = 1#1) cs.toNat 4 [ra.toNat] rd.toNat fun s => fpResult (fsqrt .f32 s.rm (lo32 (s.reg ra.toNat))))

/-- FCMP (06: R116). -/
def State.fcmp (s : State) (sel : Nat) (rb ra rd : Reg) : State :=
  s.scalar false 0 4 [ra.toNat, rb.toNat] rd.toNat fun s =>
    let r := fcompare .f32 sel (lo32 (s.reg ra.toNat)) (lo32 (s.reg rb.toNat))
    (if r.1 then 1 else 0, r.2)

def execFcmpEq (rb ra rd : Reg) (s : State) : Out := .next (s.fcmp 0 rb ra rd)
def execFcmpLt (rb ra rd : Reg) (s : State) : Out := .next (s.fcmp 1 rb ra rd)
def execFcmpLe (rb ra rd : Reg) (s : State) : Out := .next (s.fcmp 2 rb ra rd)
def execFcmpUnord (rb ra rd : Reg) (s : State) : Out := .next (s.fcmp 3 rb ra rd)

/-- FCVT (06: R117): a conversion of the source under the rounding mode. -/
def State.fcvt (s : State) (ra rd : Reg) (f : Nat → Word → Word × Flags) : State :=
  s.scalar false 0 4 [ra.toNat] rd.toNat fun s => f s.rm (s.reg ra.toNat)

def execFcvtF32S64 (ra rd : Reg) (s : State) : Out :=
  .next (s.fcvt ra rd fun rm a => fpResult (Fmt.f32.encode rm (Val.ofInt a.toInt)))
def execFcvtS64F32 (ra rd : Reg) (s : State) : Out :=
  .next (s.fcvt ra rd fun rm a => toS64 rm (Fmt.f32.real (lo32 a)))
def execFcvtF32Bf16 (ra rd : Reg) (s : State) : Out :=
  .next (s.fcvt ra rd fun rm a => fpResult (convert .bf16 .f32 rm (bits a 0 16)))
def execFcvtBf16F32 (ra rd : Reg) (s : State) : Out :=
  .next (s.fcvt ra rd fun rm a => fpResult (convert .f32 .bf16 rm (lo32 a)))
def execFcvtF32F16 (ra rd : Reg) (s : State) : Out :=
  .next (s.fcvt ra rd fun rm a => fpResult (convert .f16 .f32 rm (bits a 0 16)))
def execFcvtF16F32 (ra rd : Reg) (s : State) : Out :=
  .next (s.fcvt ra rd fun rm a => fpResult (convert .f32 .f16 rm (lo32 a)))

/-- FCVT with a format register, read when it executes: FORMAT_UNSUPPORTED where it describes no format
(06: R117; 11: R214). An island core has no format registers and raises ILLEGAL_OP (16: R333, R352; log 21). -/
def State.fcvtFmt (s : State) (fn : BitVec 3) (ra rd : Reg) (f : Fmt → Nat → Word → Nat × Flags) : State :=
  s.onTile fun k => s.sources false .a [ra.toNat] fun s =>
    match Fmt.ofReg (Tab.get 0 (s.core k).fmts fn.toNat) with
    | none => s.trap { code := cFORMAT_UNSUPPORTED }
    | some g => s.destination rd.toNat fun s =>
        let r := f g s.rm (s.reg ra.toNat)
        (s.raise r.2).finish 4 rd.toNat (BitVec.ofNat 64 r.1) 0

def execFcvtF32Fmt (fn : BitVec 3) (ra rd : Reg) (s : State) : Out :=
  .next (s.fcvtFmt fn ra rd fun g rm a => convert g .f32 rm (a.toNat % 2 ^ g.w))
def execFcvtFmtF32 (fn : BitVec 3) (ra rd : Reg) (s : State) : Out :=
  .next (s.fcvtFmt fn ra rd fun g rm a => convert .f32 g rm (lo32 a))

/-! Operations on bits; they never flag (06: R118, R119). -/

def execFneg (ra rd : Reg) (s : State) : Out :=
  .next (s.unary ra rd fun a => plain ((a &&& 0xFFFFFFFF) ^^^ 0x80000000))
def execFabs (ra rd : Reg) (s : State) : Out := .next (s.unary ra rd fun a => plain (a &&& 0x7FFFFFFF))
def execFcopysign (rb ra rd : Reg) (s : State) : Out :=
  .next (s.scalar false 0 4 [ra.toNat, rb.toNat] rd.toNat fun s =>
    plain ((s.reg ra.toNat &&& 0x7FFFFFFF) ||| (s.reg rb.toNat &&& 0x80000000)))
def execFclass (ra rd : Reg) (s : State) : Out := .next (s.unary ra rd fun a => plain (fclass (lo32 a)))

end Sys2Proof.Machine
end

