-- ==== Sys2Proof/Machine/Control.lean ====
section
/-! DEFINITION. Branches, jumps, loops, tests of register-space words, NOP, TRAP and BRK (06: R120-R125, R128;
16: R339; 17: R367). -/

namespace Sys2Proof.Machine

/-- Target of a branch or jump: pc + 2·sext(off) (04: R74). -/
def State.target {n : Nat} (s : State) (off : BitVec n) : Word := s.pc + 2#64 * off.signExtend 64

/-- A compare-and-branch (06: R120). -/
def State.branch (s : State) (imm : BitVec 9) (rb ra : Reg) (c : Word → Word → Bool) : State :=
  s.sources false .a [ra.toNat, rb.toNat] fun s =>
    if c (s.reg ra.toNat) (s.reg rb.toNat) then s.goto (s.target imm) else s.retire 4

def execBeq (imm : BitVec 9) (rb ra : Reg) (s : State) : Out := .next (s.branch imm rb ra fun a b => a = b)
def execBne (imm : BitVec 9) (rb ra : Reg) (s : State) : Out := .next (s.branch imm rb ra fun a b => a ≠ b)
def execBlt (imm : BitVec 9) (rb ra : Reg) (s : State) : Out := .next (s.branch imm rb ra fun a b => a.slt b)
def execBge (imm : BitVec 9) (rb ra : Reg) (s : State) : Out := .next (s.branch imm rb ra fun a b => !a.slt b)
def execBltu (imm : BitVec 9) (rb ra : Reg) (s : State) : Out := .next (s.branch imm rb ra fun a b => a.ult b)
def execBgeu (imm : BitVec 9) (rb ra : Reg) (s : State) : Out := .next (s.branch imm rb ra fun a b => !a.ult b)

def execJ (imm : BitVec 21) (s : State) : Out := .next (s.goto (s.target imm))

/-- JL writes the link into s63, then jumps (06: R121). -/
def execJl (imm : BitVec 21) (s : State) : Out :=
  .next (s.destination 63 fun s => (s.setReg 63 (s.pc + 4) 0).goto (s.target imm))

/-- JR reads its target, writes the link, then jumps (06: R122). -/
def execJr (w : BitVec 1) (cs : BitVec 2) (ra rd : Reg) (s : State) : Out :=
  .next (s.sources (w = 1#1) .a [ra.toNat] fun s => s.destination rd.toNat fun s =>
    let t := s.reg ra.toNat
    (s.setReg rd.toNat (s.pc + 4) cs.toNat).goto t)

/-- LOOP leaves at a count of zero, else counts down (06: R123). -/
def execLoop (imm : BitVec 9) (ra : Reg) (s : State) : Out :=
  .next (s.onTile fun _ => s.sources false .a [ra.toNat] fun s =>
    if s.reg ra.toNat = 0#64 then s.goto (s.target imm)
    else s.destination ra.toNat fun s => s.finish 4 ra.toNat (s.reg ra.toNat - 1) 0)

/-- BFE tests a register-space word without waiting (06: R124). -/
def execBfe (imm : BitVec 9) (rb ra : Reg) (s : State) : Out :=
  .next (s.onTile fun k => s.sources false .a [rb.toNat] fun s =>
    let w := (ra.toNat + bits (s.reg rb.toNat) 0 11) % 2048
    if (s.core k).reg.isEmpty w then s.goto (s.target imm) else s.retire 4)

/-- WAITFE waits until words w0 … w0 + n − 1 are all full (06: R125). -/
def execWaitfe (rb ra : Reg) (s : State) : Out :=
  .next (s.onTile fun k => s.sources false .a [ra.toNat, rb.toNat] fun s =>
    let w0 := (s.reg ra.toNat).toNat
    let n := (s.reg rb.toNat).toNat
    if 2048 ≤ w0 || 2048 < w0 + n then s.illegal
    else match (span w0 n).find? fun w => (s.core k).reg.isEmpty w with
      | some w => s.block (.regWord w)
      | none => s.retire 4)

def execNop (s : State) : Out := .next (s.retire 4)

/-- TRAP raises USER_TRAP; on an island core it enters the handler with its own return address
(16: R339, R354). -/
def execTrap (n ra : BitVec 6) (s : State) : Out :=
  .next (s.sources false .a [ra.toNat] fun s =>
    match s.cur with
    | .tile _ => s.trap { code := cUSER_TRAP, detail := s.reg ra.toNat, trapn := n.toNat }
    | .island k => s.islandTrap k cUSER_TRAP (s.reg ra.toNat) (s.pc + 4))

def execBrk (s : State) : Out := .next (s.trap { code := cBREAKPOINT })

end Sys2Proof.Machine
end

