-- ==== Sys2Proof/Machine/Csr.lean ====
section
/-! DEFINITION. The CSRs of tile cores (05: R100-R103) and of island cores (16: R353), and the four instructions that
access them (06: R126, R127). -/

namespace Sys2Proof.Machine

/-- LHOLD from the lease states (05: R103; 07: R146). -/
def Core.lhold (c : Core) : Word :=
  let m (p : LeaseState → Bool) : Nat :=
    (span 0 8).foldl (fun a e => a + b2n (p (Tab.get {} c.leases e).st) * 2 ^ e) 0
  fields [(0, m fun x => x == .held || x == .grace), (8, m fun x => x == .queued), (16, m fun x => x == .grace)]

/-- VALID of a handler entry (01: R15). -/
def Handler.valid (h : Handler) : Bool := bit (nth 0 h.words 1) 7
/-- MASK of a handler entry (01: R15). -/
def Handler.mask (h : Handler) : Bool := bit (nth 0 h.words 1) 3

def Core.hand (c : Core) (ch : Nat) : Handler := Tab.get {} c.hands ch

/-- The 32 MASK bits (07: R138). -/
def Core.masks (c : Core) : Nat := (span 0 32).foldl (fun a i => a + b2n (c.hand i).mask * 2 ^ i) 0

/-- HMASKR from the handler table (05: R100). -/
def Core.hmaskr (c : Core) : Word :=
  fields [(0, c.masks), (32, (span 0 32).foldl (fun a i => a + b2n (c.hand i).valid * 2 ^ i) 0)]

/-- A CSR of tile core `k`, but for CYCLE; none where the number is not defined (05: R100). -/
def State.csrTile (s : State) (k n : Nat) : Option Word :=
  let c := s.core k
  if n = 0x000 then some c.fcsr
  else if n = 0x001 then some c.vbase
  else if n = 0x002 then some c.abase
  else if n = 0x008 then some c.cycle
  else if n = 0x009 then some c.instret
  else if 0x010 ≤ n && n ≤ 0x018 then some (Tab.get 0 c.pidx (n - 0x010))
  else if n = 0x020 then some c.lhold
  else if n = 0x028 then some c.hmaskr
  else if n = 0x030 then some c.tfbase
  else if n = 0x031 then some (BitVec.ofNat 64 (c.tfcount % 2 ^ 32))
  else if 0x040 ≤ n && n ≤ 0x048 then some (Tab.get 0 (s.cluster (corePos k)).wp (n - 0x040))
  else none

/-- KEVT: a VC0 message waits, a doorbell is pending, the timer has come (16: R353). -/
def State.kevt (s : State) (k : Nat) : Nat :=
  let g := s.region (k / 8)
  b2n (!(Tab.get [] g.inq 0).isEmpty) + 2 * b2n (decide (g.doorbell ≠ 0)) + 4 * b2n (!g.ktime.ult (s.icore k).ktcmp)

/-- A CSR of island core `k`, but for CYCLE (16: R353). FCSR, CYCLE and INSTRET are there for its scalar instructions
(log 21). -/
def State.csrIsland (s : State) (k n : Nat) : Option Word :=
  let c := s.icore k
  if n = 0x000 then some c.fcsr
  else if n = 0x008 then some c.cycle
  else if n = 0x009 then some c.instret
  else if n = 0x100 then some c.kstat
  else if n = 0x101 then some c.ksp
  else if n = 0x102 then some c.kvt
  else if n = 0x103 then some c.kwhy
  else if n = 0x104 then some c.kaddr
  else if n = 0x105 then some (BitVec.ofNat 64 (s.kevt k))
  else if n = 0x106 then some c.kxlat
  else if n = 0x107 then some (s.region (k / 8)).ktime
  else if n = 0x108 then some c.ktcmp
  else none

def State.csr (s : State) (n : Nat) : Option Word :=
  match s.cur with
  | .tile k => s.csrTile k n
  | .island k => s.csrIsland k n

/-- CYCLE goes on by cycles the model does not count before it is read (05: R100; log 8). -/
def State.tick (s : State) : State :=
  let d := Config.idleCycles s.free
  match s.cur with
  | .tile k => { s.setCore k { s.core k with cycle := (s.core k).cycle + d } with free := s.free + 1 }
  | .island k => { s.setICore k { s.icore k with cycle := (s.icore k).cycle + d } with free := s.free + 1 }

/-- The CSR may be written (05: R100; 16: R353). -/
def State.csrWritable (s : State) (n : Nat) : Bool :=
  match s.cur with
  | .tile _ => n = 0x000 || n = 0x001 || n = 0x002
  | .island _ => n = 0x000 || n = 0x100 || n = 0x101 || n = 0x102 || n = 0x106 || n = 0x108

/-- The value may be written (05: R92, R101; 06: R126). -/
def csrAllows (n : Nat) (v : Word) : Bool :=
  if n = 0x000 then fcsrOk v else if n = 0x001 then viewOk 8192 v else if n = 0x002 then viewOk 12288 v else true

/-- Write a CSR; reserved bits are dropped (05: R101, R102; 16: R353). -/
def State.setCsr (s : State) (n : Nat) (v : Word) : State :=
  match s.cur with
  | .tile k =>
    let c := s.core k
    if n = 0x000 then s.setCore k { c with fcsr := fcsrMask v }
    else if n = 0x001 then s.setCore k { c with vbase := v &&& 0x3FFF }
    else if n = 0x002 then s.setCore k { c with abase := v &&& 0x3FFF }
    else s
  | .island k =>
    let c := s.icore k
    if n = 0x000 then s.setICore k { c with fcsr := fcsrMask v }
    else if n = 0x100 then s.setICore k { c with kstat := (c.kstat &&& ~~~3) ||| (v &&& 3) }
    else if n = 0x101 then s.setICore k { c with ksp := v &&& ~~~63 }
    else if n = 0x102 then s.setICore k { c with kvt := v &&& ~~~4095 }
    else if n = 0x106 then s.setICore k { c with kxlat := v }
    else if n = 0x108 then s.setICore k { c with ktcmp := v }
    else s

/-- An island core is in S mode (16: R353). -/
def State.supervisor (s : State) (k : Nat) : Bool := bit (s.icore k).kstat 0

/-- CSR instructions run on tile cores, and on island cores in S mode (16: R352). -/
def State.csrMode (s : State) (go : State → State) : State :=
  match s.cur with
  | .tile _ => go s
  | .island k => if s.supervisor k then go s else s.illegal

/-- Every operation issued before has delivered its flags (06: R127). -/
def State.flagsIn (s : State) : Bool :=
  match s.cur with
  | .tile k => (s.opsOf k).isEmpty
  | .island _ => true

/-- CSRW, CSRS and CSRC (06: R126): number, access, new value, in this order. -/
def State.csrUpdate (s : State) (n : Nat) (ra rd : Reg) (f : Word → Word → Word) : State :=
  s.csrMode fun s =>
    if (s.csr n).isNone || !s.csrWritable n then s.illegal
    else s.sources false .a [ra.toNat] fun s =>
      if n = 0x000 && !s.flagsIn then s.block .flags
      else
        let old := (s.csr n).getD 0
        let new := f old (s.reg ra.toNat)
        if !csrAllows n new then s.illegal
        else s.destination rd.toNat fun s => (s.setCsr n new).finish 4 rd.toNat old 0

def execCsrr (csr : BitVec 9) (rd : Reg) (s : State) : Out :=
  .next (s.csrMode fun s =>
    if (s.csr csr.toNat).isNone then s.illegal
    else s.destination rd.toNat fun s =>
      let s := if csr.toNat = 0x008 then s.tick else s
      s.finish 4 rd.toNat ((s.csr csr.toNat).getD 0) 0)
def execCsrw (csr : BitVec 9) (ra rd : Reg) (s : State) : Out :=
  .next (s.csrUpdate csr.toNat ra rd fun _ v => v)
def execCsrs (csr : BitVec 9) (ra rd : Reg) (s : State) : Out :=
  .next (s.csrUpdate csr.toNat ra rd fun old v => old ||| v)
def execCsrc (csr : BitVec 9) (ra rd : Reg) (s : State) : Out :=
  .next (s.csrUpdate csr.toNat ra rd fun old v => old &&& ~~~v)

end Sys2Proof.Machine
end

