-- ==== Sys2Proof/Machine/Operands.lean ====
section
/-! DEFINITION. Memory operands of tile cores: the windows of the core address map (10: R191, R192), what each kind of
instruction may name, home scopes (15: R310, R311), views of the sheet (05: R91), and watchpoints (17: R369-R371). -/

namespace Sys2Proof.Machine

/-! ### Windows -/

/-- What a core address names (10: R191). `spad` is the own cluster's scratchpad, under either of its windows. -/
inductive Target where
  | tcm (off : Nat)
  | spad (off : Nat)
  | cluster (pos off : Nat)
  | sram (r off : Nat)
  | virt (va : Nat)
  deriving DecidableEq, Repr

/-- The region is in the core's partition: the mask that the island keeps in the cluster (10: R191). -/
def State.inPartition (s : State) (p r : Nat) : Bool := decide (r < 48) && bit (BitVec.ofNat 64 ((s.cluster p).partMask).toNat) r

/-- The window of one address of a core at position `p` (10: R191); none outside every window. -/
def State.window (s : State) (p : Nat) (a : Word) : Option Target :=
  let n := a.toNat
  if n < 0x10000 then some (.tcm n)
  else if 0x100000 ≤ n && n < 0x200000 then some (.spad (n - 0x100000))
  else if 0x10000000000 ≤ n && n < 0x10400000000 then
    let q := posOf (bits a 20 7) (bits a 27 7)
    if 96 ≤ bits a 27 7 || isIsland q || !s.inPartition p (regionOf q) then none
    else if q = p then some (.spad (bits a 0 20)) else some (.cluster q (bits a 0 20))
  else if 0x20000000000 ≤ n && n < 0x20040000000 then
    if s.inPartition p (bits a 24 6) then some (.sram (bits a 24 6) (bits a 0 24)) else none
  else if isTranslated a then some (.virt (bits a 0 48))
  else none

/-- The own scratchpad's address that an address of its other window names (10: R191); any other address as it is. -/
def State.own (s : State) (p : Nat) (a : Word) : Word :=
  match s.window p a with
  | some (.spad o) => BitVec.ofNat 64 (0x100000 + o)
  | _ => a

/-- Kinds of instruction by the windows they may name (10: R203-R209; 15: R320, R322). -/
inductive Use where
  | load | store | atomic | block
  | localLoad | localStore | localBits
  deriving DecidableEq, Repr

/-- The use may name the byte (10: R77, R192, R205-R209; 15: R322). -/
def Use.ok : Use → Target → Bool
  | .load, .sram _ o => decide (o < 0xF00400)
  | .load, _ => true
  | .store, .tcm o => decide (o < 0x780) || decide (0x800 ≤ o)
  | .store, .sram _ o => decide (o < 0xF00000)
  | .store, _ => true
  | .atomic, .tcm o => decide (0x800 ≤ o)
  | .atomic, .sram _ o => decide (o < 0xF00000)
  | .atomic, _ => true
  | .block, .tcm _ => false
  | .block, .sram _ o => decide (o < 0xF00000)
  | .block, _ => true
  | .localLoad, .tcm _ => true
  | .localLoad, .spad _ => true
  | .localLoad, _ => false
  | .localStore, .tcm o => decide (o < 0x780) || decide (0x800 ≤ o)
  | .localStore, .spad _ => true
  | .localStore, _ => false
  | .localBits, .tcm o => decide (0x800 ≤ o)
  | .localBits, .spad _ => true
  | .localBits, _ => false

/-- The windows are the same one, for the first and the last byte of an access (10: R203). -/
def Target.sameWindow : Target → Target → Bool
  | .tcm _, .tcm _ => true
  | .spad _, .spad _ => true
  | .cluster _ _, .cluster _ _ => true
  | .spad _, .cluster _ _ => true
  | .cluster _ _, .spad _ => true
  | .sram _ _, .sram _ _ => true
  | .virt _, .virt _ => true
  | _, _ => false

/-- The bytes of a range between 0x0780 and 0x0800 of TCM are avoided by a store whose ends avoid them
(04: R77). -/
def Use.spans : Use → Target → Target → Bool
  | .store, .tcm a, .tcm b => !(decide (a < 0x780) && decide (0x800 ≤ b))
  | .localStore, .tcm a, .tcm b => !(decide (a < 0x780) && decide (0x800 ≤ b))
  | _, _, _ => true

/-- What `n` bytes from an address name, or none for BAD_ADDRESS (10: R203, step 3). -/
def State.operand (s : State) (p : Nat) (a : Word) (n : Nat) (u : Use) : Option Target :=
  if n = 0 || 2 ^ 64 < a.toNat + n then none
  else match s.window p a, s.window p (a + BitVec.ofNat 64 (n - 1)) with
    | some t, some e => if t.sameWindow e && u.ok t && u.ok e && u.spans t e then some t else none
    | _, _ => none

/-- Home address of a target that the core's own cluster serves (log 4). -/
def Target.home (k : Nat) : Target → Option Nat
  | .tcm o => some (tcmHome k + o)
  | .spad o => some (spadHome (corePos k) + o)
  | _ => none

/-- A wafer of the own wafer's pod, by the table of the pods (01: R22; 18: R383). -/
def Fabric.inPod (f : Fabric) (w : Nat) : Bool :=
  (f.pods.any fun e => e.1 = w) && Tab.get 0 f.pods w = Tab.get 0 f.pods f.wafer

/-- The scope of a physical address: edge memory `.waf`, host memory `.host`, another wafer `.pod` within the pod and
`.fab` otherwise (15: R310, R311). -/
def State.physScope (s : State) (pa : Nat) : Nat :=
  if pa < 0x2000000000000 then 5
  else if pa < 0x8000000000000 then (if s.fabric.inPod (waferOf pa) then 7 else 8)
  else 6

/-- Home scope of a target (15: R311). A translated access that maps nothing counts as edge memory. -/
def State.homeScope (s : State) (p : Nat) : Target → Nat
  | .tcm _ => 1
  | .spad _ => 2
  | .cluster q _ => if regionOf q = regionOf p then 3 else 4
  | .sram r _ => if r = regionOf p then 3 else 4
  | .virt va => match s.walk (s.partOf (regionOf p)).root va with
    | .ok g => s.physScope (g.pa + va % 2 ^ g.size)
    | .error _ => 5

/-- The memory that holds a target: a destination of R314, as a number. -/
def Target.dest (k : Nat) : Target → Nat
  | .tcm _ => tcmHome k
  | .spad _ => spadHome (corePos k)
  | .cluster q _ => spadHome q
  | .sram r _ => sramHome r
  | .virt va => va / 4096

/-! ### Views (05: R91) -/

/-- Byte of register space of vector register `n` under a base. -/
def vbyte (vbase n : Nat) : Nat := vbase + 256 * n
/-- Byte of register space of accumulator tile `n` under a base. -/
def abyte (abase n : Nat) : Nat := abase + 1024 * n

/-- Bytes of register space. -/
def RegSpace.bytes (g : RegSpace) (b n : Nat) : List Byte :=
  (span b n).map fun i => BitVec.ofNat 8 ((g.word (i / 8)).toNat / 2 ^ (8 * (i % 8)))


/-! ### Watchpoints (17: R369-R371) -/

/-- The hub's ring of hit records in region SRAM (17: R371). -/
def State.hitRecord (s : State) (p wp kind : Nat) (src addr value : Word) : State :=
  let base := sramHome (regionOf p)
  let n := s.readMem (base + 0xF02008) 4
  let s := s.writeMem (base + 0xF84000 + 32 * (n % 512))
    (bytesOf [fields [(0, wp), (4, kind), (8, posX p), (15, posY p)], src, addr, value])
  s.writeMem (base + 0xF02008) (toBytes 4 ((n + 1) % 2 ^ 32))

/-- The cluster is under a stop of any kind (17: R359). -/
def Cluster.underStop (c : Cluster) : Bool := c.soft || !c.hardTags.isEmpty || !c.clusterStops.isEmpty

/-- One watch has matched: it counts, reports and acts (17: R370). ACTION 2 and 3 wait for WATCHPOINT_STOP; under a stop
they start none (17: R366, R395). -/
def State.hit (s : State) (p wp kind : Nat) (src addr value : Word) (core : Option Nat) : State :=
  let c := s.cluster p
  let w := Tab.get 0 c.wp wp
  let hits := bits w 24 20
  let w' := if hits = 0xFFFFF then w else w + (1#64 <<< 24)
  let act := bits w 60 3
  let stops := if c.underStop then c.pendStops
    else if act = 2 then c.pendStops ++ [(2, bits w 44 8)] else if act = 3 then c.pendStops ++ [(3, 0)] else c.pendStops
  let s := s.setCluster p { c with wp := Tab.put c.wp wp w', pendStops := stops }
  let s := s.hitRecord p wp kind src addr value
  match core with
  | some k =>
    if act = 1 then
      let d := s.core k
      s.setCore k { d with due := d.due ++ [{ kind := 4, cause := cWATCHPOINT, addr := addr }] }
    else s
  | none => s

/-- A data watch matches (17: R369, R370): `kinds` are the KINDS bits the access matches, `space` 0 scratchpad or
1 TCM of core `own`. -/
def watches (w : Word) (kinds : List Nat) (space own off n : Nat) : Bool :=
  let a := bits w 3 21 * 8
  bit w 63 && !bit w 59 && kinds.any (fun i => bit w i) && bits w 54 1 = space &&
    (space = 0 || bits w 52 2 = own) && decide (a < off + n) && decide (off < a + 8)

/-- A number put in its place by a key. -/
def insertBy (key : Nat → Nat) (i : Nat) : List Nat → List Nat
  | [] => [i]
  | j :: t => if key i ≤ key j then i :: j :: t else j :: insertBy key i t

/-- The bank of the word that a data watch names, for the scratchpad; the word itself in TCM (10: R193). -/
def watchBank (space : Nat) (w : Word) : Nat := if space = 0 then bits w 3 9 else bits w 3 21

/-- An access of a core of the cluster, or a served request, meets the cluster's data watches, in bank order (17: R370);
`home` is where its space begins. -/
def State.watch (s : State) (p space own home off n : Nat) (kinds : List Nat) (kind : Nat) (src addr : Word)
    (core : Option Nat) : State :=
  let wp (i : Nat) : Word := Tab.get 0 (s.cluster p).wp i
  let met := (span 0 9).filter fun i => watches (wp i) kinds space own off n
  (met.foldr (insertBy fun i => watchBank space (wp i)) []).foldl (fun s i =>
    s.hit p i kind src addr (s.readWord (home + 8 * bits (wp i) 3 21)) core) s

/-- The core of a watch is core `c` of the cluster, or its second core where the two are a pair: it does the same
(16: R347). -/
def Core.twins (d : Core) (c own : Nat) : Bool := own = c || (d.pair == .first && own = c + 1)

/-- A core's own access meets the watches: 0 load, 1 store, 4 atomic (17: R370). Each core of a pair accesses its own
TCM, with the same bytes (16: R347; log 62). -/
def State.watchLocal (s : State) (k : Nat) (t : Target) (n kind : Nat) (addr : Word) : State :=
  let kb := if kind = 4 then 58 else 55 + kind
  let src (c : Nat) : Word := fields [(14, c)]
  let tcm (s : State) (c o : Nat) : State := s.watch (corePos k) 1 c (tcmHome k) o n [kb] kind (src c) addr (some k)
  match t with
  | .tcm o =>
    let s := tcm s (coreNo k) o
    if (s.core k).pair = .first then tcm s (coreNo k + 1) o else s
  | .spad o => s.watch (corePos k) 0 0 (spadHome (corePos k)) o n [kb] kind (src (coreNo k)) addr (some k)
  | _ => s

end Sys2Proof.Machine
end

