-- ==== Sys2Proof/Machine/LoadStore.lean ====
section
/-! DEFINITION. Loads and stores (10: R203-R209; 15: R314), on tile cores and on island cores (16: R352). A store
enters the store buffer; memory changes when the buffer releases it (Order.lean). -/

namespace Sys2Proof.Machine

/-! ### Order (15: R313, R314, R320, R321) -/

def Slot.isLoad (l : Slot) : Bool := l.acc.kind = 0 || l.acc.kind = 2 || l.acc.kind = 6
def Slot.isAtomic (l : Slot) : Bool := l.acc.kind = 3 || l.acc.kind = 4 || l.acc.kind = 5

def Core.inUse (c : Core) : List Slot := c.slots.filterMap id

/-- A later access of a home scope waits for the access as an acquire: an LDACQ (15: R320), an acquiring atomic
(15: R321). -/
def Slot.acquires (l : Slot) (home : Nat) : Bool :=
  (l.acc.kind = 6 && decide (home ≤ l.acc.scope)) || (l.isAtomic && l.acc.ord % 2 = 1 && decide (home ≤ l.home))

/-- Scope of a send's destination, of a cluster at position `p` (15: R311). -/
def sendScope (p : Nat) (hdr : Word) : Nat :=
  let d := destPos hdr
  if d = p then 2 else if regionOf d = regionOf p then 3 else 4

/-- A send within a scope that the local router has not taken (09: R175; 15: R317). -/
def State.sendsOut (s : State) (k scope : Nat) : Bool :=
  let c := s.core k
  (c.sendq ++ c.sends).any (fun e => decide (sendScope (corePos k) e.hdr ≤ scope)) ||
  c.held.any fun h => match h with
    | .send e => decide (sendScope (corePos k) e.hdr ≤ scope)
    | .store _ => false

/-- Words of a streaming STV, and what a checkpoint lets go, enter as entries free (15: R314; 16: R349). -/
def Core.refill (c : Core) : Core :=
  let n := 16 - c.sbuf.length
  let m := 4 - c.sendq.length
  { c with
    sbuf := c.sbuf ++ takeN n c.stream, stream := dropN n c.stream
    sendq := c.sendq ++ takeN m c.sends, sends := dropN m c.sends }

/-- Every store the core has made that has not left for its home, oldest first. -/
def Core.buffered (c : Core) : List Buffered :=
  c.sbuf ++ c.stream ++ c.held.filterMap fun h => match h with
    | .store b => some b
    | .send _ => none

/-- Accesses whose request failed and whose D cause is due or taken: they are performed only once the island has them
issued again (09: R186; 16: R338). -/
def Core.failed (c : Core) : List Slot :=
  ((c.due ++ (c.trapped.map Trapped.due).toList).filter fun d => d.kind = 1).map Due.slot

/-- Accesses that have left the core and are not over. -/
def Core.accesses (c : Core) : List Slot := c.inUse ++ c.failed

/-- A later access of a home scope must wait for an earlier one: a region atomic (R314, step 6), an LDACQ (R320), an
acquiring atomic (R321). -/
def Core.acquiring (c : Core) (home : Nat) : Bool :=
  c.accesses.any fun l => !l.performed &&
    ((l.isAtomic && decide (l.home ≤ 3) && decide (home ≤ 3)) || l.acquires home)

/-- An LDFE has not been performed: it is an acquire that no later load or store of the core comes before (10: R205;
14: R294). `seq` is the later access. -/
def State.ldfeBefore (s : State) (k seq : Nat) : Bool :=
  (s.opsOf k).any fun o => decide (o.seq < seq) && match o.instr with
    | .ldfe _ _ => true
    | _ => false

/-- An access that core `k` issues now waits for an earlier acquire. -/
def State.acquiring (s : State) (k home : Nat) : Bool :=
  let c := s.core k
  c.acquiring home || s.ldfeBefore k c.nextSeq

/-- A load that the own cluster serves waits for earlier region loads (R314, step 4). -/
def Core.loadsOut (c : Core) : Bool := c.accesses.any fun l => !l.performed && l.isLoad && decide (l.home ≤ 3)

/-- A mask of bits `lo … lo + n − 1` of a word. -/
def maskOf (lo n : Nat) : Word := BitVec.ofNat 64 ((2 ^ n - 1) * 2 ^ lo)

/-- The bits of every byte in which a mask has one. -/
def wholeBytes (m : Word) : Word :=
  (span 0 8).foldl (fun a i => if bits m (8 * i) 8 = 0 then a else a ||| maskOf (8 * i) 8) 0

/-- How buffered stores meet a read of some bits of a word (R314, step 5): all of them buffered; some, or other bits of
the same bytes; none. -/
inductive Forward where
  | all (v : Word)
  | part
  | none
  deriving DecidableEq, Repr

def forward (bs : List Buffered) (word need : Word) : Forward :=
  let mine := bs.filter fun b => b.word = word && wholeBytes b.mask &&& wholeBytes need ≠ 0#64
  if mine.isEmpty then .none
  else
    let got := mine.foldl (fun m b => m ||| b.mask) (0 : Word)
    if need &&& ~~~got ≠ 0#64 then .part
    else .all (mine.foldl (fun v b => (v &&& ~~~b.mask) ||| (b.data &&& b.mask)) (0 : Word))

/-- How buffered stores meet a read of several pieces, each a word's name and its bits: none where the read must wait,
`some none` where it reads the home, else what the pieces read (15: R314, step 5). -/
def Core.meets (c : Core) (ps : List (Word × Word)) : Option (Option (List Word)) :=
  let fs := ps.map fun p => forward c.buffered p.1 p.2
  if fs.all fun f => f == Forward.none then some none
  else (fs.mapM fun f => match f with
    | Forward.all v => some v
    | _ => none).map some

/-- A read waits for buffered stores; in a pair that holds some, for the checkpoint that releases them (15: R314;
16: R349). -/
def State.blockOverlap (s : State) (k : Nat) : State :=
  s.block (if (s.core k).held.isEmpty then .overlap else .checkpoint)

/-- The buffer's name of the word of a target: its home where the own cluster serves it, else the core address. -/
def wordName (k : Nat) (t : Target) (a : Word) : Word :=
  match t.home k with
  | some h => BitVec.ofNat 64 (h / 8 * 8)
  | none => a &&& ~~~7

/-- Sends that a pair holds until its checkpoint (16: R349). -/
def Core.heldSends (c : Core) : List SendEntry :=
  c.held.filterMap fun h => match h with
    | .store _ => none
    | .send e => some e

/-- A queued send has still to read a byte of the range (09: R175). -/
def State.sendReads (s : State) (k : Nat) (t : Target) (n : Nat) : Bool :=
  match t.home k with
  | none => false
  | some h =>
    ((s.core k).sendq ++ (s.core k).sends ++ (s.core k).heldSends).any fun e =>
      e.snap.isNone && (
        let lo := e.addr - BitVec.ofNat 64 (8 * ((e.pcnt + 1) / 2))
        let len := e.len + 8 * ((e.pcnt + 1) / 2)
        match (s.window (corePos k) lo).bind (Target.home k) with
        | some g => decide (g < h + n) && decide (h < g + len)
        | none => false)

/-- A store waits for the port; in a pair that holds a send, for the checkpoint that hands it to the port (09: R175;
16: R349). -/
def State.blockSend (s : State) (k : Nat) : State :=
  s.block (if (s.core k).heldSends.isEmpty then .sendRange else .checkpoint)

/-! ### Requests (09: R181-R184) -/

/-- SIZE of a request (09: R182). It has no code for the 64 bytes of a FILL, which carries 7 (DESIGN CHOICE; unsafe;
log 146). -/
def sizeCode (n : Nat) : Nat := if n = 1 then 0 else if n = 2 then 1 else if n = 4 then 2 else if n = 8 then 3 else 7

/-- Where a request of core `k` goes: the cluster, the island of the SRAM, the own island (09: R181). -/
def Target.server (k : Nat) : Target → Nat
  | .cluster q _ => q
  | .sram r _ => islandPos r
  | .virt _ => islandPos (regionOf (corePos k))
  | _ => corePos k

/-- Payload of a request (09: R182). -/
def Access.body (x : Access) : List Byte :=
  match x.kind with
  | 1 | 7 => toBytes x.n x.d1.toNat
  | 3 | 5 => toBytes 8 x.d1.toNat
  | 4 => if x.op % 2 = 1 then toBytes 8 x.d1.toNat ++ toBytes 8 x.d2.toNat else toBytes 8 x.d1.toNat
  | _ => []

/-- The VC2 message of a request (09: R182). -/
def requestMsg (x : Access) (slot fills dest : Nat) : Msg :=
  { vc := 2
    w0 := header0 dest 0 2 x.kind x.body.length 0
    w2 := x.addr
    w3 := fields [(0, slot), (3, fills), (8, sizeCode x.n), (11, x.op), (14, x.ord), (16, x.scope)]
    body := x.body }

/-- Lowest-numbered free slot (09: R184). -/
def Core.freeSlot (c : Core) : Option Nat := (span 0 8).find? fun i => (nth none c.slots i).isNone

/-- Take a slot and send the request; the destination words are owed (09: R184; 05: R94). -/
def State.request (s : State) (k i : Nat) (l : Slot) (t : Target) : State :=
  let c := s.core k
  let ws := wordsCovering l.dst l.len
  let c : Core := { c with slots := setNth c.slots i (some { l with seq := c.nextSeq }), nextSeq := c.nextSeq + 1,
                           reg := RegSpace.overRanges RegSpace.owe c.reg [ws] }
  (s.setCore k c).injectCore k (requestMsg l.acc i 0 (t.server k))

/-! ### Tile loads -/

/-- The value of a load: zero- or sign-extended (10: R204). -/
def extend (signed : Bool) (n v : Nat) : Word := if signed then sextWord v (8 * n) else BitVec.ofNat 64 (v % 2 ^ (8 * n))

/-- The core's own cluster performs a load of a target with home `h` (15: R313, R314, R320; 10: R190): `ps` the words it
reads, by home and bits, `n` its bytes from `h`. `go` gets the words, each under its bits. -/
def State.localRead (s : State) (k : Nat) (t : Target) (a : Word) (h n : Nat) (ps : List (Nat × Word))
    (go : State → List Word → State) : State :=
  let c := s.core k
  if s.acquiring k (s.homeScope (corePos k) t) then s.block .order
  else match c.meets (ps.map fun p => (BitVec.ofNat 64 p.1, p.2)) with
    | none => s.blockOverlap k
    | some (some vs) => go s vs
    | some none =>
      if c.loadsOut then s.block .order
      else if s.badAt h n then s.trap { code := cUNCORR_ECC, addr := a }
      else go ((s.countEcc (regionOf (corePos k)) h n).watchLocal k t n 0 a) (ps.map fun p => s.readWord p.1)

/-- Whole words from a home on. -/
def wholeWords (h n : Nat) : List (Nat × Word) := (span 0 n).map fun i => (h + 8 * i, BitVec.allOnes 64)

/-- A load of `n` bytes into rd (10: R203, R204; 15: R314, R320): `acq` the scope of an LDACQ. -/
def State.tileLoad (s : State) (k len n : Nat) (signed : Bool) (acq : Option Nat) (a : Word) (rd : Nat) : State :=
  let p := corePos k
  match s.operand p a n .load with
  | none => s.trap { code := cBAD_ADDRESS, addr := a }
  | some t =>
    if a.toNat % n ≠ 0 then s.trap { code := cMISALIGNED, addr := a }
    else s.destination rd fun s =>
      let c := s.core k
      let lo := 8 * (a.toNat % 8)
      let need := maskOf lo (8 * n)
      if s.acquiring k (s.homeScope p t) then s.block .order
      else match forward c.buffered (wordName k t a) need with
        | .part => s.blockOverlap k
        | .all v => s.finish len rd (extend signed n (v.toNat / 2 ^ lo)) 0
        | .none =>
          match t.home k with
          | some h =>
            if c.loadsOut then s.block .order
            else if s.badAt h n then s.trap { code := cUNCORR_ECC, addr := a }
            else
              let v := s.readMem h n
              let s := (s.countEcc (regionOf p) h n).watchLocal k t n 0 a
              s.finish len rd (extend signed n v) 0
          | none =>
            match c.freeSlot with
            | none => s.block .slot
            | some i =>
              let x : Access :=
                { kind := if acq.isSome then 6 else 0, addr := a, n := n, ord := b2n acq.isSome, scope := acq.getD 0 }
              let l : Slot := { acc := x, pc := c.pc, home := s.homeScope p t, dest := t.dest k
                                dst := 8 * rd, len := 8, signed := signed }
              (s.request k i l t).retire len

/-! ### Tile stores -/

/-- Entries the store buffer can take (15: R314, step 1). -/
def Core.room (c : Core) : Nat := if c.stream.isEmpty then 16 - c.sbuf.length else 0

/-- Put entries at the end of the store buffer, or of what a lockstep pair holds (15: R314; 16: R349). -/
def State.enqueue (s : State) (k : Nat) (bs : List Buffered) : State :=
  let c := s.core k
  let tag (n : Nat) (b : Buffered) : Buffered := { b with seq := n }
  let bs := bs.zipIdx.map fun b => tag (c.nextSeq + b.2) b.1
  let c : Core := { c with nextSeq := c.nextSeq + bs.length }
  if c.pair = .first then s.setCore k { c with held := c.held ++ bs.map Held.store }
  else s.setCore k { c with sbuf := c.sbuf ++ bs }

/-- A store that needs `n` entries waits for them, and in a pair for the checkpoint that a 33rd held one takes
(15: R314; 16: R349). -/
def State.withRoom (s : State) (k n : Nat) (go : State → State) : State :=
  let c := s.core k
  if c.pair = .first then (if 32 < c.held.length + n then s.block .checkpoint else go s)
  else if c.room < n then s.block .storeBuffer else go s

/-- The buffered form of a store of `n` bytes within one aligned word. -/
def State.entry (s : State) (k : Nat) (t : Target) (a : Word) (n : Nat) (v : Word) : Buffered :=
  let lo := 8 * (a.toNat % 8)
  { acc := { kind := 1, addr := a, n := n, d1 := v &&& maskOf 0 (8 * n) }
    pc := (s.core k).pc
    word := wordName k t a
    mask := maskOf lo (8 * n)
    data := (v &&& maskOf 0 (8 * n)) <<< lo
    homeAt := (t.home k).map fun h => h / 8 * 8
    home := s.homeScope (corePos k) t
    dest := t.dest k }

/-- A store of `n` bytes of register rd, which is read after the checks of the address (10: R203, R204; 15: R314, R320):
`rel` the scope of a STREL. -/
def State.tileStore (s : State) (k len n : Nat) (rel : Option Nat) (a : Word) (rd : Nat) : State :=
  match s.operand (corePos k) a n .store with
  | none => s.trap { code := cBAD_ADDRESS, addr := a }
  | some t =>
    if a.toNat % n ≠ 0 then s.trap { code := cMISALIGNED, addr := a }
    else s.sources false .m [rd] fun s =>
      if s.sendReads k t n then s.blockSend k
      else s.withRoom k 1 fun s =>
        let e := s.entry k t a n (s.reg rd)
        let e := match rel with
          | some z => { e with rel := some z, acc := { e.acc with kind := 7, ord := 2, scope := z } }
          | none => e
        (s.enqueue k [e]).retire len

/-! ### Island accesses (16: R352; 15: R327) -/

/-- Home of `n` bytes at an address of an island core: physical in S mode, translated in U mode. -/
def State.islandHome (s : State) (k : Nat) (a : Word) (n : Nat) (w : Want) : Except Nat Nat :=
  let phys (pa : Nat) : Except Nat Nat :=
    match physHome pa, physHome (pa + n - 1) with
    | some h, some _ => if s.badAt h n && w != .write then .error cUNCORR_ECC else .ok h
    | _, _ => .error cBAD_ADDRESS
  if s.supervisor k then (if a.toNat % n ≠ 0 && (physHome a.toNat).isSome then .error cMISALIGNED else phys a.toNat)
  else if bits a 48 16 ≠ 0 then .error cBAD_ADDRESS
  else if a.toNat % n ≠ 0 then .error cMISALIGNED
  else match s.translate (bits (s.icore k).kxlat 12 52 * 4096) a.toNat w with
    | .ok pa => phys pa
    | .error c => .error c

/-- A tile access finds the line clean at its home (15: R327). -/
def State.clean (s : State) (a n : Nat) : State :=
  { s with dirtyHome := s.dirtyHome.filter fun c => !(decide (a / 64 * 64 ≤ c.1) && decide (c.1 < (a + n + 63) / 64 * 64)) }

/-- Home scope of what island core `k` accesses (15: R311). -/
def State.islandScope (s : State) (k h : Nat) : Nat :=
  if sramHome 0 ≤ h && decide (h < sramHome 48) then (if (h - sramHome 0) / 2 ^ 24 = k / 8 then 3 else 4) else s.physScope h

/-- The page tables have been read for an address of an island core in U mode (10: R190; 16: R352). -/
def State.countXlat (s : State) (k : Nat) (a : Word) : State :=
  if s.supervisor k || bits a 48 16 ≠ 0 then s else s.countRoot (k / 8) (bits (s.icore k).kxlat 12 52 * 4096) a.toNat

def State.islandLoad (s : State) (k len n : Nat) (signed : Bool) (a : Word) (rd : Nat) : State :=
  match s.islandHome k a n .read with
  | .error c => (s.countXlat k a).trap { code := c, addr := a }
  | .ok h =>
    let lo := 8 * (h % 8)
    match forward (s.icore k).sbuf (BitVec.ofNat 64 (h / 8 * 8)) (maskOf lo (8 * n)) with
    | .part => s.block .overlap
    | .all v => (s.countXlat k a).finish len rd (extend signed n (v.toNat / 2 ^ lo)) 0
    | .none => ((s.countXlat k a).countEcc (k / 8) h n).finish len rd (extend signed n (s.readMem h n)) 0

def State.islandStore (s : State) (k len n : Nat) (a v : Word) : State :=
  match s.islandHome k a n .write with
  | .error c => (s.countXlat k a).trap { code := c, addr := a }
  | .ok h =>
    let c := s.icore k
    if 16 ≤ c.sbuf.length then s.block .storeBuffer
    else
      let s := s.countXlat k a
      let lo := 8 * (h % 8)
      let e : Buffered :=
        { acc := { kind := 1, addr := a, n := n, d1 := v }, pc := c.pc, word := BitVec.ofNat 64 (h / 8 * 8),
          mask := maskOf lo (8 * n), data := (v &&& maskOf 0 (8 * n)) <<< lo, homeAt := some (h / 8 * 8),
          seq := c.nextSeq, home := s.islandScope k h }
      (s.setICore k { c with sbuf := c.sbuf ++ [e], nextSeq := c.nextSeq + 1 }).retire len

/-- A write of a core of the owning cluster drops the cached copies of records it meets (12: R239). -/
def State.uncache (s : State) (p h n : Nat) : State :=
  let c := s.cluster p
  if c.chans.isEmpty then s
  else s.setCluster p { c with chans := c.chans.map fun e =>
    (e.1, { e.2 with cache := e.2.cache.filter fun r => !(decide (r.1 < h + n) && decide (h < r.1 + 64)) }) }

/-! ### The instructions -/

/-- A load at a base register and an offset (10: R204). -/
def State.load (s : State) (len n : Nat) (signed : Bool) (off : Word) (ra rd : Nat) : State :=
  s.sources false .m [ra] fun s =>
    let a := s.reg ra + off
    match s.cur with
    | .tile k => s.tileLoad k len n signed none a rd
    | .island k => s.islandLoad k len n signed a rd

/-- A store at a base register and an offset (10: R204). -/
def State.store (s : State) (len n : Nat) (off : Word) (ra rd : Nat) : State :=
  s.sources false .m [ra] fun s =>
    let a := s.reg ra + off
    match s.cur with
    | .tile k => s.tileStore k len n none a rd
    | .island k => s.islandStore k len n a (s.reg rd)

def execLdb (imm : BitVec 9) (ra rd : Reg) (s : State) : Out := .next (s.load 4 1 true (simm imm) ra.toNat rd.toNat)
def execLdbu (imm : BitVec 9) (ra rd : Reg) (s : State) : Out := .next (s.load 4 1 false (simm imm) ra.toNat rd.toNat)
def execLdh (imm : BitVec 9) (ra rd : Reg) (s : State) : Out := .next (s.load 4 2 true (simm imm) ra.toNat rd.toNat)
def execLdhu (imm : BitVec 9) (ra rd : Reg) (s : State) : Out := .next (s.load 4 2 false (simm imm) ra.toNat rd.toNat)
def execLdw (imm : BitVec 9) (ra rd : Reg) (s : State) : Out := .next (s.load 4 4 true (simm imm) ra.toNat rd.toNat)
def execLdwu (imm : BitVec 9) (ra rd : Reg) (s : State) : Out := .next (s.load 4 4 false (simm imm) ra.toNat rd.toNat)
def execLdd (imm : BitVec 9) (ra rd : Reg) (s : State) : Out := .next (s.load 4 8 false (simm imm) ra.toNat rd.toNat)
def execStb (imm : BitVec 9) (ra rd : Reg) (s : State) : Out := .next (s.store 4 1 (simm imm) ra.toNat rd.toNat)
def execSth (imm : BitVec 9) (ra rd : Reg) (s : State) : Out := .next (s.store 4 2 (simm imm) ra.toNat rd.toNat)
def execStw (imm : BitVec 9) (ra rd : Reg) (s : State) : Out := .next (s.store 4 4 (simm imm) ra.toNat rd.toNat)
def execStd (imm : BitVec 9) (ra rd : Reg) (s : State) : Out := .next (s.store 4 8 (simm imm) ra.toNat rd.toNat)

/-! ### Constant window (04: R77; 06: R112) -/

/-- A word of the core's constant window. -/
def State.kword (s : State) (k n : Nat) : Word := s.readWord (tcmHome k + 8 * n)

/-- A read of a word of the window: an ordinary load of it, but that no data watch is named for it (06: R112;
17: R370). -/
def State.kread (s : State) (k n : Nat) (go : State → Word → State) : State :=
  let c := s.core k
  let h := tcmHome k + 8 * n
  if s.acquiring k 1 then s.block .order
  else match forward c.buffered (BitVec.ofNat 64 h) (BitVec.allOnes 64) with
    | .part => s.blockOverlap k
    | .all v => go s v
    | .none =>
      if c.loadsOut then s.block .order
      else if s.badAt h 8 then s.trap { code := cUNCORR_ECC, addr := BitVec.ofNat 64 (8 * n) }
      else go (s.countEcc (regionOf (corePos k)) h 8) (s.kword k n)

/-- MOVK and ADDK: `v` from the word of the window. -/
def State.kform (s : State) (w : Bool) (n : Nat) (rs : List Nat) (rd : Nat) (v : State → Word → Word) : State :=
  s.onTile fun k => s.sources w .a rs fun s => s.destination rd fun s => s.kread k n fun s x => s.finish 4 rd (v s x) 0

def execMovk (w : BitVec 1) (k : BitVec 8) (rd : Reg) (s : State) : Out :=
  .next (s.kform (w = 1#1) k.toNat [] rd.toNat fun _ x => x)
def execAddk (w : BitVec 1) (k : BitVec 8) (ra rd : Reg) (s : State) : Out :=
  .next (s.kform (w = 1#1) k.toNat [ra.toNat] rd.toNat fun s x => s.reg ra.toNat + x)

/-! ### Vector words, bit fields -/

/-- LDV: 256 bytes into a vector register, by the core itself (10: R207). All its words are read in one step, where R194
makes each word alone atomic (DESIGN CHOICE; unsafe; log 145). -/
def execLdv (ra : Reg) (vn : VReg) (s : State) : Out :=
  .next (s.onTile fun k => s.sources false .m [ra.toNat] fun s =>
    let a := s.reg ra.toNat
    let c := s.core k
    let b := vbyte c.vbase.toNat vn.toNat
    match s.operand (corePos k) a 256 .localLoad with
    | none => s.trap { code := cBAD_ADDRESS, addr := a }
    | some t =>
      let h := (t.home k).getD 0
      if a.toNat % 8 ≠ 0 then s.trap { code := cMISALIGNED, addr := a }
      else if (span (b / 8) 32).any (fun w => s.writeWaits k w) then s.block (.owedWrite (b / 8))
      else s.localRead k t a h 256 (wholeWords h 32) fun s vs => (s.putWords k (b / 8) vs).retire 4)

/-- STV: 256 bytes of a vector register; its words follow one another into the store buffer (10: R207; 15: R314). -/
def execStv (ra : Reg) (vn : VReg) (s : State) : Out :=
  .next (s.onTile fun k => s.sources false .m [ra.toNat] fun s =>
    let a := s.reg ra.toNat
    let c := s.core k
    let b := vbyte c.vbase.toNat vn.toNat
    match s.operand (corePos k) a 256 .localStore with
    | none => s.trap { code := cBAD_ADDRESS, addr := a }
    | some t =>
      if a.toNat % 8 ≠ 0 then s.trap { code := cMISALIGNED, addr := a }
      else match (span (b / 8) 32).find? (fun w => c.reg.isEmpty w) with
        | some w => s.block (.regWord w)
        | none =>
          if s.sendReads k t 256 then s.blockSend k
          else
            let es := (span 0 32).map fun i =>
              let ai := a + BitVec.ofNat 64 (8 * i)
              s.entry k ((s.window (corePos k) ai).getD t) ai 8 (c.reg.word (b / 8 + i))
            if c.pair = .first then
              if c.held.length ≠ 0 then s.block .checkpoint else (s.enqueue k es).retire 4
            else if !(c.sbuf.isEmpty && c.stream.isEmpty) then s.block .storeBuffer
            else
              let s := s.enqueue k es
              let c := s.core k
              (s.setCore k { c with sbuf := takeN 16 c.sbuf, stream := dropN 16 c.sbuf }).retire 4)

/-- LDR: 128 bytes into half a vector register through a reply slot (10: R208). -/
def execLdr (ra : Reg) (h : BitVec 1) (vn : VReg) (s : State) : Out :=
  .next (s.onTile fun k => s.sources false .m [ra.toNat] fun s =>
    let a := s.reg ra.toNat
    let c := s.core k
    let b := vbyte c.vbase.toNat vn.toNat + 128 * h.toNat
    match s.operand (corePos k) a 128 .block with
    | none => s.trap { code := cBAD_ADDRESS, addr := a }
    | some t =>
      if a.toNat % 8 ≠ 0 || 4096 < a.toNat % 4096 + 128 then s.trap { code := cMISALIGNED, addr := a }
      else if (span (b / 8) 16).any (fun w => s.writeWaits k w) then s.block (.owedWrite (b / 8))
      else if s.acquiring k (s.homeScope (corePos k) t) then s.block .order
      else match c.meets ((span 0 16).map fun i => (wordName k t a + BitVec.ofNat 64 (8 * i), BitVec.allOnes 64)) with
        | none => s.blockOverlap k
        | some (some vs) => (s.putWords k (b / 8) vs).retire 4
        | some none =>
          match c.freeSlot with
          | none => s.block .slot
          | some i =>
            let l : Slot := { acc := { kind := 2, addr := a, n := 128 }, pc := c.pc, home := s.homeScope (corePos k) t
                              dest := t.dest k, dst := b, len := 128 }
            (s.request k i l t).retire 4)

/-- A bit field at a bit address: the words it lies in, with the low bit and the width in each (10: R209). -/
def bitPieces (b w : Nat) : List (Nat × Nat × Nat × Nat) :=
  let word := b / 64
  let lo := b % 64
  if lo + w ≤ 64 then [(8 * word, lo, w, 0)] else [(8 * word, lo, 64 - lo, 0), (8 * word + 8, 0, lo + w - 64, 64 - lo)]

/-- BITLD and BITST (10: R209): address checks, then `go` with the home of the first byte. -/
def State.bitOperand (s : State) (k : Nat) (b : Word) (w : Nat) (u : Use) (go : Target → Nat → State) : State :=
  let lo := b.toNat / 8
  let hi := (b.toNat + w - 1) / 8
  match s.operand (corePos k) (BitVec.ofNat 64 lo) (hi - lo + 1) u with
  | none => s.trap { code := cBAD_ADDRESS, addr := BitVec.ofNat 64 lo }
  | some t => go t ((t.home k).getD 0)

def execBitld (wm1 ra rd : BitVec 6) (s : State) : Out :=
  .next (s.onTile fun k => s.sources false .m [ra.toNat] fun s =>
    let b := s.reg ra.toNat
    let w := wm1.toNat + 1
    s.bitOperand k b w .localLoad fun t h => s.destination rd.toNat fun s =>
      let ps := bitPieces (8 * h + b.toNat % 8) w
      s.localRead k t (BitVec.ofNat 64 (b.toNat / 8)) h ((b.toNat % 8 + w + 7) / 8)
        (ps.map fun q => (q.1, maskOf q.2.1 q.2.2.1)) fun s vs =>
          let parts := (ps.zip vs).map fun q => bits q.2 q.1.2.1 q.1.2.2.1 * 2 ^ q.1.2.2.2
          s.finish 4 rd.toNat (BitVec.ofNat 64 (parts.foldl (· + ·) 0)) 0)

/-- BITST: one entry, or two that are released together (10: R209; 15: R314). Each names the bytes that it writes
(15: R318). -/
def execBitst (wm1 ra rd : BitVec 6) (s : State) : Out :=
  .next (s.onTile fun k => s.sources false .m [ra.toNat] fun s =>
    let b := s.reg ra.toNat
    let w := wm1.toNat + 1
    s.bitOperand k b w .localStore fun t h => s.sources false .m [rd.toNat] fun s =>
      let ps := bitPieces (8 * h + b.toNat % 8) w
      if s.sendReads k t ((b.toNat % 8 + w + 7) / 8) then s.blockSend k
      else s.withRoom k ps.length fun s =>
        let d := s.reg rd.toNat
        let es : List Buffered := ps.map fun q =>
          { acc := { kind := 1, addr := BitVec.ofNat 64 ((b.toNat + q.2.2.2) / 8),
                     n := (q.2.1 + q.2.2.1 - 1) / 8 - q.2.1 / 8 + 1 }
            pc := (s.core k).pc
            word := BitVec.ofNat 64 q.1, mask := maskOf q.2.1 q.2.2.1
            data := BitVec.ofNat 64 (bits d q.2.2.2 q.2.2.1 * 2 ^ q.2.1)
            homeAt := some q.1, home := s.homeScope (corePos k) t, dest := t.dest k
            linked := q.2.2.2 = 0 && ps.length = 2 }
        (s.enqueue k es).retire 4)

end Sys2Proof.Machine
end

