-- ==== Sys2Proof/Machine/FullEmpty.lean ====
section
/-! DEFINITION. Instructions on memory full/empty bits and on those of register space (10: R205, R206). -/

namespace Sys2Proof.Machine

/-- An 8-byte word of TCM from 0x800 or of the own scratchpad, aligned (10: R205, R206). -/
def State.bitWord (s : State) (k : Nat) (a : Word) (u : Use) (go : Target → Nat → State) : State :=
  match s.operand (corePos k) a 8 u with
  | none => s.trap { code := cBAD_ADDRESS, addr := a }
  | some t => if a.toNat % 8 ≠ 0 then s.trap { code := cMISALIGNED, addr := a } else go t ((t.home k).getD 0)

/-- The word has a store of the core that is still to come (15: R313). -/
def Core.storesTo (c : Core) (h : Nat) : Bool := c.buffered.any fun b => b.word = BitVec.ofNat 64 h

/-- LDS and LDE wait until the word is full and read it in one bank operation; `take` sets it empty
(10: R205, R206). -/
def State.waitLoad (s : State) (take : Bool) (off : Word) (ra rd : Nat) : State :=
  s.onTile fun k => s.sources false .m [ra] fun s =>
    let a := s.reg ra + off
    s.bitWord k a .localBits fun t h => s.destination rd fun s =>
      let c := s.core k
      if s.acquiring k (s.homeScope (corePos k) t) || c.loadsOut then s.block .order
      else if c.storesTo h then s.blockOverlap k
      else if s.memIsEmpty h then s.block (.memWord h)
      else if s.badAt h 8 then s.trap { code := cUNCORR_ECC, addr := a }
      else
        let v := s.readWord h
        let s := if take then s.setMemEmpty h else s
        ((s.countEcc (regionOf (corePos k)) h 8).watchLocal k t 8 0 a).finish 4 rd v 0

def execLds (imm : BitVec 9) (ra rd : Reg) (s : State) : Out := .next (s.waitLoad false (simm imm) ra.toNat rd.toNat)
def execLde (ra rd : Reg) (s : State) : Out := .next (s.waitLoad true 0 ra.toNat rd.toNat)

/-- STF: through the store buffer; data and bit change in one bank operation when it is released
(10: R206; 15: R314). -/
def execStf (ra rd : Reg) (s : State) : Out :=
  .next (s.onTile fun k => s.sources false .m [ra.toNat] fun s =>
    let a := s.reg ra.toNat
    s.bitWord k a .localBits fun t _ => s.sources false .m [rd.toNat] fun s =>
      if s.sendReads k t 8 then s.blockSend k
      else s.withRoom k 1 fun s =>
        (s.enqueue k [{ s.entry k t a 8 (s.reg rd.toNat) with setFull := true }]).retire 4)

/-- SETF is a release at `.clu`: the core's earlier stores to TCM and scratchpad come first (10: R206). -/
def execSetf (ra : Reg) (s : State) : Out :=
  .next (s.onTile fun k => s.sources false .m [ra.toNat] fun s =>
    let a := s.reg ra.toNat
    s.bitWord k a .localBits fun _ h =>
      let c := s.core k
      if c.buffered.any (fun b => decide (b.home ≤ 2)) || c.loadsOut then s.block .performed
      else (s.setMemFull h).retire 4)

def execSete (ra : Reg) (s : State) : Out :=
  .next (s.onTile fun k => s.sources false .m [ra.toNat] fun s =>
    let a := s.reg ra.toNat
    s.bitWord k a .localBits fun _ h =>
      if (s.core k).storesTo h then s.block .overlap else (s.setMemEmpty h).retire 4)

/-- The `.rs` forms on a register-space word (10: R206). They wait for earlier operations that have still to read it, as
every write does (05: R93; DEDUCED; unsafe; log 126). -/
def State.regBit (s : State) (ra : Reg) (full : Bool) : State :=
  s.onTile fun k => s.sources false .m [ra.toNat] fun s =>
    let w := (s.reg ra.toNat).toNat
    if 2048 ≤ w then s.illegal
    else if w = 0 then s.retire 4
    else if s.writeWaits k w then s.block (.owedWrite w)
    else
      let c := s.core k
      (s.setCore k { c with reg := { c.reg with empty := Tab.put c.reg.empty w (!full) } }).retire 4

def execSetfRs (ra : Reg) (s : State) : Out := .next (s.regBit ra true)
def execSeteRs (ra : Reg) (s : State) : Out := .next (s.regBit ra false)

end Sys2Proof.Machine
end

