-- ==== Sys2Proof/Machine/Atomic.lean ====
section
/-! DEFINITION. Atomics (15: R321-R325): one computation at the home, whoever serves it. -/

namespace Sys2Proof.Machine

/-- AMO (15: R323): selector, old value, operand, width in bits. -/
def amoValue (op old v w : Nat) : Nat :=
  match op with
  | 0 => (old + v) % 2 ^ w
  | 1 => old &&& v
  | 2 => old ||| v
  | 3 => old ^^^ v
  | 4 => if sextNat old w < sextNat v w then old else v
  | 5 => if sextNat v w < sextNat old w then old else v
  | 6 => min old v
  | _ => max old v

/-- AMOF FMAXABS (15: R325): the larger magnitude, sign 0; a NaN gives the canonical one. -/
def maxAbs (x y : Nat) : Nat :=
  if (Fmt.f32.real x).isNan || (Fmt.f32.real y).isNan then Fmt.f32.nanCode else max (x % 2 ^ 31) (y % 2 ^ 31)

/-- The new value of the target, or none where nothing is written (15: R323-R325). -/
def Access.atomic (x : Access) (old : Nat) : Option Nat :=
  let w := 8 * x.n
  let v := x.d1.toNat % 2 ^ w
  match x.kind with
  | 3 => some (amoValue x.op old v w)
  | 4 => if x.op % 2 = 0 then some v else if old = v then some x.d2.toNat else none
  | _ =>
    match x.op % 4 with
    | 0 => some (fadd .f32 0 old v).1
    | 1 => some (maxAbs old v)
    | _ => if old < v then some (old + 1) else some old

/-- The atomic step at a home address (15: R321): the old value and the new state. -/
def State.atomicAt (s : State) (h : Nat) (x : Access) : Nat × State :=
  let old := s.readMem h x.n
  match x.atomic old with
  | some v => (old, s.writeMem h (toBytes x.n v))
  | none => (old, s)

/-- An earlier access within a scope that has not been performed (15: R312, R317). -/
def Core.unperformed (c : Core) (scope : Nat) : Bool :=
  (c.accesses.any fun l => !l.performed && decide (l.home ≤ scope)) || c.buffered.any fun b => decide (b.home ≤ scope)

/-- A release at `.host` or wider has met the host ports (15: R328). -/
def State.hostRelease (s : State) (k scope : Nat) : State :=
  if 6 ≤ scope then s.setCore k { s.core k with hostPorts := [] } else s

/-- An atomic of a tile core (15: R321, R322). -/
def State.tileAtomic (s : State) (k : Nat) (x : Access) (rd : Nat) : State :=
  let a := x.addr
  let p := corePos k
  match s.operand p a x.n .atomic with
  | none => s.trap { code := cBAD_ADDRESS, addr := a }
  | some t =>
    if a.toNat % x.n ≠ 0 then s.trap { code := cMISALIGNED, addr := a }
    else s.destination rd fun s =>
      let c := s.core k
      let hs := s.homeScope p t
      let x : Access := { x with scope := hs }
      if s.acquiring k hs then s.block .order
      else if decide (hs ≤ 3) && c.unperformed 3 then s.block .performed
      else if decide (2 ≤ x.ord) && (c.unperformed hs || s.sendsOut k hs) then s.block .performed
      else if c.buffered.any (fun b => b.word = wordName k t a) then s.block .overlap
      else if s.sendReads k t x.n then s.blockSend k
      else match t.home k with
        | some h =>
          if s.badAt h x.n then s.trap { code := cUNCORR_ECC, addr := a }
          else
            let r := (s.countEcc (regionOf p) h x.n).atomicAt h x
            ((r.2.uncache p h x.n).watchLocal k t x.n 4 a).finish 4 rd (BitVec.ofNat 64 r.1) 0
        | none =>
          match c.freeSlot with
          | none => s.block .slot
          | some i =>
            let l : Slot := { acc := x, pc := c.pc, home := hs, dest := t.dest k, dst := 8 * rd
                              len := if rd = 0 then 0 else 8 }
            ((if 2 ≤ x.ord then s.hostRelease k hs else s).request k i l t).retire 4

/-- To host memory only AMO ADD and AMOX are carried (15: R322). -/
def Access.carried (x : Access) : Bool := x.kind = 4 || (x.kind = 3 && x.op = 0)

/-- A home in host memory (10: R196). -/
def hostHome (h : Nat) : Bool := decide (0x8000000000000 ≤ h) && decide (h < 0x10000000000000)

/-- An atomic of an island core (15: R322, R327; 16: R352). -/
def State.islandAtomic (s : State) (k : Nat) (x : Access) (rd : Nat) : State :=
  match s.islandHome k x.addr x.n .atomic with
  | .error c => (s.countXlat k x.addr).trap { code := c, addr := x.addr }
  | .ok h =>
    if hostHome h && !x.carried then (s.countXlat k x.addr).trap { code := cBAD_ADDRESS, addr := x.addr }
    else if !(s.icore k).sbuf.isEmpty then s.block .performed
    else
      let r := (((s.countXlat k x.addr).countEcc (k / 8) h x.n).dirty h x.n).atomicAt h x
      r.2.finish 4 rd (BitVec.ofNat 64 r.1) 0

/-- The operands are full, then the access (15: R322). -/
def State.atomic (s : State) (rs : List Nat) (ra rd : Reg) (x : State → Access) : State :=
  s.sources false .m rs fun s =>
    let y := { x s with addr := s.reg ra.toNat }
    match s.cur with
    | .tile k => s.tileAtomic k y rd.toNat
    | .island k => s.islandAtomic k y rd.toNat

def execAmo (wd : BitVec 1) (ord : BitVec 2) (op : BitVec 3) (ra rd : Reg) (s : State) : Out :=
  .next (s.atomic [ra.toNat, rd.toNat] ra rd fun s =>
    { kind := 3, n := if wd = 0#1 then 8 else 4, op := op.toNat, ord := ord.toNat, d1 := s.reg rd.toNat })
def execAmoxXchg (ord : BitVec 2) (ra rd : Reg) (s : State) : Out :=
  .next (s.atomic [ra.toNat, rd.toNat] ra rd fun s =>
    { kind := 4, n := 8, op := 0, ord := ord.toNat, d1 := s.reg rd.toNat })
def execAmoxCas (ord : BitVec 2) (rb ra rd : Reg) (s : State) : Out :=
  .next (s.atomic [ra.toNat, rd.toNat, rb.toNat] ra rd fun s =>
    { kind := 4, n := 8, op := 1, ord := ord.toNat, d1 := s.reg rd.toNat, d2 := s.reg rb.toNat })
def execAmofFadd32 (ord : BitVec 1) (ra rd : Reg) (s : State) : Out :=
  .next (s.atomic [ra.toNat, rd.toNat] ra rd fun s =>
    { kind := 5, n := 4, op := 0, ord := 3 * ord.toNat, d1 := s.reg rd.toNat })
def execAmofFmaxabs (ord : BitVec 1) (ra rd : Reg) (s : State) : Out :=
  .next (s.atomic [ra.toNat, rd.toNat] ra rd fun s =>
    { kind := 5, n := 4, op := 1, ord := 3 * ord.toNat, d1 := s.reg rd.toNat })
def execAmofBumplim (ord : BitVec 1) (rb ra rd : Reg) (s : State) : Out :=
  .next (s.atomic [ra.toNat, rd.toNat, rb.toNat] ra rd fun s =>
    { kind := 5, n := 8, op := 2, ord := 3 * ord.toNat, d1 := s.reg rb.toNat })

end Sys2Proof.Machine
end

