-- ==== Sys2Proof/Machine/Order.lean ====
section
/-! DEFINITION. Ordering instructions (15: R317-R320) and the release of buffered stores (15: R314, R327). -/

namespace Sys2Proof.Machine

/-- FENCE waits for every earlier access and send within its scope (15: R317). -/
def execFence (sc : BitVec 6) (s : State) : Out :=
  .next (match s.cur with
    | .tile k =>
      if 2 ≤ sc.toNat && ((s.core k).unperformed sc.toNat || s.sendsOut k sc.toNat) then s.block .performed
      else (s.hostRelease k sc.toNat).retire 4
    | .island k =>
      if 2 ≤ sc.toNat && (s.icore k).sbuf.any fun e => decide (e.home ≤ sc.toNat) then s.block .performed else s.retire 4)

/-- An access touches a range of core addresses, as issued; nothing touches an empty one (15: R318). -/
def Access.touches (x : Access) (b n : Nat) : Bool :=
  decide (0 < n) && decide (x.addr.toNat < b + n) && decide (b < x.addr.toNat + x.n)

/-- FENCER waits for earlier accesses within its scope that touch the range (15: R318). -/
def execFencer (rb ra sc : BitVec 6) (s : State) : Out :=
  .next (s.sources false .m [ra.toNat, rb.toNat] fun s =>
    let b := (s.reg ra.toNat).toNat
    let n := (s.reg rb.toNat).toNat
    if 2 ^ 64 < b + n then s.illegal
    else match s.cur with
      | .tile k =>
        let c := s.core k
        if (c.accesses.any fun l => !l.performed && decide (l.home ≤ sc.toNat) && l.acc.touches b n) ||
           (c.buffered.any fun e => decide (e.home ≤ sc.toNat) && e.acc.touches b n) then s.block .performed
        else s.retire 4
      | .island k =>
        if (s.icore k).sbuf.any fun e => decide (e.home ≤ sc.toNat) && e.acc.touches b n then s.block .performed
        else s.retire 4)

/-- A trap on the first enabled flag, kind S (15: R319; 07: R135; 16: R332). -/
def State.flagTrap (s : State) (go : State → State) : State :=
  match enabledFlag s.fcsr with
  | some f => s.trap { code := cFLAG + f, kind := 2, detail := s.fcsr }
  | none => go s

/-- TFENCE (15: R319). On an island core flags never trap (16: R352). -/
def execTfence (s : State) : Out :=
  .next (match s.cur with
    | .tile k =>
      if (s.core k).unperformed 8 || s.sendsOut k 8 then s.block .performed
      else if !(s.opsOf k).isEmpty then s.block .engines
      else (s.hostRelease k 8).flagTrap fun s => s.retire 4
    | .island k => if !(s.icore k).sbuf.isEmpty then s.block .performed else s.retire 4)

/-- Bytes of an LDACQ or STREL (15: R320). -/
def accBytes (sz : BitVec 2) : Nat := 2 ^ sz.toNat

def execLdacq (sz : BitVec 2) (sc : BitVec 4) (ra rd : Reg) (s : State) : Out :=
  .next (s.sources false .m [ra.toNat] fun s =>
    match s.cur with
    | .tile k => s.tileLoad k 4 (accBytes sz) false (some sc.toNat) (s.reg ra.toNat) rd.toNat
    | .island k => s.islandLoad k 4 (accBytes sz) false (s.reg ra.toNat) rd.toNat)

def execStrel (sz : BitVec 2) (sc : BitVec 4) (ra rd : Reg) (s : State) : Out :=
  .next (s.sources false .m [ra.toNat] fun s =>
    match s.cur with
    | .tile k => s.tileStore k 4 (accBytes sz) (some sc.toNat) (s.reg ra.toNat) rd.toNat
    | .island k => s.islandStore k 4 (accBytes sz) (s.reg ra.toNat) (s.reg rd.toNat))

/-! ### STORE_RELEASE -/

/-- The store at the head of the buffer may be released by a core at position `p` (15: R313, R314, steps 2 and 3; R320,
R321): a STREL only after the earlier sends within its scope, too (R311). -/
def Core.mayRelease (c : Core) (p : Nat) (e : Buffered) : Bool :=
  let earlier := c.accesses.filter fun l => decide (l.seq < e.seq) && !l.performed
  let region := decide (e.home ≤ 3)
  let sends := e.rel.any fun z =>
    (c.sendq ++ c.sends).any fun x => decide (x.seq < e.seq) && decide (sendScope p x.hdr ≤ z)
  let stuck := earlier.any fun l =>
    (region && decide (l.home ≤ 3) && (l.isLoad || l.isAtomic)) ||
    (region && decide (l.home ≤ 3) && l.store && l.dest ≠ e.dest) ||
    l.acquires e.home ||
    (match e.rel with
      | some z => decide (l.home ≤ z)
      | none => false)
  let same := c.failed.any fun l => decide (l.seq < e.seq) && l.acc.touches e.acc.addr.toNat e.acc.n
  !stuck && !same && !sends

/-! ### Release flags on their way (15: R330) -/

/-- The wafer that a translated address of a core at position `p` lies on, if it is another one (18: R383). -/
def State.flagWafer (s : State) (p : Nat) (a : Word) : Option Nat :=
  if !isTranslated a then none
  else match s.walk (s.partOf (regionOf p)).root (bits a 0 48) with
    | .error _ => none
    | .ok g =>
      let pa := g.pa + bits a 0 48 % 2 ^ g.size
      if awayHome pa then some (waferOf pa) else none

/-- A slot holds a release flag to a wafer whose acknowledgement has not been sunk. -/
def State.flagTo (s : State) (p w : Nat) (l : Slot) : Bool :=
  l.acc.kind = 7 && decide (7 ≤ l.acc.scope) && s.flagWafer p l.acc.addr = some w

/-- 2^15 release flags of one pair of wafers are unacknowledged: a further one waits in its store buffer (15: R330). -/
def State.flagsFull (s : State) (p : Nat) (e : Buffered) : Bool :=
  e.rel.any fun z => decide (7 ≤ z) &&
    match s.flagWafer p e.acc.addr with
    | none => false
    | some w => decide (2 ^ 15 ≤ (s.cores.map fun c => (c.2.inUse.filter (s.flagTo (corePos c.1) w)).length).sum)

/-- A buffered store of the own cluster lands at its bank (10: R194, R206). -/
def State.landLocal (s : State) (k : Nat) (e : Buffered) (h : Nat) : State :=
  let s := (s.writeMasked h e.mask e.data).uncache (corePos k) h 8
  if e.setFull then s.setMemFull h else s

/-- `n` bytes stored at a home of the own cluster meet its watches (17: R370). -/
def State.watchStored (s : State) (k h n : Nat) (a : Word) : State :=
  s.watchLocal k (if tcmHome k ≤ h then .tcm (h - tcmHome k) else .spad (h - spadHome (corePos k))) n 1 a

/-- A buffered store of the own cluster is applied at its bank; one over two words, in one bank cycle (10: R209). -/
def State.applyLocal (s : State) (k : Nat) (e : Buffered) (h : Nat) (next : Option Buffered := none) : State :=
  let s := s.landLocal k e h
  match next with
  | some f => (s.landLocal k f (f.homeAt.getD h)).watchStored k h 16 e.acc.addr
  | none => s.watchStored k h 8 e.acc.addr

/-- The core's next instruction has stalled for want of a reply slot: a slot that is free is its, not a store's
(21: R390). -/
def State.slotWanted (s : State) (k : Nat) : Bool :=
  let c := s.core k
  c.blocked == some .slot && !c.still && c.due.isEmpty && !s.preempted (corePos k)

/-- Release the head of a tile core's store buffer where R314 allows it, else change nothing. -/
def State.releaseTile (s : State) (k : Nat) : State :=
  let c := s.core k
  if c.sbHeld.isSome then s
  else match c.sbuf with
    | [] => s
    | e :: rest =>
      if !c.mayRelease (corePos k) e || s.ldfeBefore k e.seq || s.flagsFull (corePos k) e then s
      else match e.homeAt with
        | some h =>
          let (s, rest) := match e.linked, rest with
            | true, f :: rest' => (s.applyLocal k e h (some f), rest')
            | _, r => (s.applyLocal k e h, r)
          let s := match e.rel with
            | some z => s.hostRelease k z
            | none => s
          s.setCore k { s.core k with sbuf := rest }.refill
        | none =>
          match (if s.slotWanted k then none else c.freeSlot) with
          | none => s
          | some i =>
            let l : Slot := { acc := e.acc, pc := e.pc, home := e.home, dest := e.dest, seq := e.seq, store := true }
            let t := (s.window (corePos k) e.acc.addr).getD (.virt (bits e.acc.addr 0 48))
            let s := match e.rel with
              | some z => s.hostRelease k z
              | none => s
            let c := s.core k
            let c : Core := { c with sbuf := rest, slots := setNth c.slots i (some l) }
            (s.setCore k c.refill).injectCore k (requestMsg e.acc i 0 (t.server k))

/-- Release the head of an island core's store buffer: the store is performed for every observer
(15: R327). -/
def State.releaseIsland (s : State) (k : Nat) : State :=
  let c := s.icore k
  match c.sbuf, (c.sbuf.head?.bind Buffered.homeAt) with
  | e :: rest, some h => ((s.dirty h 8).writeMasked h e.mask e.data).setICore k { c with sbuf := rest }
  | _, _ => s

def execStoreRelease (core : CoreRef) (s : State) : Out :=
  .next (match core with
    | .tile k => s.releaseTile k
    | .island k => s.releaseIsland k)

end Sys2Proof.Machine
end

