-- ==== Sys2Proof/Machine/Compressed.lean ====
section
/-! DEFINITION. The 16-bit forms of scalar instructions (04: R76; 06: R129): each has the effect of its 32-bit
instruction, blocks on empty sources and writes slice A. -/

namespace Sys2Proof.Machine

/-- rd := rd op ra (06: R129). -/
def State.aluQ (s : State) (ra rd : Reg4) (f : Word → Word → Word) : State :=
  s.scalar false 0 2 [rd.toNat, ra.toNat] rd.toNat fun s => plain (f (s.reg rd.toNat) (s.reg ra.toNat))

/-- rd := f rd (06: R129). -/
def State.selfQ (s : State) (rd : Reg4) (f : Word → Word) : State :=
  s.scalar false 0 2 [rd.toNat] rd.toNat fun s => plain (f (s.reg rd.toNat))

def execAddQ (ra rd : Reg4) (s : State) : Out := .next (s.aluQ ra rd fun a b => a + b)
def execSubQ (ra rd : Reg4) (s : State) : Out := .next (s.aluQ ra rd fun a b => a - b)
def execAndQ (ra rd : Reg4) (s : State) : Out := .next (s.aluQ ra rd fun a b => a &&& b)
def execOrQ (ra rd : Reg4) (s : State) : Out := .next (s.aluQ ra rd fun a b => a ||| b)
def execMovQ (ra rd : Reg4) (s : State) : Out :=
  .next (s.scalar false 0 2 [ra.toNat] rd.toNat fun s => plain (s.reg ra.toNat))
def execMoviQ (imm : BitVec 6) (rd : Reg4) (s : State) : Out :=
  .next (s.scalar false 0 2 [] rd.toNat fun _ => plain (simm imm))
def execAddiQ (imm : BitVec 6) (rd : Reg4) (s : State) : Out := .next (s.selfQ rd fun a => a + simm imm)
def execShliQ (n : BitVec 6) (rd : Reg4) (s : State) : Out := .next (s.selfQ rd fun a => a <<< n.toNat)
def execShriQ (n : BitVec 6) (rd : Reg4) (s : State) : Out := .next (s.selfQ rd fun a => a >>> n.toNat)

/-- An offset of `ext` units (06: R129). -/
def extOff (ext : BitVec 2) (unit : Nat) : Word := BitVec.ofNat 64 (unit * ext.toNat)

def execLddQ (ext : BitVec 2) (ra rd : Reg4) (s : State) : Out := .next (s.load 2 8 false (extOff ext 8) ra.toNat rd.toNat)
def execStdQ (ext : BitVec 2) (ra rd : Reg4) (s : State) : Out := .next (s.store 2 8 (extOff ext 8) ra.toNat rd.toNat)
def execLdwQ (ext : BitVec 2) (ra rd : Reg4) (s : State) : Out := .next (s.load 2 4 true (extOff ext 4) ra.toNat rd.toNat)
def execStwQ (ext : BitVec 2) (ra rd : Reg4) (s : State) : Out := .next (s.store 2 4 (extOff ext 4) ra.toNat rd.toNat)

/-- A branch on one register (06: R129). -/
def State.branchQ (s : State) (imm : BitVec 6) (rd : Reg4) (c : Word → Bool) : State :=
  s.sources false .a [rd.toNat] fun s => if c (s.reg rd.toNat) then s.goto (s.target imm) else s.retire 2

def execBezQ (imm : BitVec 6) (rd : Reg4) (s : State) : Out := .next (s.branchQ imm rd fun v => v = 0)
def execBnzQ (imm : BitVec 6) (rd : Reg4) (s : State) : Out := .next (s.branchQ imm rd fun v => v ≠ 0)
def execJQ (imm : BitVec 10) (s : State) : Out := .next (s.goto (s.target imm))
def execJrQ (rd : Reg4) (s : State) : Out :=
  .next (s.sources false .a [rd.toNat] fun s => s.goto (s.reg rd.toNat))
def execBrkQ (s : State) : Out := .next (s.trap { code := cBREAKPOINT })
def execNopQ (s : State) : Out := .next (s.retire 2)

end Sys2Proof.Machine
end

