-- ==== Sys2Proof/Machine/Fetch.lean ====
section
/-! DEFINITION. Fetching and decoding at a boundary (04: R67-R73, R82; 17: R370 execute watches), and taking a cause that
is due (16: R334-R336). -/

namespace Sys2Proof.Machine

/-- Tile code lies in the own region's SRAM below the system area, or in translated space (04: R67). -/
def codeAddr (p : Nat) (a : Word) : Bool :=
  let base := 0x20000000000 + regionOf p * 2 ^ 24
  (decide (base ≤ a.toNat) && decide (a.toNat < base + 0xF00000)) || isTranslated a

/-- A halfword of a 64-byte line. -/
def lineHalf (l : BitVec 512) (a : Word) : Nat := l.toNat / 2 ^ (8 * (a.toNat % 64 / 2 * 2)) % 65536

/-- What a fetch of a halfword finds (04: R67-R70). -/
inductive Got where
  | half (h : Nat)
  | wait
  | fault (cause : Nat)
  deriving DecidableEq, Repr

/-- A fill of the line is asked for or has come (04: R68). -/
def Cluster.fillOf (c : Cluster) (line : Word) : Option Nat :=
  (span 0 4).find? fun i => (nth none c.fills i).any fun f => f.line = line && !f.stale

/-- What is left of a fill under way once its line is invalidated: it delivers nothing, and a failed one is gone (04: R70). -/
def Fill.invalidate (f : Fill) : Option Fill := if f.fault.isSome then none else some { f with stale := true }

/-- A fill slot that is free, else one whose fill has failed and whose fault nothing has reached (04: R68, R69). -/
def Cluster.freeFill (c : Cluster) : Option Nat :=
  ((span 0 4).find? fun i => (nth none c.fills i).isNone).orElse fun _ =>
    (span 0 4).find? fun i => (nth none c.fills i).any fun f => f.fault.isSome

/-- Ask for a line where a fill slot is free: a FILL request to the own island, through the port of core 0 (04: R68;
09: R181; log 107). -/
def State.askFill (s : State) (p : Nat) (line : Word) : State :=
  let c := s.cluster p
  if (c.fillOf line).isSome || (Tab.get none (c.ccache.map fun e => (e.1, some e.2)) line.toNat).isSome then s
  else match c.freeFill with
    | none => s
    | some i =>
      let s := s.setCluster p { c with fills := setNth c.fills i (some { line := line }) }
      let x : Access := { kind := 9, addr := line <<< 6, n := 64 }
      s.injectCore (4 * p) (requestMsg x i 1 (islandPos (regionOf p)))

/-- A cache of `sets` sets and some ways takes a line (04: R68). A line that the set has no room for takes the place of
another one: which, and that the set of a line is its number modulo `sets`, the spec leaves open (log 100). -/
def State.cachePut (s : State) (case sets ways : Nat) (t : Tab (BitVec 512)) (line : Nat) (l : BitVec 512) :
    Tab (BitVec 512) × State :=
  let mates := (Tab.keys t).filter fun i => i ≠ line && i % sets = line % sets
  if mates.length < ways then (Tab.put t line l, s)
  else
    let f := s.fresh case
    let out := nth 0 mates (f.1.toNat % mates.length)
    (Tab.put (t.filter fun e => e.1 ≠ out) line l, f.2)

/-- The code cache of a cluster takes a line: 128 KiB, 8 ways (04: R68). -/
def State.fillCode (s : State) (p line : Nat) (l : BitVec 512) : State :=
  let r := s.cachePut 36 256 8 (s.cluster p).ccache line l
  r.2.setCluster p { r.2.cluster p with ccache := r.1 }

/-- The I-cache of a core takes a line: 16 KiB, 4 ways (04: R68). -/
def State.fillInstr (s : State) (k line : Nat) (l : BitVec 512) : State :=
  let r := s.cachePut 35 64 4 (s.core k).icache line l
  r.2.setCore k { r.2.core k with icache := r.1 }

/-- A line held by a table of lines. -/
def lineOf (t : Tab (BitVec 512)) (line : Word) : Option (BitVec 512) := Tab.get none (t.map fun e => (e.1, some e.2)) line.toNat

/-- The next line, where it lies in the 4 KiB page of the program counter, whose line is `at_`; a region SRAM window is
whole pages (04: R69). -/
def nextLine (at_ line : Word) : Option Word :=
  if (line + 1).toNat / 64 = at_.toNat / 64 then some (line + 1) else none

/-- The I-cache goes on with the lines that follow, `n` at most, as far as the code cache holds them (04: R69). -/
def State.prefetch (s : State) (k : Nat) (at_ line : Word) : Nat → State
  | 0 => s
  | n + 1 =>
    match (nextLine at_ line).bind fun z => (lineOf (s.cluster (corePos k)).ccache z).map fun l => (z, l) with
    | none => s
    | some (z, l) =>
      (if (lineOf (s.core k).icache z).isSome then s else s.fillInstr k z.toNat l).prefetch k at_ z n

/-- The line of code that core `k` waits for at its pc and that neither its caches nor a fill under way hold: an I-cache
miss that has no fill slot yet (04: R68). -/
def State.missing (s : State) (k : Nat) : Option Word :=
  let p := corePos k
  let c := s.core k
  let held (a : Word) : Option (BitVec 512) := (lineOf c.icache (a >>> 6)).orElse fun _ => lineOf (s.cluster p).ccache (a >>> 6)
  let lack (a : Word) : Option Word := if codeAddr p a && ((s.cluster p).fillOf (a >>> 6)).isNone then some (a >>> 6) else none
  let a := c.pc &&& ~~~1
  if c.blocked ≠ some .fetch || c.ch.isNone || c.still then none
  else match held a with
    | none => lack a
    | some l => if halfClass (lineHalf l a) = 3 && (held (a + 2)).isNone then lack (a + 2) else none

/-- A miss of core `k` in both caches: the misses of the cluster's cores are asked for round robin, from the core after
the one served last, each with the line that follows it (04: R68, R69). -/
def State.askFills (s : State) (k : Nat) (line : Word) : State :=
  let p := corePos k
  (rotate (s.cluster p).fillLast (span 0 4)).foldl (fun s c =>
    let j := 4 * p + c
    match (if j = k then some line else s.missing j) with
    | none => s
    | some z =>
      let t := s.askFill p z
      let t := if ((s.cluster p).fillOf z).isNone && ((t.cluster p).fillOf z).isSome then
          t.setCluster p { t.cluster p with fillLast := c }
        else t
      match nextLine ((s.core j).pc >>> 6) z with
      | some n => t.askFill p n
      | none => t) s

/-- The halfword at an even address through the I-cache and the code cache, of the instruction at `at_` (04: R68, R69). A
fill that has failed keeps its fault, though the page may have been mapped since (DESIGN CHOICE; unsafe; log 18). -/
def State.fetchHalf (s : State) (k : Nat) (at_ a : Word) : Got × State :=
  let p := corePos k
  if !codeAddr p a then (.fault cBAD_ADDRESS, s)
  else
    let line := a >>> 6
    let c := s.core k
    match lineOf c.icache line with
    | some l => (.half (lineHalf l a), s)
    | none =>
      match lineOf (s.cluster p).ccache line with
      | some l => (.half (lineHalf l a), (s.fillInstr k line.toNat l).prefetch k (at_ >>> 6) (at_ >>> 6) 2)
      | none =>
        match ((s.cluster p).fillOf line).bind fun i => nth none (s.cluster p).fills i with
        | some f =>
          match f.fault with
          | some (cause, _) => (.fault cause, s)
          | none => (.wait, s)
        | none => (.wait, s.askFills k line)

/-- A fill that failed is given up when its fault is raised (04: R69). -/
def State.dropFill (s : State) (p : Nat) (line : Word) : State :=
  let c := s.cluster p
  match c.fillOf line with
  | some i => s.setCluster p { c with fills := setNth c.fills i none }
  | none => s

/-- A fetched instruction, or what happens instead. -/
inductive Fetched where
  | instr (i : Instr)
  | stop (s : State)
  deriving Repr

/-- ILLEGAL_ENTRY at the pc (04: R72). -/
def State.illegalEntry (s : State) : State :=
  match s.cur with
  | .tile k => s.trap { code := cILLEGAL_ENTRY, addr := s.pc, detail := (s.core k).came.getD 0 }
  | .island _ => s.trap { code := cILLEGAL_ENTRY, addr := s.pc }

/-- Fetch and decode at the pc of tile core `k` in the order of R73; what is no instruction meets ILLEGAL_OP (R82). -/
def State.fetchTile (s : State) (k : Nat) : Fetched × State :=
  let p := corePos k
  let a := s.pc
  let bad (s : State) (c : Nat) (at_ : Word) : Fetched × State :=
    (.stop ((s.dropFill p (at_ >>> 6)).trap { code := c, addr := at_, fetch := true }), s)
  match s.fetchHalf k a (a &&& ~~~1) with
  | (.fault c, s) => bad s c a
  | (.wait, s) => (.stop (s.block .fetch), s)
  | (.half h0, s) =>
    if bit a 0 || halfClass h0 = 2 then (.stop s.illegalEntry, s)
    else if halfClass h0 = 3 then
      match s.fetchHalf k a (a + 2) with
      | (.fault c, s) => bad s c (a + 2)
      | (.wait, s) => (.stop (s.block .fetch), s)
      | (.half h1, s) =>
        match decodeHalves h0 (some h1) with
        | .ok (i, _) => (.instr i, s)
        | .error _ => (.stop s.illegal, s)
    else
      match decodeHalves h0 none with
      | .ok (i, _) => (.instr i, s)
      | .error _ => (.stop s.illegal, s)

/-- Home of a halfword of island code (16: R352). -/
def State.islandCode (s : State) (k : Nat) (a : Word) : Except Nat Nat :=
  let phys (pa : Nat) : Except Nat Nat :=
    match physHome pa with
    | some h => if s.badAt h 2 then .error cUNCORR_ECC else .ok h
    | none => .error cBAD_ADDRESS
  if s.supervisor k then phys a.toNat
  else if bits a 48 16 ≠ 0 then .error cBAD_ADDRESS
  else match s.translate (bits (s.icore k).kxlat 12 52 * 4096) a.toNat .fetch with
    | .ok pa => phys pa
    | .error c => .error c

/-- The single-bit errors in the words that an island core's fetch reads are counted (10: R190). -/
def State.countCode (s : State) (k : Nat) : State :=
  let a := s.pc &&& ~~~1
  match s.islandCode k a with
  | .error _ => s.countXlat k a
  | .ok h =>
    let t := (s.countXlat k a).countEcc (k / 8) h 2
    if bit s.pc 0 || halfClass (s.readMem h 2) ≠ 3 then t
    else match s.islandCode k (s.pc + 2) with
      | .ok g =>
        let t := if (a + 2).toNat % 4096 = 0 then t.countXlat k (a + 2) else t
        if g / 8 = h / 8 then t else t.countEcc (k / 8) g 2
      | .error _ => t.countXlat k (a + 2)

/-- Fetch and decode at the pc of island core `k` (04: R73; 16: R352). -/
def State.fetchIsland (s : State) (k : Nat) : Fetched :=
  let a := s.pc
  match s.islandCode k (a &&& ~~~1) with
  | .error c => .stop (s.trap { code := c, addr := a })
  | .ok h =>
    let h0 := s.readMem h 2
    if bit a 0 || halfClass h0 = 2 then .stop s.illegalEntry
    else if halfClass h0 = 3 then
      match s.islandCode k (a + 2) with
      | .error c => .stop (s.trap { code := c, addr := a + 2 })
      | .ok g =>
        match decodeHalves h0 (some (s.readMem g 2)) with
        | .ok (i, _) => .instr i
        | .error _ => .stop s.illegal
    else
      match decodeHalves h0 none with
      | .ok (i, _) => .instr i
      | .error _ => .stop s.illegal

/-! ### Causes that are due (16: R334) -/

/-- Rank of a cause: X causes in their order, then D and G as they came. -/
def Due.rank (d : Due) : Nat :=
  if d.kind ≠ 4 then 4 else if d.cause = cLOCKSTEP_HARD then 0 else if d.cause = cTHERMAL_TRIP then 1
  else if d.cause = cWATCHPOINT then 2 else if d.cause = cSTEP then 3 else 2

/-- Place of the first entry of least rank. -/
def firstDue : List Due → Option Nat
  | [] => none
  | d :: t =>
    match firstDue t with
    | none => some 0
    | some i => if d.rank ≤ (nth d t i).rank then some 0 else some (i + 1)

/-- The frame of a due cause (16: R336). -/
def State.dueCause (s : State) (k : Nat) (d : Due) : Cause :=
  let c := s.core k
  match d.kind with
  | 1 => { code := d.cause, kind := 1, pc := d.pc, addr := d.addr, slot := d.slotNo, due := d
           detail := if d.slot.store then 0 else BitVec.ofNat 64 (d.slot.dst / 8) }
  | 3 => { code := d.cause, kind := 3, pc := d.pc, addr := d.addr, unit := d.unit, due := d
           detail := if d.cause = cLEASE_LOST then (Tab.get {} c.leases d.unit).restart else 0
           pidx := Tab.get 0 c.pidx d.unit }
  | _ => { code := d.cause, kind := 4, pc := c.pc, addr := d.addr, due := d }

/-- Core `k` takes the first of its due causes; in a pair after a checkpoint (16: R334, R335, R349). -/
def State.takeDue (s : State) (k : Nat) : State :=
  let c := s.core k
  match firstDue c.due with
  | none => s
  | some i =>
    let d := nth {} c.due i
    if c.pair = .first && d.cause ≠ cLOCKSTEP_HARD && (c.sinceCkpt ≠ 0 || c.ckptDue) then
      s.setCore k { c with blocked := some .checkpoint }
    else (s.setCore k { c with due := dropNth c.due i }).takeTrap k (s.dueCause k d)

/-- An LYIELD or LFREE that waits at the pc has come to its end, which a cause that is due follows (07: R152; 16: R334;
log 105). -/
def Core.ends (c : Core) : Bool := c.leases.any fun e => e.2.yieldDone.isSome

/-- A core that a stop holds takes THERMAL_TRIP all the same (08: R164). -/
def Core.tripHeld (c : Core) : Bool :=
  c.stopped ≠ 0 && c.trapped.isNone && !c.rollback &&
    (firstDue c.due).any fun i => (nth {} c.due i).cause = cTHERMAL_TRIP

/-- The core waits within the instruction at its pc, whose execute watches it has met (17: R370). -/
def Core.within (c : Core) : Bool := c.blocked.any fun b => b ≠ .fetch && b ≠ .stream && b ≠ .checkpoint

/-- Execute watches on the instruction at the pc (17: R369, R370): whether one of them traps, and the new state. An
instruction that waits is counted once. Both cores of a pair issue it (16: R347). -/
def State.watchExec (s : State) (k : Nat) : Bool × State :=
  let p := corePos k
  let a := s.pc
  let again := (s.core k).within
  (span 0 9).foldl (fun (r : Bool × State) i =>
    let w := Tab.get 0 (r.2.cluster p).wp i
    let here := bit w 63 && bit w 59 && (s.core k).twins (coreNo k) (bits w 52 2) && !isTranslated a && bits w 1 23 = bits a 1 23
    if !here then r
    else
      let act := bits w 60 3
      if again && act ≠ 1 then r
      else (r.1 || act = 1, r.2.hit p i 6 (fields [(14, bits w 52 2)]) a 0 none)) (false, s)

/-- Whether the instruction is irrevocable (16: R350), or a fence of R331, an atomic or `TRAP`. -/
def irrevocable : Instr → Bool
  | .amo .. | .amoxXchg .. | .amoxCas .. | .amofFadd32 .. | .amofFmaxabs .. | .amofBumplim .. => true
  | .ldacq .. | .strel .. | .fencer .. | .tfence => true
  | .fence sc => decide (2 ≤ sc.toNat)
  | .lde .. | .setf .. | .sete .. => true
  | .cpygo .. | .hbset .. | .post .. | .hmask .. | .cbarArrive .. | .cbarWait .. | .cbarArrivewait .. => true
  | .arradd .. | .arrwait .. | .arrreset .. => true
  | .lease .. | .lyield .. | .lfree .. | .lstat .. | .done | .doneQ | .doneRepost | .trap .. => true
  | .mldw .. | .mream .. | .mrmrg .. | .mdrain .. | .mstore .. | .sttm .. | .ststr .. | .stsi .. => true
  | .mclr tgt => decide (4 ≤ tgt.toNat)
  | .gxgather .. | .gxscat .. | .gxbins .. | .gxstat .. | .smerge .. | .smkv .. => true
  | .zdgo .. | .zdwait .. | .rdsum .. | .rdmax .. | .rdjoin .. => true
  | _ => false

/-- A pair takes a checkpoint before an irrevocable instruction, after one, and after 1,024 instructions
(16: R349). -/
def Core.needsCkpt (c : Core) (i : Instr) : Bool :=
  c.pair = .first && (c.ckptDue || decide (1024 ≤ c.sinceCkpt) || (irrevocable i && c.sinceCkpt ≠ 0))

/-- The second core of a pair holds what the first one computes (16: R347). -/
def State.mirror (s : State) (k : Nat) : State :=
  let c := s.core k
  if c.pair ≠ .first then s
  else
    let d := s.core (k + 1)
    s.setCore (k + 1) { d with
      reg := c.reg, pc := c.pc, came := c.came, ch := c.ch, fcsr := c.fcsr, vbase := c.vbase, abase := c.abase,
      pidx := c.pidx, tms := c.tms, fmts := c.fmts, instret := c.instret, cycle := c.cycle, trapped := c.trapped }

/-- TRAP_TAKE: a core with no instruction to issue takes what is due (16: R334). -/
def execTrapTake (k : Nat) (s : State) : Out :=
  .next (if s.preempted (corePos k) || (s.core k).ends || ((s.core k).still && !(s.core k).tripHeld) then s
    else (s.takeDue k).mirror k)

end Sys2Proof.Machine
end

