-- ==== Sys2Proof/Machine/Issue.lean ====
section
/-! DEFINITION. One issue of a core: what comes before the instruction it fetches, and what follows (06: R105; 16: R334,
R347-R349; 17: R359, R364). The instruction's own meaning is a parameter; Step.lean gives `exec`. -/

namespace Sys2Proof.Machine

/-! ### Units that exist -/

/-- A position that holds a cluster (00: R1). -/
def isCluster (p : Nat) : Bool := isPos p && !isIsland p
def isCore (k : Nat) : Bool := isCluster (corePos k)
def isIsle (k : Nat) : Bool := decide (k < 384)
def coreOk : CoreRef → Bool
  | .tile k => isCore k
  | .island k => isIsle k
def serveOk : ServeAt → Bool
  | .cluster p => isCluster p
  | .sram r => decide (r < 48)
  | .stack n => decide (n < 16)
  | .host n => decide (n < 4)

/-- The row is one of the steps without an encoding, and the units it names exist (00: R1). -/
def eventOk : Instr → Bool
  | .powerOnReset => true
  | .doorbell q _ => decide (q / 256 < 48)
  | .cheadWrite q _ => decide (q / 256 < 48)
  | .teardown q => decide (q / 256 < 48)
  | .reset q => decide (q / 256 < 48)
  | .replay q => decide (q / 256 < 48)
  | .abort q => decide (q / 256 < 48)
  | .workRecordRead q => decide (q / 256 < 48)
  | .itemDispatch region => decide (region < 48)
  | .tokenRefill region => decide (region < 48)
  | .routeQuiet region => decide (region < 48)
  | .routeQuietTimeout region => decide (region < 48)
  | .launchStart q => decide (q / 256 < 48)
  | .clusterStart pos => isCluster pos
  | .completionSignal region => decide (region < 48)
  | .entryInvalidate k => isCore k
  | .nodeComplete _ _ => true
  | .conditionRead _ _ => true
  | .copyNodeDone _ _ => true
  | .drainComplete q => decide (q / 256 < 48)
  | .linkFault pos dir => isPos pos && decide (dir < 4)
  | .routeRepair tag => decide (tag < 256)
  | .routerForward _ => true
  | .islandQtile region => decide (region < 48)
  | .codeCacheFill pos => isCluster pos
  | .activationStart k => isCore k
  | .messageDeposit pos vc => isCluster pos && decide (vc < 8)
  | .dispatchAccept pos c => isCluster pos && decide (c < 4)
  | .engineOpComplete pos eng => isCluster pos && decide (eng < 8)
  | .engineFault pos eng => isCluster pos && decide (eng < 8)
  | .leaseGrant pos eng => isCluster pos && decide (eng < 8)
  | .graceExpiry pos eng _ => isCluster pos && decide (eng < 8)
  | .leaseRelease pos eng => isCluster pos && decide (eng < 8)
  | .engineGate pos eng => isCluster pos && decide (eng < 8)
  | .powerEvaluation region _ _ => decide (region < 48)
  | .thermalTrip region _ => decide (region < 48)
  | .operatingPointChange k _ => isCore k
  | .operatingPointDone k => isCore k
  | .railEvaluation rail => decide (rail < 24)
  | .voteWithdraw region => decide (region < 48)
  | .ldoAcknowledge rail => decide (rail < 24)
  | .stackThrottle stack _ => decide (stack < 16)
  | .stackRestore stack _ => decide (stack < 16)
  | .sendInject k => isCore k
  | .requestServe u => serveOk u
  | .watchpointStop pos => isCluster pos
  | .replySink pos => isCluster pos
  | .islandForward region => decide (region < 48)
  | .walkComplete region _ => decide (region < 48)
  | .storeRelease core => coreOk core
  | .recordStart pos _ => isCluster pos
  | .sectorComplete pos _ _ => isCluster pos
  | .sectorFault pos _ _ => isCluster pos
  | .burstStart port => decide (port < 192)
  | .headboxBlockSend port => decide (port < 192)
  | .headboxBlockTake pos _ => isCluster pos
  | .rdContribution pos vc => isCluster pos && decide (vc < 8)
  | .zdJobEnd pos => isCluster pos
  | .fabricFlagArrive source _ _ _ => decide (source.port < 96)
  | .fabricResend _ => true
  | .trapTake k => isCore k
  | .resumeRetry k => isCore k
  | .resumeNext k => isCore k
  | .resumeGoto k _ => isCore k
  | .resumeEnd k _ => isCore k
  | .preemptDrainEnd tag _ => decide (tag < 256)
  | .lockstepCheckpoint k => isCore k
  | .lockstepMismatch k => isCore k
  | .lockstepRollback k => isCore k
  | .islandTrapEntry k _ _ => isIsle k
  | .islandEventEntry k => isIsle k
  | .islandTimer region _ => decide (region < 48)
  | .ktcmpWrite k _ => isIsle k
  | .wedgedCoreRestart k _ => isIsle k
  | .hubRead region _ => decide (region < 48)
  | .hubWrite region _ _ => decide (region < 48)
  | .softStop pos => isCluster pos
  | .softStopComplete pos => isCluster pos
  | .clusterStop pos _ => isCluster pos
  | .step k => isCore k
  | .hubResume pos => isCluster pos
  | .hardStopReceive pos _ => isPos pos
  | .coreStop k _ => isCore k
  | .routerCounterWrite pos => isPos pos
  | .hostWrite port _ _ _ => decide (port < 4)
  | .hostRead port _ _ _ => decide (port < 4)
  | .linkFrameReceive link _ _ _ _ => decide (link < 96)
  | .linkReplay link => decide (link < 96)
  | .fabricRequestReceive port _ _ _ _ _ => decide (port < 96)
  | .quoteRequest _ => true
  | .measurementExtend _ _ => true
  | .restoreComplete tag => decide (tag < 256)
  | _ => false

/-! ### Issue -/

/-- An engine operation that is not register-only: a stop pauses it, while a register-only one finishes
(14: R285; 17: R361). -/
def longOp : Instr → Bool
  | .mldw .. | .mmul .. | .mream .. | .mrmrg .. | .mdrain .. | .mstore .. | .mclr .. => true
  | .ldtm .. | .sttm .. | .ldstr .. | .ststr .. | .ldgi .. | .stsi .. | .ldfe .. => true
  | .gxgather .. | .gxscat .. | .gxbins .. | .gxstat .. | .smpath .. | .smerge .. | .smkv .. => true
  | .zdgo .. | .zdwait .. | .rdsum .. | .rdmax .. | .rdjoin .. => true
  | _ => false

/-- The stop record of core `k`, with the state of core `src` (17: R362). -/
def State.putRecord (s : State) (src k kind skid : Nat) (notExec : Bool) : State :=
  let c := s.core src
  let p := corePos k
  let active := c.ch.isSome
  let paused := (span 0 8).foldl (fun a e =>
    a + b2n (((s.cluster p).inflightOf (coreNo src)).any fun o => longOp o.instr && o.engs.contains e) * 2 ^ e) 0
  let d := s.core k
  let w0 := fields [(0, kind), (4, b2n (c.pair != .alone)), (5, b2n notExec), (6, b2n c.recvTrapped),
    (7, b2n active), (8, paused), (16, skid), (32, (d.stopCount + 1) % 2 ^ 32)]
  let s := s.setCore k { d with stopCount := (d.stopCount + 1) % 2 ^ 32 }
  s.writeMem (sramHome (regionOf p) + 0xF80000 + 16 * (4 * localIndex p + coreNo k))
    (bytesOf [w0, if active then c.pc else 0])

/-- The stop record of a core; a pair's two records are alike (17: R362). -/
def State.stopRecord (s : State) (k kind skid : Nat) (notExec : Bool) : State :=
  let t := if (s.core k).pair = .first then s.putRecord k (k + 1) kind skid notExec else s
  t.putRecord k k kind skid notExec

/-- A core, or a pair, stops (17: R361). -/
def State.halt (s : State) (k kind : Nat) : State :=
  let s := if (s.core k).pair = .first then s.setCore (k + 1) { s.core (k + 1) with stopped := kind, received := none } else s
  s.setCore k { s.core k with stopped := kind, received := none }

/-- Instructions retired since the core's router received a stop (17: R362). -/
def Core.skid (c : Core) (n : Nat) : Nat := if c.recvTrapped then 0 else (c.instret.toNat + 2 ^ 64 - n) % 2 ^ 64

/-- The core has received a stop and may retire no further instruction before it stops: 96, or 112 for a pair
(17: R361, R362). A core that was TRAPPED at receipt retires none (17: R366). -/
def Core.mustStop (c : Core) : Bool :=
  c.received.any fun n => c.recvTrapped || decide ((if c.pair = .alone then 96 else 112) ≤ c.skid n)

/-- A core may fetch: it is no second core of a pair, not still, and runs an activation (01: R13; 16: R335, R347;
17: R359). -/
def Core.runs (c : Core) : Bool := c.pair ≠ .second && !c.still && c.ch.isSome

/-- After the instruction of a pair: an irrevocable one is followed by a checkpoint; the second core follows
(16: R347, R349). -/
def State.afterIssue (s : State) (k : Nat) (i : Instr) : State :=
  let c := s.core k
  let s := if c.pair = .first && irrevocable i && c.blocked.isNone then s.setCore k { c with ckptDue := true } else s
  s.mirror k

/-- Apply to the next state, if there is one. -/
def andThen (o : Out) (f : State → State) : Out :=
  match o with
  | .next s => .next (f s)
  | .fault r => .fault r
  | .refused r => .refused r

/-- What GOTO has still to write to s63 is written before the next instruction (16: R338; 05: R93). -/
def State.setLink (s : State) (k : Nat) : State :=
  let c := s.core k
  match c.link with
  | none => s
  | some v => s.setCore k { c with reg := c.reg.put 63 v, link := none }

/-- The frame of a step that has ended: WATCHPOINT where the stepped instruction met one, else STEP, which leaves the core
out of TRAPPED. In a pair it comes after a checkpoint, and it comes after the stores and the LDR of the own scratchpad that
the instruction made, which may match too (16: R334, R349; 17: R364, R366, R370; log 114). -/
def State.stepTrap (s : State) (k : Nat) : State :=
  let c := s.core k
  let late := (c.sbHeld.isNone && (c.sbuf ++ c.stream).any fun b => decide (c.stepSeq ≤ b.seq)) ||
    c.inUse.any fun l => decide (c.stepSeq ≤ l.seq) && !l.performed && l.acc.kind = 2 && decide (l.home ≤ 2)
  if !c.stepFrame || c.trapped.isSome || late || (c.pair = .first && (c.sinceCkpt ≠ 0 || c.ckptDue)) then s
  else
    let s := s.setCore k { c with stepFrame := false }
    if c.due.any fun d => d.cause = cWATCHPOINT then s.takeDue k
    else
      let t := s.takeTrap k { code := cSTEP, kind := 4, pc := c.pc }
      t.setCore k { t.core k with trapped := none }

/-- Tile core `k` issues (16: R334). A cause is taken though words of a streaming store have still to enter the store
buffer (DEDUCED; unsafe; log 129). -/
def State.issueTile (run : Instr → State → Out) (s : State) (k : Nat) : Out :=
  let c := s.core k
  if c.pair = .second then .next s
  else if c.stepFrame then
    .next (if !c.stepping then (s.stepTrap k).mirror k
      else if c.sbHeld.isSome && !c.stream.isEmpty && c.trapped.isNone then (s.takeDue k).mirror k
      else s)
  else if c.still || c.mustStop || s.preempted (corePos k) then .next s
  else if !c.due.isEmpty && !c.ends then .next ((s.takeDue k).mirror k)
  else if c.ch.isNone then .next s
  else if !(c.stream.isEmpty && c.sends.isEmpty) then .next (s.block .stream)
  else if c.link.isSome && s.writeWaits k 63 then .next (s.block (.owedWrite 63))
  else
    let s := s.setLink k
    match s.fetchTile k with
    | (.stop t, _) => .next (t.mirror k)
    | (.instr i, t) =>
      if (t.core k).needsCkpt i then .next (t.block .checkpoint)
      else
        let w := t.watchExec k
        if w.1 then
          let d := w.2.core k
          .next (((w.2.setCore k { d with due := d.due ++ [{ kind := 4, cause := cWATCHPOINT, addr := d.pc }] }).takeDue k).mirror k)
        else andThen (run i w.2) fun s => s.afterIssue k i

/-- The lowest event pending (16: R354). -/
def lowestEvent (ev : Nat) : Nat := if ev % 2 = 1 then 0 else if ev / 2 % 2 = 1 then 1 else 2

/-- An event is pending and EVEN is set (16: R354). -/
def State.eventDue (s : State) (k : Nat) : Bool := bit (s.icore k).kstat 1 && s.kevt k ≠ 0

/-- The entry of the lowest pending event (16: R354). -/
def State.takeEvent (s : State) (k : Nat) : State :=
  let ev := lowestEvent (s.kevt k)
  s.islandEnter k (128 + ev) (0x300 + 8 * ev) 0 (s.icore k).pc

/-- Island core `k` issues; at a boundary a pending event comes first where EVEN allows it (16: R354). -/
def State.issueIsland (run : Instr → State → Out) (s : State) (k : Nat) : Out :=
  if (s.icore k).wedged then .next s
  else if s.eventDue k && (s.icore k).blocked.isNone then .next (s.takeEvent k)
  else
    let s := if (s.icore k).blocked.isNone then s.countCode k else s
    match s.fetchIsland k with
    | .stop t => .next t
    | .instr i => run i s

/-- The core that issues for core `k`: in a pair, the first (16: R347; 17: R364). -/
def State.leader (s : State) (k : Nat) : Nat := if (s.core k).pair = .second then k - 1 else k

/-- A step of a core under a hard or a cluster stop begins; one that comes while a step of the core is under way waits for
its end. Without an activation, or where the core cannot issue, it ends with NOTEXEC (17: R358, R364). -/
def State.beginStep (s : State) (k : Nat) : State :=
  let c := s.core k
  if c.stopped = 0 || c.trapped.isSome then s
  else if c.stepping || c.stepFrame then s.setCore k { c with steps := c.steps + 1 }
  else if c.ch.isNone || c.rollback || s.preempted (corePos k) then
    State.stopRecord (s.setCore k { c with recvTrapped := false }) k 3 0 true
  else s.setCore k { c with stepping := true, stepSeq := c.nextSeq }

/-- The next step that waits begins, where none is under way. -/
def State.nextStep (s : State) (k : Nat) : State :=
  let c := s.core k
  if c.steps = 0 || c.stopped = 0 || c.stepping || c.stepFrame then s else (s.setCore k { c with steps := c.steps - 1 }).beginStep k

/-- The stepped instruction has completed: once its last word is in the store buffer the core is stopped again, the record
is written and the frame follows (06: R105; 15: R314; 17: R362, R364). -/
def State.closeStep (s : State) (k : Nat) : State :=
  let c := s.core k
  if !c.stream.isEmpty then s
  else ((s.setCore k { c with stepping := false, recvTrapped := false }).stopRecord k 3 0 false).stepTrap k

/-- The end of a step (17: R362, R364). A wait for the instruction's own bytes, for an STV that streams or for a
checkpoint is none that ends a step; a trap that is taken ends it without a STEP. -/
def State.endStep (s : State) (k : Nat) : State :=
  let c := s.core k
  if c.trapped.isSome then s.setCore k { c with stepping := false, stepFrame := false, recvTrapped := false }
  else if c.stepFrame then s.closeStep k
  else if c.blocked.isNone then (s.setCore k { c with stepFrame := true }).closeStep k
  else if c.within then (s.setCore k { c with stepping := false, recvTrapped := false }).stopRecord k 3 0 true
  else s

/-- The core that the move names issues; a step that its instruction ends is over. -/
def State.issueOn (run : Instr → State → Out) (s : State) (c : CoreRef) : Out :=
  let s := { s with cur := c }
  match c with
  | .tile k => andThen ((s.nextStep k).issueTile run k) fun t => if (t.core k).stepping then t.endStep k else t
  | .island k => s.issueIsland run k

/-- One move of the machine (log 1): the head of the agenda, else the current core issues. A STEP event issues its
instruction at once (17: R364). -/
def State.move (run : Instr → State → Out) (s : State) : Out :=
  match s.agenda with
  | [] => s.issueOn run s.cur
  | .issue c :: rest => if coreOk c then { s with agenda := rest }.issueOn run c else .fault .noSuchUnit
  | .event i :: rest =>
    if !eventOk i then .fault .noSuchUnit
    else
      match i, run i { s with agenda := rest } with
      | .step k, .next t =>
        if (t.core (t.leader k)).stepping then t.issueOn run (.tile (t.leader k)) else .next t
      | _, o => o

/-! ### Placing a word to fetch -/

/-- The agenda is empty and tile core 0 runs an activation at the first code address of its region, whose line in its
I-cache holds the word; for a SYS word, island core 0 in S mode fetches it from its region's SRAM (log 5). -/
def State.placeWord (s : State) (nbits w : Nat) : State :=
  let v := w % 2 ^ nbits
  if v % 65536 / 16384 = 3 && v % 128 = 0x7F then
    let s := { s with agenda := [], cur := .island 0 }
    let c := s.icore 0
    (s.writeMem (sramHome 0) (toBytes 4 v)).setICore 0
      { c with pc := BitVec.ofNat 64 (sramHome 0), wedged := false, kstat := c.kstat ||| 1 }
  else
    let s := { s with agenda := [], cur := .tile 0 }
    let c := s.core 0
    s.setCore 0 { c with
      pc := 0x20000000000, ch := some (c.ch.getD 0), trapped := none, due := [], stopped := 0, rollback := false,
      stream := [], pair := .alone, icache := Tab.put c.icache 0x800000000 (BitVec.ofNat 512 v) }

end Sys2Proof.Machine
end

