-- ==== Sys2Proof/Machine/Routes.lean ====
section
/-! DEFINITION. The defect map and the logical map in region SRAM, route tables, traces of routes (03: R48-R61), and what
drops a request on its way (03: R53, R66, R398). -/

namespace Sys2Proof.Machine

/-! ### The map page (03: R50, R54; 10: R192) -/

/-- Home of the defect map entry of a position. -/
def mapHome (p : Nat) : Nat := sramHome (regionOf p) + 0xF00000 + 2 * localIndex p
/-- The defect map entry of a position. -/
def State.mapEntry (s : State) (p : Nat) : Nat := s.readMem (mapHome p) 2
/-- HEALTH (03: R50). -/
def State.health (s : State) (p : Nat) : Nat := s.mapEntry p % 4
def State.isRetired (s : State) (p : Nat) : Bool := s.health p = 1
/-- A cluster in service (03: R52). -/
def State.inService (s : State) (p : Nat) : Bool := isPos p && !isIsland p && !s.isRetired p
/-- The position that a logical coordinate maps to, or none (03: R54). -/
def State.physical (s : State) (lx ly : Nat) : Option Nat :=
  if 96 ≤ ly then none
  else
    let r := 8 * (ly / 16) + lx / 16
    let x := s.readMem (sramHome r + 0xF00200 + 16 * (ly % 16) + lx % 16) 1
    if x = 0xFF then none else some (posOf (16 * (lx / 16) + x % 16) ly)

/-! ### Routes (03: R58, R59) -/

/-- The position next in a direction (0 N, 1 E, 2 S, 3 W), or none off the wafer. -/
def nextPos (p dir : Nat) : Option Nat :=
  match dir with
  | 0 => if posY p = 0 then none else some (p - 128)
  | 1 => if posX p = 127 then none else some (p + 1)
  | 2 => if 95 ≤ posY p then none else some (p + 128)
  | _ => if posX p = 0 then none else some (p - 1)

/-- The direction opposite to one. -/
def opposite (dir : Nat) : Nat := (dir + 2) % 4

/-- XY order (03: R58). -/
def xyPort (p d : Nat) : Nat :=
  if posX d < posX p then 3 else if posX p < posX d then 1 else if posY d < posY p then 0 else 2

def RouteEntry.covers (e : RouteEntry) (d : Nat) : Bool :=
  e.valid && decide (e.x0 ≤ posX d) && decide (posX d ≤ e.x1) && decide (e.y0 ≤ posY d) && decide (posY d ≤ e.y1)

/-- The port that a class's table at a router gives for another position (03: R59). -/
def portIn (t : Tab RouteEntry) (p d : Nat) : Nat :=
  match t.find? fun e => e.2.covers d with
  | some e => e.2.port
  | none => xyPort p d

def State.table (s : State) (p cls : Nat) : Tab RouteEntry := Tab.get [] (s.router p).tables cls
def State.portTo (s : State) (cls p d : Nat) : Nat := portIn (s.table p cls) p d

/-- How a trace of a route ended (03: R61): links passed, or broken or off the wafer, a forbidden turn, a region
outside the partition, too long. -/
inductive Trace where
  | arrived (links : Nat)
  | cut | turn | outside | loop
  deriving DecidableEq, Repr

/-- A route followed hop by hop under tables `tab` (03: R61): `live` where a BROKEN link ends it, `inside` the regions it
may enter, `strict` where a forbidden turn ends it, `turned` whether a move other than west has been made, `n` the links
passed; `fuel` the links left. -/
def State.follow (s : State) (tab : Nat → Tab RouteEntry) (live : Bool) (inside : Nat → Bool) (strict : Bool) (d : Nat) :
    Nat → Nat → Nat → Bool → Trace
  | 0, p, n, _ => if p = d then .arrived n else .loop
  | fuel + 1, p, n, turned =>
    if p = d then .arrived n
    else
      let dir := portIn (tab p) p d
      match nextPos p dir with
      | none => .cut
      | some q =>
        if strict && dir = 3 && turned then .turn
        else if live && (s.router p).broken.contains dir then .cut
        else if !inside (regionOf q) then .outside
        else s.follow tab live inside strict d fuel q (n + 1) (turned || dir != 3)

/-- Check 3 of R61: the route moves west after a move that was not west, wherever else it leads. -/
def State.turns (s : State) (tab : Nat → Tab RouteEntry) (a d : Nat) : Bool :=
  s.follow tab false (fun _ => true) true d 512 a 0 false == .turn

/-- Check 4 of R61: the route crosses a BROKEN link or enters a region outside. -/
def State.cuts (s : State) (tab : Nat → Tab RouteEntry) (inside : Nat → Bool) (a d : Nat) : Bool :=
  match s.follow tab true inside false d 512 a 0 false with
  | .cut | .outside => true
  | _ => false

/-- Check 5 of R61: the route passes 512 links without arriving; a BROKEN link or a border ends it. -/
def State.loops (s : State) (tab : Nat → Tab RouteEntry) (inside : Nat → Bool) (a d : Nat) : Bool :=
  s.follow tab true inside false d 512 a 0 false == .loop

/-- Links of the class route between two positions, or 0x3FF (03: R56). -/
def State.routeHops (s : State) (cls p d : Nat) : Nat :=
  match s.follow (fun q => s.table q cls) true (fun _ => true) false d 512 p 0 false with
  | .arrived n => n
  | _ => 0x3FF

/-! ### Requests that are dropped (09: R187) -/

/-- The way of a message of a VC and tag from `p` to `d` that passes at once (log 10, 134): the output ports that it leaves
by, as position and port, and, where it is dropped, the cause and the router: a BROKEN link or the edge of the wafer, a
border, a retired destination (03: R53, R66, R398). `fuel` bounds the links; a message that passes them all goes round for
ever and is lost. -/
def State.path (s : State) (vc tag d : Nat) : Nat → Nat → List (Nat × Nat) × Option (Nat × Nat)
  | 0, p => ([], some (cLINK_LOST, p))
  | fuel + 1, p =>
    if p = d then (if !isIsland p && s.isRetired p then ([], some (cDEST_RETIRED, p)) else ([(p, 4)], none))
    else
      let dir := s.portTo vc p d
      match nextPos p dir with
      | none => ([], some (cLINK_LOST, p))
      | some q =>
        if (s.router p).broken.contains dir then ([], some (cLINK_LOST, p))
        else if regionOf q ≠ regionOf p && tag ≠ 0xFF && tag ≠ (s.region (regionOf q)).tag then
          ([(p, dir)], some (cPROTECT_DROP, q))
        else
          let r := s.path vc tag d fuel q
          ((p, dir) :: r.1, r.2)

/-- The router that drops a VC2 request of a tag on its way from `p` to `d`, and the cause. -/
def State.lostOn (s : State) (tag d fuel p : Nat) : Option (Nat × Nat) := (s.path 2 tag d fuel p).2

/-- SENT of an output port (17: R372). -/
def State.countSent (s : State) (p port vc n : Nat) : State :=
  let r := s.router p
  let i := 8 * port + vc
  s.setRouter p { r with sent := Tab.put r.sent i ((Tab.get 0 r.sent i + n) % 2 ^ 32) }

/-- A message of `n` flits passes at once from `p` to `d`: every port that it leaves by counts it; whether it is dropped
(17: R372). -/
def State.pass (s : State) (vc tag n p d : Nat) : Option (Nat × Nat) × State :=
  let r := s.path vc tag d 512 p
  (r.2, r.1.foldl (fun s l => s.countSent l.1 l.2 vc n) s)

/-- Where a request of a unit of the cluster at `p` goes for a target (09: R181). -/
def Target.at_ (p : Nat) : Target → Nat
  | .cluster q _ => q
  | .sram r _ => islandPos r
  | .virt _ => islandPos (regionOf p)
  | _ => p

/-- In place of a cause (16: R333 gives 7 bits): the request is not lost but waits behind the quieting of VC2
(03: R62, R63). -/
def cQUIET : Nat := 256

/-- Tag of a reply from position `q`: an island's is 0xFF (03: R65). -/
def State.replyTag (s : State) (q : Nat) : Nat := if isIsland q then 0xFF else (s.region (regionOf q)).tag

/-- What drops the request of an engine of the cluster at `p` for a target, under its region's tag (03: R65), or holds it
back: a class that is being quieted is not injected (03: R62), and without its reply the access is not over. -/
def State.lostTo (s : State) (p : Nat) (t : Target) : Option (Nat × Nat) :=
  let q := t.at_ p
  if q = p then none
  else if s.quieted p 2 then some (cQUIET, p)
  else match s.lostOn (s.region (regionOf p)).tag q 512 p with
    | some x => some x
    | none => if s.quieted q 3 || (s.path 3 (s.replyTag q) p 512 q).2.isSome then some (cQUIET, q) else none

/-- The requests of an engine's access have passed from the cluster at `p` to a target, and their replies back. The spec
gives them no size: how many flits they are, free values say (log 10; 17: R372). -/
def State.sentTo (s : State) (p : Nat) (t : Target) : State :=
  let q := t.at_ p
  if q = p then s
  else
    let n (i : Nat) : Nat := (Config.freeWord 41 (2 * s.free + i)).toNat % 2 ^ 32
    let a := { s with free := s.free + 1 }.pass 2 (s.region (regionOf p)).tag (n 0) p q
    if a.1.isSome then a.2 else (a.2.pass 3 (s.replyTag q) (n 1) q p).2

/-- The requests of an engine's access at an address have been made: the mesh has carried them, and the page tables have
been read (10: R190; 17: R372; log 10). -/
def State.asked (s : State) (k : Nat) (a : Word) : State :=
  let p := corePos k
  match s.window p a with
  | none => s
  | some t =>
    let s := s.sentTo p t
    match t with
    | .virt va => s.countWalk (regionOf p) va
    | _ => s

/-- An engine's access of `n` bytes at an address has been performed. A read of another cluster's scratchpad is a remote
access and an atomic is an atomic, wherever it is; engine writes meet no watch (17: R370, R396). -/
def State.accessed (s : State) (k : Nat) (w : Want) (a : Word) (n : Nat) : State :=
  let p := corePos k
  let s := s.asked k a
  match s.window p a, w with
  | some (.cluster q o), .read =>
    s.watch q 0 0 (spadHome q) o n [57] 2 (header1 p (coreNo k) 0 (s.region (regionOf p)).tag) a none
  | some (.cluster q o), .atomic =>
    s.watch q 0 0 (spadHome q) o n [57, 58] 5 (header1 p (coreNo k) 0 (s.region (regionOf p)).tag) a none
  | some t, .atomic => s.watchLocal k t n 4 a
  | _, _ => s

/-- An engine's access has failed: its requests were made, and a router that dropped one reports it to the island of its source; the request's header names its
source, its destination and its tag (09: R187; 03: R65; log 10). -/
def State.reportLost (s : State) (k cause : Nat) (a : Word) : State :=
  let p := corePos k
  let s := (if cause = cPROTECT_DROP then { s with free := s.free + 1 } else s).asked k a
  match (s.window p a).bind fun t => (s.lostTo p t).map fun x => (t, x) with
  | none => s
  | some (t, c, q) =>
    if c ≠ cause then s
    else s.send { at_ := q, vc := 0, w0 := header0 (islandPos (regionOf p)) 0 0 0 32 0, w1 := header1 q 0 0 0xFF,
                  body := bytesOf [fields [(0, c), (7, posX q), (14, posY q)], header0 (t.at_ p) 0 2 0 0 0,
                    header1 p (coreNo k) 0 (s.region (regionOf p)).tag, 0] }

end Sys2Proof.Machine
end

