-- ==== Sys2Proof/Machine/Arrival.lean ====
section
/-! DEFINITION. Arrival state (12: R230-R236): engine writes with their full bits, fill counts and arrival counts, the
entry's move to READY (01: R19), and how engines reach memory. -/

namespace Sys2Proof.Machine

/-! ### Buffers (01: R15) -/

/-- A buffer descriptor. -/
def bufThresh (d : Word) : Nat := bits d 44 20
def bufCap (d : Word) : Nat := bits d 24 20
def bufSpace (d : Word) : Nat := bits d 20 1
def bufOff (d : Word) : Nat := bits d 0 20

def Handler.nbuf (h : Handler) : Nat := bits (nth 0 h.words 1) 4 3
def Handler.buf (h : Handler) (b : Nat) : Word := nth 0 h.words (2 + b)
def Handler.prio (h : Handler) : Nat := bits (nth 0 h.words 1) 0 3

/-- Every declared buffer is at its threshold (01: R19). -/
def Handler.resident (h : Handler) : Bool :=
  (span 0 h.nbuf).all fun b => decide (bufThresh (h.buf b) ≤ nth 0 h.counts b)

def State.setHand (s : State) (k ch : Nat) (h : Handler) : State :=
  let c := s.core k
  s.setCore k { c with hands := Tab.put c.hands ch h }

/-- The arrival word of an engine write or an ARRADD (01: R20). -/
def engArrival (k ch : Nat) : Word := fields [(0, posX (corePos k)), (7, posY (corePos k)), (16, ch), (40, 1)]

/-- The arrival word of a completing message (01: R20). -/
def msgArrival (m : Msg) (ch : Nat) : Word :=
  fields [(0, bits m.w1 0 7), (7, bits m.w1 7 7), (14, srcCore m.w1), (16, ch), (21, m.vc), (24, m.body.length)]

/-- R19 after an addition: a resident FILLING entry with buffers becomes READY, with its arrival word. -/
def State.settle (s : State) (k ch : Nat) (word : Word) : State :=
  let h := (s.core k).hand ch
  if h.valid && h.life == .filling && decide (0 < h.nbuf) && h.resident then
    s.setHand k ch { h with life := .ready, arrival := word }
  else s

/-- Bytes added to an arrival count, which saturates (12: R232). -/
def Handler.add (h : Handler) (b n : Nat) : Handler :=
  { h with counts := setNth h.counts b (min (nth 0 h.counts b + n) 2097151) }

/-- `n` bytes written into a chunk whose bit is clear (12: R231). -/
def Handler.fillChunk (h : Handler) (b c n : Nat) : Handler :=
  if n = 0 || Tab.get false (nth [] h.chunks b) c then h
  else
    let f := min (Tab.get 0 (nth [] h.fill b) c + n) 512
    { h with fill := setNth h.fill b (Tab.put (nth [] h.fill b) c f),
             chunks := if f = 512 then setNth h.chunks b (Tab.put (nth [] h.chunks b) c true) else h.chunks }

/-- Overlap of two ranges. -/
def overlap (a n b m : Nat) : Nat := min (a + n) (b + m) - max a b

/-- A run of `n` written bytes at an offset of a space, seen by one buffer (12: R231, R232). -/
def Handler.written (h : Handler) (b off n : Nat) : Handler :=
  let d := h.buf b
  let o := bufOff d
  let hit := overlap off n o (bufCap d)
  if hit = 0 then h
  else
    let first := (max off o - o) / 512
    let last := (min (off + n) (o + bufCap d) - 1 - o) / 512
    ((span first (last - first + 1)).foldl (fun h c => h.fillChunk b c (overlap off n (o + 512 * c) 512)) h).add b hit

/-- The count of a run of written bytes in every declared buffer of a core in a space (12: R230, steps 2 and 3). -/
def State.countRun (s : State) (k space off n : Nat) (word : Nat → Word) : State :=
  (span 0 32).foldl (fun s ch =>
    let h := (s.core k).hand ch
    if !h.valid then s
    else
      let h' := (span 0 h.nbuf).foldl (fun g b => if bufSpace (g.buf b) = space then g.written b off n else g) h
      if h' = h then s else (s.setHand k ch h').settle k ch (word ch)) s

/-- Where an engine write lands: TCM of a core, or a cluster's scratchpad. -/
inductive Spot where
  | tcm (k off : Nat)
  | spad (pos off : Nat)
  deriving DecidableEq, Repr

/-- The spot of a home address, where it is TCM or scratchpad (log 4). -/
def spotOf (h : Nat) : Option Spot :=
  if tcmHome 0 ≤ h then some (.tcm ((h - tcmHome 0) / 2 ^ 16) (h % 2 ^ 16))
  else if spadHome 0 ≤ h then some (.spad ((h - spadHome 0) / 2 ^ 20) (h % 2 ^ 20))
  else none

/-- Full bits of the words that a run covers (12: R230, step 1). -/
def State.fillRun (s : State) (h n : Nat) : State :=
  if n = 0 then s
  else
    let lo := h / 8
    let hi := (h + n - 1) / 8
    { s with memEmpty := s.memEmpty.filter fun w => !(decide (lo ≤ w) && decide (w ≤ hi)) }

/-- A run of written bytes counts where it lands: for TCM its core's buffers, for scratchpad those of the cluster's
four cores (12: R230). `word` gives the arrival word if it completes an entry. -/
def State.countAt (s : State) (h n : Nat) (word : Nat → Nat → Word) : State :=
  match spotOf h with
  | some (.tcm k off) => s.countRun k 0 off n (word k)
  | some (.spad p off) => (span (4 * p) 4).foldl (fun s k => s.countRun k 1 off n (word k)) s
  | none => s

/-- An engine write of a run of bytes at a home address (12: R230). Outside TCM and scratchpad it only writes. -/
def State.engineWrite (s : State) (h : Nat) (bs : List Byte) (word : Nat → Nat → Word := engArrival) : State :=
  let s := (s.clean h bs.length).writeMem h bs
  match spotOf h with
  | some _ => (s.fillRun h bs.length).countAt h bs.length word
  | none => s

/-! ### Each byte once in an operation (12: R230) -/

/-- What a run of `m` bytes at `a` leaves of another. -/
def cutRun (a m : Nat) (r : Nat × Nat) : List (Nat × Nat) :=
  let e := r.1 + r.2
  if a + m ≤ r.1 || e ≤ a then [r]
  else [(r.1, a - r.1), (a + m, e - (a + m))].filter fun x => decide (0 < x.2)

/-- The runs of bytes that have not been counted yet. -/
def freshRuns (hits : List (Nat × Nat)) (h n : Nat) : List (Nat × Nat) :=
  hits.foldl (fun rs x => rs.flatMap (cutRun x.1 x.2)) (if n = 0 then [] else [(h, n)])

/-- A run joins those counted, with the last one where it follows it. -/
def addHit (h n : Nat) : List (Nat × Nat) → List (Nat × Nat)
  | [] => [(h, n)]
  | x :: t => if x.1 + x.2 = h then (x.1, x.2 + n) :: t else (h, n) :: x :: t

/-- An engine write of an operation that has counted `hits`: it counts the bytes that are not among them, and gives the
bytes counted from then on. -/
def State.opWrite (s : State) (hits : List (Nat × Nat)) (h : Nat) (bs : List Byte) : State × List (Nat × Nat) :=
  let n := bs.length
  let t := (s.clean h n).writeMem h bs
  if awayHome h then (s.storeAway h bs, hits)
  else match spotOf h with
  | none => (t, hits)
  | some _ => ((freshRuns hits h n).foldl (fun s r => s.countAt r.1 r.2 engArrival) (t.fillRun h n), addHit h n hits)

/-! ### How engines reach memory (10: R191, R199; log 10) -/

/-- Home of a byte that an engine of core `k` accesses, or the cause of the fault: its windows, then what drops its
request on the way (03: R53, R398), then its page. -/
def State.engineHome (s : State) (k : Nat) (a : Word) (w : Want) : Except Nat Nat :=
  let p := corePos k
  match s.window p a with
  | none => .error cBAD_ADDRESS
  | some t =>
    let u := if w == .read then Use.load else if w == .atomic then Use.atomic else Use.store
    let sys := match t with
      | .sram _ o => decide (0xF00000 ≤ o)
      | _ => false
    if !u.ok t || sys then .error cBAD_ADDRESS
    else match s.lostTo p t, t with
      | some (c, _), _ => .error c
      | none, .tcm o => .ok (tcmHome k + o)
      | none, .spad o => .ok (spadHome p + o)
      | none, .cluster q o => .ok (spadHome q + o)
      | none, .sram r o => .ok (sramHome r + o)
      | none, .virt va =>
        match s.translate (s.partOf (regionOf p)).root va w with
        | .ok pa => s.pageHome pa w
        | .error c => .error c

/-- A write that begins below words 240-255 of the own TCM and reaches them fails at the first (04: R77; 12: R242). -/
def identityHit (a m : Nat) (w : Want) : Bool := w != .read && decide (a < 0x780) && decide (0x780 < a + m)

/-- A range cut at 4 KiB boundaries; `fuel` bounds the pieces. -/
def pieces (a n : Nat) : Nat → List (Nat × Nat)
  | 0 => []
  | f + 1 => if n = 0 then [] else
      let m := min n (4096 - a % 4096)
      (a, m) :: pieces (a + m) (n - m) f

/-- The homes of a range, or the first fault and its address. -/
def State.engineHomes (s : State) (k : Nat) (w : Want) : List (Nat × Nat) → Except (Nat × Word) (List (Nat × Nat))
  | [] => .ok []
  | (a, m) :: t =>
    let aw : Word := BitVec.ofNat 64 a
    if identityHit a m w then .error (cBAD_ADDRESS, 0x780)
    else match s.engineHome k aw w, s.engineHome k (aw + BitVec.ofNat 64 (m - 1)) w with
    | .error c, _ => .error (c, aw)
    | _, .error c => .error (c, aw + BitVec.ofNat 64 (m - 1))
    | .ok h, .ok e =>
      if e ≠ h + m - 1 then .error (cBAD_ADDRESS, aw)
      else if w == .read && s.badAt h m then .error (cUNCORR_ECC, aw)
      else match s.engineHomes k w t with
        | .ok hs => .ok ((h, m) :: hs)
        | .error x => .error x

/-- The bytes of a range as an engine of core `k` reads them. -/
def State.engineRead (s : State) (k : Nat) (a : Word) (n : Nat) : Except (Nat × Word) (List Byte) :=
  match s.engineHomes k .read (pieces a.toNat n (n / 4096 + 2)) with
  | .ok hs => .ok (hs.flatMap fun h => s.bytesAt h.1 h.2)
  | .error x => .error x

/-- An engine has performed an access of a range, piece by piece. -/
def State.performed (s : State) (k : Nat) (w : Want) (a : Word) (n : Nat) : State :=
  (pieces a.toNat n (n / 4096 + 2)).foldl (fun s x => s.accessed k w (BitVec.ofNat 64 x.1) x.2) s

/-- Such a read has been made: the corrected errors that it meets are counted (10: R190), the mesh has carried it, watches
have met it. -/
def State.countRead (s : State) (k : Nat) (a : Word) (n : Nat) : State :=
  let s : State := if s.eccSoft.isEmpty && !s.fabric.joined then s
    else match s.engineHomes k .read (pieces a.toNat n (n / 4096 + 2)) with
      | .ok hs => s.countHomes (regionOf (corePos k)) hs
      | .error _ => s
  s.performed k .read a n

/-- Bytes laid over homes in turn, as engine writes of one operation. -/
def State.engineLay (s : State) (hits : List (Nat × Nat)) : List (Nat × Nat) → List Byte → State × List (Nat × Nat)
  | [], _ => (s, hits)
  | (h, m) :: t, bs =>
    let r := s.opWrite hits h (takeN m bs)
    r.1.engineLay r.2 t (dropN m bs)

/-- A range written by an operation of core `k` that has counted `hits`. -/
def State.engineStore (s : State) (hits : List (Nat × Nat)) (k : Nat) (a : Word) (bs : List Byte) :
    Except (Nat × Word) (State × List (Nat × Nat)) :=
  match s.engineHomes k .write (pieces a.toNat bs.length (bs.length / 4096 + 2)) with
  | .ok hs =>
    let r := s.engineLay hits hs bs
    .ok (r.1.performed k .write a bs.length, r.2)
  | .error x => .error x

/-! ### Clearing (12: R234) -/

/-- The buffers of an entry that `which` picks are cleared: counts, fill counts and chunk bits (12: R234). -/
def Handler.clearBufs (h : Handler) (which : Nat → Bool) : Handler :=
  (span 0 4).foldl (fun h b =>
    if which b then { h with counts := setNth h.counts b 0, fill := setNth h.fill b [], chunks := setNth h.chunks b [] }
    else h) h

/-- Every buffer of an entry cleared (12: R234). -/
def Handler.clear (h : Handler) : Handler :=
  { h with counts := [0, 0, 0, 0], fill := [[], [], [], []], chunks := [[], [], [], []] }

/-- A run of bytes taken from those counted. -/
def dropHits (lo n : Nat) (hits : List (Nat × Nat)) : List (Nat × Nat) := hits.flatMap (cutRun lo n)

def EngOp.uncount (lo n : Nat) (op : EngOp) : EngOp := { op with hits := dropHits lo n op.hits }
def Due.uncount (lo n : Nat) (d : Due) : Due := { d with op := d.op.uncount lo n }
def StopRec.uncount (lo n : Nat) (r : StopRec) : StopRec := { r with hits := dropHits lo n r.hits }
def Chan.uncount (lo n : Nat) (x : Chan) : Chan := { x with hits := dropHits lo n x.hits }

def Core.uncount (lo n : Nat) (c : Core) : Core :=
  { c with
    dispq := c.dispq.map (EngOp.uncount lo n)
    stuck := c.stuck.map fun e => (e.1, e.2.uncount lo n)
    stopRec := c.stopRec.map fun e => (e.1, e.2.uncount lo n)
    due := c.due.map (Due.uncount lo n)
    trapped := c.trapped.map fun (t : Trapped) => { t with due := t.due.uncount lo n } }

def Cluster.uncount (lo n : Nat) (c : Cluster) : Cluster :=
  { c with
    chans := c.chans.map fun e => (e.1, e.2.uncount lo n)
    inflight := c.inflight.map fun e => (e.1, e.2.map fun o => (o.1, o.2.uncount lo n)) }

/-- After a clear a byte counts again for an operation or a record that wrote it before (12: R234; 22: R393). -/
def State.uncount (s : State) (lo n : Nat) : State :=
  { s with
    cores := s.cores.map fun e => (e.1, e.2.uncount lo n)
    clusters := s.clusters.map fun e => (e.1, e.2.uncount lo n) }

/-- Home of a buffer's first byte. -/
def bufHome (k : Nat) (d : Word) : Nat := (if bufSpace d = 0 then tcmHome k else spadHome (corePos k)) + bufOff d

/-- The words of a buffer's CAP marked empty (01: R19; 12: R234). -/
def State.emptyBuf (s : State) (k : Nat) (d : Word) : State :=
  let lo := bufHome k d / 8
  let ws := span lo (bufCap d / 8)
  { s with memEmpty := (s.memEmpty.filter fun w => !(decide (lo ≤ w) && decide (w < lo + bufCap d / 8))) ++ ws }

/-- The bytes of an entry's buffers that `which` picks count again (12: R234). -/
def State.uncountBufs (s : State) (k : Nat) (h : Handler) (which : Nat → Bool) : State :=
  ((span 0 h.nbuf).filter which).foldl (fun s b => s.uncount (bufHome k (h.buf b)) (bufCap (h.buf b))) s

/-! ### Arrival instructions (12: R235, R236) -/

/-- The buffer a selector names, or BAD_DEPOSIT (12: R235). -/
def State.selected (s : State) (k : Nat) (sel : Word) (go : Nat → Nat → Handler → State) : State :=
  let ch := bits sel 0 5
  let b := bits sel 5 2
  let h := (s.core k).hand ch
  if !h.valid || h.nbuf ≤ b then s.trap { code := cBAD_DEPOSIT } else go ch b h

def execArradd (rb ra : Reg) (s : State) : Out :=
  .next (s.onTile fun k => s.sources false .a [ra.toNat, rb.toNat] fun s =>
    s.selected k (s.reg ra.toNat) fun ch b h =>
      if (s.core k).unperformed 2 then s.block .performed
      else ((s.setHand k ch (h.add b (bits (s.reg rb.toNat) 0 21))).settle k ch (engArrival k ch)).retire 4)

def execArrwait (rb ra : Reg) (s : State) : Out :=
  .next (s.onTile fun k => s.sources false .a [ra.toNat, rb.toNat] fun s =>
    s.selected k (s.reg ra.toNat) fun _ b h =>
      if nth 0 h.counts b < bits (s.reg rb.toNat) 0 21 then s.block .arrival else s.retire 4)

def execArrreset (ra rd : Reg) (s : State) : Out :=
  .next (s.onTile fun k => s.sources false .a [ra.toNat] fun s =>
    s.selected k (s.reg ra.toNat) fun ch b h => s.destination rd.toNat fun s =>
      ((s.setHand k ch (h.clearBufs (· = b))).uncountBufs k h (· = b)).finish 4 rd.toNat (BitVec.ofNat 64 (nth 0 h.counts b)) 0)

/-- The chunks a mask names, as the mask of those whose bit is set; none where one lies beyond the buffer
(12: R236). -/
def Handler.maskSet (h : Handler) (b c : Nat) (mask : Word) : Option Nat :=
  if (span 0 64).any fun i => bit mask i && decide (bufCap (h.buf b) / 512 ≤ c + i) then none
  else some ((span 0 64).foldl (fun a i => a + b2n (bit mask i && Tab.get false (nth [] h.chunks b) (c + i)) * 2 ^ i) 0)

def execWaitmask (rb ra : Reg) (s : State) : Out :=
  .next (s.onTile fun k => s.sources false .a [ra.toNat, rb.toNat] fun s =>
    s.selected k (s.reg ra.toNat) fun _ b h =>
      let mask := s.reg rb.toNat
      match h.maskSet b (bits (s.reg ra.toNat) 7 11) mask with
      | none => s.trap { code := cBAD_DEPOSIT }
      | some m => if m = mask.toNat then s.retire 4 else s.block .arrival)

def execTestmask (rb ra rd : Reg) (s : State) : Out :=
  .next (s.onTile fun k => s.sources false .a [ra.toNat, rb.toNat] fun s =>
    s.selected k (s.reg ra.toNat) fun _ b h =>
      match h.maskSet b (bits (s.reg ra.toNat) 7 11) (s.reg rb.toNat) with
      | none => s.trap { code := cBAD_DEPOSIT }
      | some m => s.destination rd.toNat fun s => s.finish 4 rd.toNat (BitVec.ofNat 64 m) 0)

end Sys2Proof.Machine
end

