-- ==== Sys2Proof/Machine/Front.lean ====
section
/-! DEFINITION. The message front of a cluster (01: R17, R29; 07: R133, R139-R141; 09: R178-R180): preludes, deposits,
barriers, and completion signals (07: R137). -/

namespace Sys2Proof.Machine

/-! ### Barriers (07: R139, R140) -/

/-- An arrival with a target: the phase it belongs to and the barrier after it, or the cause (07: R140). -/
def Barrier.arrive (b : Barrier) (t : Nat) : Except Nat (Nat × Barrier) :=
  if t = 0 then .error cILLEGAL_OP
  else if b.target ≠ 0 && b.target ≠ t then .error cBARRIER_MISMATCH
  else if b.count + 1 = t then .ok (b.phase, { b with count := 0, target := 0, phase := (b.phase + 1) % 2 ^ 32 })
  else .ok (b.phase, { b with count := b.count + 1, target := t })

def Cluster.bar (c : Cluster) (i : Nat) : Barrier := Tab.get {} c.bars i
def State.setBar (s : State) (p i : Nat) (b : Barrier) : State :=
  let c := s.cluster p
  s.setCluster p { c with bars := Tab.put c.bars i b }

/-- A PARR source is listed in the partner table, a ninth distinct one sets OVER (17: R363). -/
def Barrier.partner (b : Barrier) (src : Nat) : Barrier :=
  if b.partners.contains src then b
  else if b.partners.length < 8 then { b with partners := b.partners ++ [src] } else { b with overBit := true }

/-- A phase has completed since `p` (07: R140). -/
def phasePast (phase p : Nat) : Bool :=
  let d := (phase + 2 ^ 32 - p % 2 ^ 32) % 2 ^ 32
  decide (1 ≤ d) && decide (d < 2 ^ 31)

/-! ### Completion signals (07: R137) -/

/-- The VC0 channel of a POST word; trap messages and reports use channel 0 (16: R335; log 22). -/
def chPost : Nat := 1
/-- The VC0 channel of a START word (01: R28; log 22). -/
def chStart : Nat := 2

/-- A POST word of `n` signals for a launch to its lead sequencer (07: R137). n = 0 sends nothing. -/
def State.post (s : State) (k launch n : Nat) : State :=
  if n = 0 then s
  else s.toIsland k (s.partOf (regionOf (corePos k))).lead chPost [BitVec.ofNat 64 n, BitVec.ofNat 64 launch]

/-! ### Preludes (09: R178-R180) -/

/-- A prelude word. -/
inductive PWord where
  | pdep (space off : Nat)
  | padd (b n : Nat)
  | psetf (space off : Nat)
  | parr (b t : Nat)
  | ppost (n : Nat)
  | pend
  deriving DecidableEq, Repr

/-- A prelude word read from its 32 bits (04: R83; 09: R179); none where it is not one. -/
def pword (w : BitVec 32) : Option PWord :=
  let h0 := bits w 0 16
  let h1 := bits w 16 16
  let p := h0 % 16384 + 16384 * (h1 % 16384)
  if halfClass h0 ≠ 3 || halfClass h1 ≠ 2 || p % 128 ≠ 0x5B then none
  else
    let place := (field p 24 1, 8 * field p 7 17)
    match field p 25 3 with
    | 0 => some (.pdep place.1 place.2)
    | 1 => if field p 9 4 = 0 then some (.padd (field p 7 2) (field p 13 12)) else none
    | 2 => some (.psetf place.1 place.2)
    | 3 => if field p 10 15 = 0 then none else some (.parr (field p 7 3) (field p 10 15))
    | 4 => if field p 23 2 = 0 then some (.ppost (field p 7 16)) else none
    | 5 => if field p 7 18 = 0 then some .pend else none
    | _ => none

/-- A range of a space that a prelude may write (09: R178, R179). -/
def spotOk (space off n : Nat) : Bool :=
  if space = 1 then decide (off + n ≤ 0x100000)
  else decide (off ≤ 65528) && decide (off + n ≤ 0x10000) && (n = 0 || decide (off + n ≤ 0x780) || decide (0x800 ≤ off))

/-- The checks of R178 over the words up to PEND: the first failing cause. `dep` a PDEP has come. -/
def State.preludeFault (s : State) (k ch len : Nat) : Bool → List (BitVec 32) → Option Nat
  | _, [] => none
  | dep, w :: t =>
    let h := (s.core k).hand ch
    match pword w with
    | none => some cPRELUDE_ILLEGAL
    | some .pend => none
    | some (.pdep sp off) =>
      if dep then some cPRELUDE_ILLEGAL
      else if !spotOk sp off len then some cBAD_DEPOSIT else s.preludeFault k ch len true t
    | some (.psetf sp off) =>
      if !spotOk sp off 8 || (sp = 0 && decide (off < 0x800)) then some cBAD_DEPOSIT else s.preludeFault k ch len dep t
    | some (.padd b _) => if !h.valid || h.nbuf ≤ b then some cBAD_DEPOSIT else s.preludeFault k ch len dep t
    | some (.ppost _) => if !h.valid then some cBAD_DEPOSIT else s.preludeFault k ch len dep t
    | some (.parr _ _) => s.preludeFault k ch len dep t

/-- How a prelude ended: whether the payload has been written, whether the message is dropped. -/
inductive Ran where
  | plain | deposited | dropped
  deriving DecidableEq, Repr

/-- Home of a prelude's place (09: R180). -/
def preludeHome (k sp off : Nat) : Nat := if sp = 1 then spadHome (corePos k) + off else tcmHome k + off

/-- The words in turn, each completing before the next begins (09: R178, R180). -/
def State.runPrelude (s : State) (k ch : Nat) (m : Msg) : Ran → List (BitVec 32) → Ran × State
  | r, [] => (r, s)
  | r, w :: t =>
    match pword w with
    | none => (r, s)
    | some .pend => (r, s)
    | some (.pdep sp off) =>
      (s.engineWrite (preludeHome k sp off) m.body fun j c => if j = k || sp = 1 then msgArrival m c else engArrival j c).runPrelude
        k ch m .deposited t
    | some (.padd b n) =>
      ((s.setHand k ch (((s.core k).hand ch).add b n)).settle k ch (msgArrival m ch)).runPrelude k ch m r t
    | some (.psetf sp off) => (s.setMemFull (preludeHome k sp off)).runPrelude k ch m r t
    | some (.parr b x) =>
      let p := corePos k
      let bar := ((s.cluster p).bar b).partner (srcPos m.w1)
      match bar.arrive x with
      | .ok (_, bar') => (s.setBar p b bar').runPrelude k ch m r t
      | .error c => (.dropped, (s.setBar p b bar).report p (regionOf p) c 1 0 m.w0 m.w1)
    | some (.ppost n) => (s.post k ((s.core k).hand ch).launch n).runPrelude k ch m r t

/-! ### Deposits (01: R17) -/

/-- The lowest declared buffer below its threshold (01: R17, step 4). -/
def Handler.target (h : Handler) : Option Nat :=
  (span 0 h.nbuf).find? fun b => decide (nth 0 h.counts b < bufThresh (h.buf b))

/-- A message under R17: none where it is held, else the state after it is consumed. -/
def State.deposit (s : State) (k ch : Nat) (m : Msg) : Option State :=
  let p := corePos k
  let h := (s.core k).hand ch
  if !h.valid then some (s.report p (regionOf p) cNO_HANDLER 1 0 m.w0 m.w1)
  else if h.life != .filling then none
  else if h.nbuf = 0 then some (s.setHand k ch { h with life := .ready, arrival := msgArrival m ch })
  else match h.target with
    | none => none
    | some b =>
      let n := m.body.length
      let d := h.buf b
      let at_ := nth 0 h.counts b
      if n = 0 then some s
      else if bufCap d < at_ + n then some (s.report p (regionOf p) cINPUT_OVERFLOW 1 0 m.w0 m.w1)
      else some (s.engineWrite (bufHome k d + at_) m.body fun _ c => msgArrival m c)

def State.inq (s : State) (p vc : Nat) : List Msg := Tab.get [] (s.cluster p).inq vc
def State.setInq (s : State) (p vc : Nat) (ms : List Msg) : State :=
  let c := s.cluster p
  s.setCluster p { c with inq := Tab.put c.inq vc ms }

/-- The armed RD slot that takes a message: VC, CH and DCORE match (14: R308). -/
def Cluster.rdMatch (c : Cluster) (m : Msg) : Option Nat :=
  (span 0 4).find? fun i =>
    let x : RdSlot := Tab.get {} c.rd i
    x.armed && bits x.ctl 2 3 = m.vc && bits x.ctl 5 5 = bits m.w0 19 5 && bits x.ctl 10 2 = bits m.w0 14 2

/-- Prelude words as they lie in a message, two to a word (09: R171). -/
def prelPairs : List (BitVec 32) → List Word
  | [] => []
  | [a] => [a.setWidth 64]
  | a :: b :: t => (((b.setWidth 64) <<< 32) ||| a.setWidth 64) :: prelPairs t

/-- The report of a prelude that fails its checks; after PRELUDE_ILLEGAL the prelude itself follows it (04: R83; 09: R178;
16: R337; log 119). -/
def State.preludeReport (s : State) (p cause : Nat) (m : Msg) : State :=
  s.toIsland (4 * p) (regionOf p) 0
    ([fields [(0, cause), (7, posX p), (14, posY p), (21, 1)], m.w0, m.w1, 0] ++
      if cause = cPRELUDE_ILLEGAL then prelPairs m.prel else [])

/-- The head of a VC's input queue meets the front (07: R133): held before START, its prelude run once, then
deposited, held or dropped. -/
def State.front (s : State) (p vc : Nat) : State :=
  match s.inq p vc with
  | [] => s
  | m :: rest =>
    let k := 4 * p + bits m.w0 14 2
    let ch := bits m.w0 19 5
    if !(s.core k).loading.isEmpty || ((s.cluster p).rdMatch m).isSome then s
    else
      let fault := if m.ran then none else s.preludeFault k ch m.body.length false m.prel
      match fault with
      | some c => (s.setInq p vc rest).preludeReport p c m
      | none =>
        let r := if m.ran then (Ran.plain, s) else s.runPrelude k ch m .plain m.prel
        match r.1 with
        | .plain =>
          match r.2.deposit k ch m with
          | some t => t.setInq p vc rest
          | none => r.2.setInq p vc ({ m with ran := true } :: rest)
        | _ => r.2.setInq p vc rest

/-- The core waits for the START of a launch no more (01: R28, R29). -/
def Core.started (c : Core) (launch : Nat) : Core := { c with loading := c.loading.filter (· ≠ launch) }

/-- The front can take the head of a VC's queue: it waits for no START and for no RD slot, and is not held (01: R17, R29;
07: R133). -/
def State.frontReady (s : State) (p vc : Nat) : Bool :=
  match s.inq p vc with
  | [] => false
  | m :: _ =>
    let k := 4 * p + bits m.w0 14 2
    (s.core k).loading.isEmpty && ((s.cluster p).rdMatch m).isNone && (!m.ran || (s.deposit k (bits m.w0 19 5) m).isSome)

/-- A START word stands at the head of VC0. -/
def State.startAt (s : State) (p : Nat) : Bool := (s.inq p 0).head?.any fun m => bits m.w0 19 5 = chStart

/-- The VC that the front serves next: VC0 first, then the others in round-robin after the one served last (07: R133). Of
VC1 to VC7 only the user VCs sink here. -/
def State.frontTurn (s : State) (p : Nat) : Option Nat :=
  if s.startAt p then some 0
  else ((span 0 7).map fun i => 1 + ((s.cluster p).frontLast + i) % 7).find? fun vc => decide (5 ≤ vc) && s.frontReady p vc

/-- The user VC whose head reached the cluster first (16: R341). -/
def State.firstCome (s : State) (p : Nat) : Option Nat :=
  (([5, 6, 7].flatMap fun vc => ((s.inq p vc).head?.map fun m => (m.no, vc)).toList).foldl
    (fun a x => match a with
      | none => some x
      | some y => some (if x.1 < y.1 then x else y)) none).map Prod.snd

/-- A message of a cluster that is being saved goes to its message area; one that finds no room there is dropped
(16: R341; log 51). -/
def State.capture (s : State) (p vc : Nat) : State :=
  match s.inq p vc with
  | [] => s
  | m :: rest =>
    let s := s.setInq p vc rest
    let c := s.cluster p
    let used := c.captured.foldl (fun n e => n + 64 * e.flits) 0
    if c.dropped = 0 && decide (used + 64 * m.flits ≤ 0x80000) then s.setCluster p { c with captured := c.captured ++ [m] }
    else (s.setCluster p { c with dropped := c.dropped + 1 }).report p (regionOf p) cINPUT_OVERFLOW 1 0 m.w0 m.w1

/-- Step 4 of R341 at the front: a message that R17 deposits is deposited; one that R17 would hold, and every later one,
is captured. -/
def State.frontSaving (s : State) (p vc : Nat) : State :=
  let t := s.front p vc
  if (s.cluster p).captured.isEmpty && decide ((t.inq p vc).length < (s.inq p vc).length) then t
  else if (s.cluster p).captured.isEmpty then t.capture p vc
  else s.capture p vc

/-- MESSAGE_DEPOSIT: a user VC's head, where it is its turn (01: R17; 07: R133); in arrival order while the partition is
saved (16: R341). -/
def execMessageDeposit (pos vc : Nat) (s : State) : Out :=
  .next (if s.savedOut pos then s
    else if s.preempted pos then (if s.firstCome pos = some vc then s.frontSaving pos vc else s)
    else if s.frontTurn pos = some vc && 5 ≤ vc then
      (s.setCluster pos { s.cluster pos with frontLast := vc }).front pos vc
    else s)

/-- The messages held for a channel of a core, in queue order, once its entry is FILLING again (01: R19): on each
user VC while the head is for it. -/
def State.depositHeld (s : State) (k ch vc : Nat) : Nat → State
  | 0 => s
  | n + 1 =>
    match s.inq (corePos k) vc with
    | [] => s
    | m :: _ =>
      if m.ran && bits m.w0 14 2 = coreNo k && bits m.w0 19 5 = ch then
        (s.front (corePos k) vc).depositHeld k ch vc n
      else s

/-- The START word of a launch reaches the cluster: the cores that it names wait for it no more (01: R28, R29;
07: R132). -/
def execClusterStart (pos : Nat) (s : State) : Out :=
  .next (match s.inq pos 0 with
    | m :: rest =>
      if bits m.w0 19 5 = chStart then
        let key := ofBytes (dropN 8 m.body)
        ((span 0 4).filter fun c => ofBytes (takeN 8 m.body) / 2 ^ c % 2 = 1).foldl (fun s c =>
          s.setCore (4 * pos + c) ((s.core (4 * pos + c)).started key)) (s.setInq pos 0 rest)
      else s
    | [] => s)

end Sys2Proof.Machine
end

