-- ==== Sys2Proof/Machine/Activation.lean ====
section
/-! DEFINITION. Starting and ending activations (01: R19, R20; 07: R131-R136), checkpoints of a lockstep pair
(16: R349), trace records (17: R373), and the instructions POST, HMASK, CBAR and DBGMARK (07: R137-R140). -/

namespace Sys2Proof.Machine

/-! ### Trace (17: R373) -/

/-- The VC1 channel of a trace record (log 22). -/
def chTrace : Nat := 1

/-- A trace record of an event: 0 start, 1 done, 2 repost, 3 ended, 4 mark. A core holds at most 4 unsent ones. -/
def State.trace (s : State) (k kind : Nat) (info : Option Word) : State :=
  let p := corePos k
  let c := s.core k
  if !(s.cluster p).traceOn then s
  else
    let no := (c.traceNo + 1) % 2 ^ 32
    let unsent := s.net.filter fun m => m.vc = 1 && m.at_ = p && m.dir = 5 && srcPos m.w1 = p && srcCore m.w1 = coreNo k
    if 4 ≤ unsent.length then s.setCore k { c with traceNo := no, traceLost := true }
    else
      let ch := c.ch.getD 0
      let h := c.hand ch
      let vc := if bit h.arrival 40 then 0 else bits h.arrival 21 3
      let s := s.setCore k { c with traceNo := no, traceLost := false }
      let w0 := fields [(0, posX p), (7, posY p), (14, coreNo k), (16, vc), (19, ch), (24, kind), (27, b2n c.traceLost),
        (32, no)]
      s.injectCore k { vc := 1, w0 := header0 (islandPos (regionOf p)) 0 1 chTrace 32 0,
                       body := bytesOf [w0, nth 0 h.words 0, c.cycle, info.getD c.instret] }

def execDbgmark (ra : Reg) (s : State) : Out :=
  .next (s.sources false .a [ra.toNat] fun s =>
    match s.cur with
    | .tile k => (s.trace k 4 (some (s.reg ra.toNat))).retire 4
    | .island _ => s.retire 4)

/-! ### Checkpoints (16: R349) -/

/-- Held stores and sends enter the store buffer and the send queue in program order; those that find no room stream in as
entries free (log 109). -/
def Core.releaseHeld (c : Core) : Core :=
  let st := c.held.filterMap fun h => match h with
    | .store b => some b
    | .send _ => none
  let sd := c.held.filterMap fun h => match h with
    | .send e => some e
    | .store _ => none
  Core.refill { c with held := [], stream := c.stream ++ st, sends := c.sends ++ sd }

/-- Operations of a core that cannot end before the island has answered a failure: those that a fault stopped, and those
that wait behind one, for its engine or for words that a failure still owes. -/
def State.heldUp (s : State) (k : Nat) : List EngOp :=
  let c := s.core k
  let share (h : List EngOp) (o : EngOp) : Bool := h.any fun g => g.engs.any o.engs.contains
  let h := ((s.cluster (corePos k)).inflightOf (coreNo k)).foldl (fun h o => if share h o then h ++ [o] else h)
    (c.stuck.map Prod.snd)
  let owed := ((c.failed.filter fun l => !l.store).map fun l => wordsCovering l.dst l.len) ++ h.flatMap EngOp.writes
  h ++ c.dispq.dropWhile fun o => !share h o && !(wordsIn o.reads).any (inRanges owed)

/-- Words that a failure owes: no checkpoint waits for them (log 108). -/
def State.owedByFailure (s : State) (k : Nat) : List (Nat × Nat) :=
  (((s.core k).failed.filter fun l => !l.store).map fun l => wordsCovering l.dst l.len) ++ (s.heldUp k).flatMap EngOp.writes

/-- The checkpoint of a pair, where no word of it is pending but those that a failure owes (16: R349). -/
def State.checkpoint (s : State) (k : Nat) : State :=
  let c := s.core k
  if c.pair ≠ .first || c.reg.pend.any (fun e => e.2 && !inRanges (s.owedByFailure k) e.1) then s
  else
    let sh : Shadow := { reg := c.reg, pc := c.pc, came := c.came, fcsr := c.fcsr, vbase := c.vbase, abase := c.abase,
                         pidx := c.pidx, tms := c.tms, fmts := c.fmts, seq := c.nextSeq }
    s.setCore k { c with shadow := sh, sinceCkpt := 0, ckptDue := false, mismatch := 0 }.releaseHeld

/-! ### Starting (07: R131, R132) -/

/-- The scheduler may select in the cluster: no HOLD, no vote withdrawn, no soft stop, no stopped core, no pre-emption
(07: R131, R134; 08: R166; 16: R341; 17: R360, R361). -/
def State.mayStart (s : State) (p : Nat) : Bool :=
  let r := regionOf p
  let c := s.cluster p
  !(s.region r).hold && !(s.region r).withdrawn && !c.soft && (span (4 * p) 4).all (fun k => (s.core k).stopped = 0) &&
    (((s.region r).tag = 0) || s.ctxState (s.region r).tag = 0)

/-- The entry may start (07: R131). -/
def Handler.eligible (h : Handler) : Bool := h.valid && h.life == .ready && !h.mask && !h.launchMask

/-- The entry of a channel may start: not before the START of its launch (01: R28; 07: R131). -/
def Core.mayRun (c : Core) (ch : Nat) : Bool := (c.hand ch).eligible && !c.loading.contains (c.hand ch).launch

/-- The channel the scheduler takes: highest priority, round-robin within it (07: R131). -/
def Core.select (c : Core) : Option Nat :=
  let chs := (span 0 32).filter c.mayRun
  let top := chs.foldl (fun a ch => max a (c.hand ch).prio) 0
  let ptr := nth 0 c.rr top
  ((span 0 32).map fun i => (ptr + i) % 32).find? fun ch => c.mayRun ch && (c.hand ch).prio = top

/-- Buffer 0 in the core map (01: R20). -/
def Handler.buf0 (h : Handler) : Word :=
  if h.nbuf = 0 then 0
  else BitVec.ofNat 64 ((if bufSpace (h.buf 0) = 1 then 0x100000 else 0) + bufOff (h.buf 0))

/-- An activation starts on a channel (01: R20; 07: R131). -/
def State.startOn (s : State) (k ch : Nat) : State :=
  let c := s.core k
  let h := c.hand ch
  let reg := (((c.reg.put 1 h.arrival).put 2 h.buf0).copySet 1 0).copySet 2 0
  let c : Core := { c with
    hands := Tab.put c.hands ch { h with life := .running }, rr := setNth c.rr h.prio ((ch + 1) % 32),
    ch := some ch, pc := nth 0 h.words 0, came := none, reg := reg, blocked := none, barWait := none }
  (((s.setCore k c).checkpoint k).trace k 0 none).mirror k

/-- The operating point of the core, or of a core of the pair, is changing (08: R160; 16: R347). -/
def State.pointMoves (s : State) (k : Nat) : Bool :=
  (s.core k).oppNew.isSome || ((s.core k).pair == .first && (s.core (k + 1)).oppNew.isSome)

/-- ACTIVATION_START (07: R131; 08: R160). -/
def execActivationStart (k : Nat) (s : State) : Out :=
  let c := s.core k
  .next (if c.pair == .second || c.ch.isSome || c.trapped.isSome || s.pointMoves k || !s.mayStart (corePos k) then s
    else match c.select with
      | some ch => s.startOn k ch
      | none => s)

/-! ### Ending (07: R135, R136; 01: R19) -/

/-- The running entry returns to FILLING: counts and chunks cleared, its words empty, then its held messages are
deposited (01: R19), those of VC5 first, then of VC6 and VC7 (DESIGN CHOICE; unsafe; log 124). -/
def State.endEntry (s : State) (k ch : Nat) : State :=
  let h := (s.core k).hand ch
  let s := (span 0 h.nbuf).foldl (fun s b => s.emptyBuf k (h.buf b)) s
  let s := (s.setHand k ch { h.clear with life := .filling }).uncountBufs k h fun _ => true
  [5, 6, 7].foldl (fun s vc => s.depositHeld k ch vc (s.inq (corePos k) vc).length) s

/-- The instruction at which the core waited is left: its waits are over (06: R105; 07: R140, R152). -/
def Core.leave (c : Core) : Core :=
  { c with barWait := none, blocked := none, leases := c.leases.map fun e => (e.1, { e.2 with yieldDone := none }) }

/-- The activation ends and the core is idle (01: R13, R19). -/
def State.endActivation (s : State) (k kind : Nat) : State :=
  match (s.core k).ch with
  | none => s
  | some ch =>
    let s := s.trace k kind none
    let s := s.endEntry k ch
    let c := s.core k
    (s.setCore k { c.leave with ch := none, came := none, link := none }).mirror k

/-- What DONE waits for (07: R135, step 1): no pending word, an empty dispatch queue, every operation complete. -/
def State.quiet (s : State) (k : Nat) : Bool :=
  !((s.core k).reg.pend.any fun e => e.2) && (s.opsOf k).isEmpty

/-- DONE and DONE.REPOST up to their end (07: R135, R136). -/
def State.doneWith (s : State) (len : Nat) (go : Nat → State → State) : State :=
  s.onTile fun k =>
    if !s.quiet k then s.block .engines
    else s.flagTrap fun s => go k (s.retire len)

def execDone (s : State) : Out := .next (s.doneWith 4 fun k s => s.endActivation k 1)
def execDoneQ (s : State) : Out := .next (s.doneWith 2 fun k s => s.endActivation k 1)

/-- DONE.REPOST: the entry is READY again at once, its arrival state as it was (07: R136). -/
def execDoneRepost (s : State) : Out :=
  .next (s.doneWith 4 fun k s =>
    match (s.core k).ch with
    | none => s
    | some ch =>
      let s := s.trace k 2 none
      let c := s.core k
      let h := c.hand ch
      (s.setCore k { c with hands := Tab.put c.hands ch { h with life := .ready },
                            ch := none, came := none, barWait := none }).mirror k)

/-! ### POST, HMASK, CBAR -/

/-- POST raises completion signals for the running activation's launch (07: R137). -/
def execPost (ra : Reg) (s : State) : Out :=
  .next (s.onTile fun k => s.sources false .a [ra.toNat] fun s =>
    let c := s.core k
    let launch := (c.ch.map fun ch => (c.hand ch).launch).getD 0
    (s.post k launch (bits (s.reg ra.toNat) 0 16)).retire 4)

/-- HMASK changes MASK bits of valid entries (07: R138). -/
def execHmask (rb ra rd : Reg) (s : State) : Out :=
  .next (s.onTile fun k => s.sources false .a [ra.toNat, rb.toNat] fun s => s.destination rd.toNat fun s =>
    let c := s.core k
    let old := c.masks
    let sel := s.reg rb.toNat
    let val := s.reg ra.toNat
    let hands := (span 0 32).foldl (fun t ch =>
      let h := c.hand ch
      if h.valid && bit sel ch then
        let w1 := (nth 0 h.words 1 &&& ~~~8) ||| (if bit val ch then 8 else 0)
        Tab.put t ch { h with words := setNth h.words 1 w1 }
      else t) c.hands
    (s.setCore k { c with hands := hands }).finish 4 rd.toNat (BitVec.ofNat 64 old) 0)

/-- The arrival of a core on a barrier: a release at `.clu`; both traps make no arrival (07: R140, R141). -/
def State.coreArrive (s : State) (k i t : Nat) (go : Nat → State → State) : State :=
  let p := corePos k
  let b := (s.cluster p).bar i
  if (s.core k).unperformed 2 then s.block .performed
  else match b.arrive t with
    | .error c => s.trap { code := c, detail := if c = cBARRIER_MISMATCH then fields [(0, b.target), (16, t)] else 0 }
    | .ok (ph, b') => go ph (s.setBar p i b')

def execCbarArrive (rb ra rd : Reg) (s : State) : Out :=
  .next (s.onTile fun k => s.sources false .a [ra.toNat, rb.toNat] fun s => s.destination rd.toNat fun s =>
    s.coreArrive k (bits (s.reg ra.toNat) 0 3) (bits (s.reg rb.toNat) 0 16) fun ph s =>
      s.finish 4 rd.toNat (BitVec.ofNat 64 ph) 0)

def execCbarWait (rb ra : Reg) (s : State) : Out :=
  .next (s.onTile fun k => s.sources false .a [ra.toNat, rb.toNat] fun s =>
    if phasePast ((s.cluster (corePos k)).bar (bits (s.reg ra.toNat) 0 3)).phase (bits (s.reg rb.toNat) 0 32)
    then s.retire 4 else s.block .barrier)

/-- The wait of an ARRIVEWAIT whose arrival has been made in a phase (07: R140). -/
def State.barrierWait (s : State) (k i ph rd : Nat) : State :=
  if phasePast ((s.cluster (corePos k)).bar i).phase ph then
    (s.setCore k { s.core k with barWait := none }).finish 4 rd (BitVec.ofNat 64 ph) 0
  else (s.setCore k { s.core k with barWait := some (i, ph) }).block .barrier

def execCbarArrivewait (rb ra rd : Reg) (s : State) : Out :=
  .next (s.onTile fun k => s.sources false .a [ra.toNat, rb.toNat] fun s => s.destination rd.toNat fun s =>
    match (s.core k).barWait with
    | some (i, ph) => s.barrierWait k i ph rd.toNat
    | none =>
      let i := bits (s.reg ra.toNat) 0 3
      s.coreArrive k i (bits (s.reg rb.toNat) 0 16) fun ph s => s.barrierWait k i ph rd.toNat)

end Sys2Proof.Machine
end

