-- ==== Sys2Proof/Machine/Crypto.lean ====
section
/-! DEFINITION. The functions that firmware acceptance and attestation name (18: R384, R385): SHA-512 and ECDSA on P-521, as
their public standards define them (log 13). -/

namespace Sys2Proof.Machine

/-! ### SHA-512 -/

/-- Round constants 0-15 of SHA-512. -/
def sha512K0 : List Word :=
  [0x428A2F98D728AE22, 0x7137449123EF65CD, 0xB5C0FBCFEC4D3B2F, 0xE9B5DBA58189DBBC,
   0x3956C25BF348B538, 0x59F111F1B605D019, 0x923F82A4AF194F9B, 0xAB1C5ED5DA6D8118,
   0xD807AA98A3030242, 0x12835B0145706FBE, 0x243185BE4EE4B28C, 0x550C7DC3D5FFB4E2,
   0x72BE5D74F27B896F, 0x80DEB1FE3B1696B1, 0x9BDC06A725C71235, 0xC19BF174CF692694]

/-- Round constants 16-31 of SHA-512. -/
def sha512K1 : List Word :=
  [0xE49B69C19EF14AD2, 0xEFBE4786384F25E3, 0x0FC19DC68B8CD5B5, 0x240CA1CC77AC9C65,
   0x2DE92C6F592B0275, 0x4A7484AA6EA6E483, 0x5CB0A9DCBD41FBD4, 0x76F988DA831153B5,
   0x983E5152EE66DFAB, 0xA831C66D2DB43210, 0xB00327C898FB213F, 0xBF597FC7BEEF0EE4,
   0xC6E00BF33DA88FC2, 0xD5A79147930AA725, 0x06CA6351E003826F, 0x142929670A0E6E70]

/-- Round constants 32-47 of SHA-512. -/
def sha512K2 : List Word :=
  [0x27B70A8546D22FFC, 0x2E1B21385C26C926, 0x4D2C6DFC5AC42AED, 0x53380D139D95B3DF,
   0x650A73548BAF63DE, 0x766A0ABB3C77B2A8, 0x81C2C92E47EDAEE6, 0x92722C851482353B,
   0xA2BFE8A14CF10364, 0xA81A664BBC423001, 0xC24B8B70D0F89791, 0xC76C51A30654BE30,
   0xD192E819D6EF5218, 0xD69906245565A910, 0xF40E35855771202A, 0x106AA07032BBD1B8]

/-- Round constants 48-63 of SHA-512. -/
def sha512K3 : List Word :=
  [0x19A4C116B8D2D0C8, 0x1E376C085141AB53, 0x2748774CDF8EEB99, 0x34B0BCB5E19B48A8,
   0x391C0CB3C5C95A63, 0x4ED8AA4AE3418ACB, 0x5B9CCA4F7763E373, 0x682E6FF3D6B2B8A3,
   0x748F82EE5DEFB2FC, 0x78A5636F43172F60, 0x84C87814A1F0AB72, 0x8CC702081A6439EC,
   0x90BEFFFA23631E28, 0xA4506CEBDE82BDE9, 0xBEF9A3F7B2C67915, 0xC67178F2E372532B]

/-- Round constants 64-79 of SHA-512. -/
def sha512K4 : List Word :=
  [0xCA273ECEEA26619C, 0xD186B8C721C0C207, 0xEADA7DD6CDE0EB1E, 0xF57D4F7FEE6ED178,
   0x06F067AA72176FBA, 0x0A637DC5A2C898A6, 0x113F9804BEF90DAE, 0x1B710B35131C471B,
   0x28DB77F523047D84, 0x32CAAB7B40C72493, 0x3C9EBE0A15C9BEBC, 0x431D67C49C100D4C,
   0x4CC5D4BECB3E42B6, 0x597F299CFC657E2A, 0x5FCB6FAB3AD6FAEC, 0x6C44198C4A475817]

/-- The round constants of SHA-512. -/
def sha512K : List Word := sha512K0 ++ sha512K1 ++ sha512K2 ++ sha512K3 ++ sha512K4

/-- The eight working words of SHA-512. -/
structure Sha where
  a : Word
  b : Word
  c : Word
  d : Word
  e : Word
  f : Word
  g : Word
  h : Word
  deriving DecidableEq, Repr

/-- The first hash value of SHA-512. -/
def Sha.first : Sha :=
  ⟨0x6A09E667F3BCC908, 0xBB67AE8584CAA73B, 0x3C6EF372FE94F82B, 0xA54FF53A5F1D36F1,
   0x510E527FADE682D1, 0x9B05688C2B3E6C1F, 0x1F83D9ABFB41BD6B, 0x5BE0CD19137E2179⟩

def Sha.plus (x y : Sha) : Sha :=
  ⟨x.a + y.a, x.b + y.b, x.c + y.c, x.d + y.d, x.e + y.e, x.f + y.f, x.g + y.g, x.h + y.h⟩

/-- One round, with its constant plus its message word. -/
def Sha.round (x : Sha) (kw : Word) : Sha :=
  let r (v : Word) (n : Nat) : Word := v.rotateRight n
  let t1 := x.h + (r x.e 14 ^^^ r x.e 18 ^^^ r x.e 41) + ((x.e &&& x.f) ^^^ (~~~x.e &&& x.g)) + kw
  let t2 := (r x.a 28 ^^^ r x.a 34 ^^^ r x.a 39) + ((x.a &&& x.b) ^^^ (x.a &&& x.c) ^^^ (x.b &&& x.c))
  ⟨t1 + t2, x.a, x.b, x.c, x.d + t1, x.e, x.f, x.g⟩

/-- `n` further message words before those of a list, the latest first. -/
def shaWords : Nat → List Word → List Word
  | 0, ws => ws
  | n + 1, ws =>
    let x := nth 0 ws 14
    let y := nth 0 ws 1
    let w := (y.rotateRight 19 ^^^ y.rotateRight 61 ^^^ y >>> 6) + nth 0 ws 6 +
      (x.rotateRight 1 ^^^ x.rotateRight 8 ^^^ x >>> 7) + nth 0 ws 15
    shaWords n (w :: ws)

/-- The number that bytes spell, the first the highest. -/
def bigEndian (bs : List Byte) : Nat := ofBytes bs.reverse

/-- A block of 128 bytes. -/
def Sha.block (x : Sha) (bs : List Byte) : Sha :=
  let first := (span 0 16).map fun i => (BitVec.ofNat 64 (bigEndian (takeN 8 (dropN (8 * i) bs))) : Word)
  let ws := (shaWords 64 first.reverse).reverse
  x.plus ((sha512K.zip ws).foldl (fun x e => x.round (e.1 + e.2)) x)

def Sha.blocks (x : Sha) : Nat → List Byte → Sha
  | 0, _ => x
  | n + 1, bs => (x.block bs).blocks n (dropN 128 bs)

/-- The message with its padding: a bit 1, zeros, and its length in bits as 16 bytes. -/
def shaPadded (bs : List Byte) : List Byte :=
  bs ++ [0x80#8] ++ toBytes ((239 - bs.length % 128) % 128) 0 ++ (toBytes 16 (8 * bs.length)).reverse

/-- SHA-512 of a byte string, as 64 bytes. -/
def sha512 (bs : List Byte) : List Byte :=
  let m := shaPadded bs
  let x := Sha.first.blocks (m.length / 128) m
  [x.a, x.b, x.c, x.d, x.e, x.f, x.g, x.h].flatMap fun w => (toBytes 8 w.toNat).reverse

/-- SHA-512 as a register of 64 bytes holds it. -/
def digest (bs : List Byte) : BitVec 512 := BitVec.ofNat 512 (ofBytes (sha512 bs))

/-! ### ECDSA on P-521 -/

/-- The field of P-521 has 2^521 - 1 elements. -/
def p521 : Nat := 2 ^ 521 - 1

/-- The order of the base point. -/
def p521n : Nat :=
  0x1FFFFFFFFFFFFFFFFFFFFFFFFFFFFFFFFFFFFFFFFFFFFFFFFFFFFFFFFFFFFFFFFFA51868783BF2F966B7FCC0148F709A5D03BB5C9B8899C47AEBB6FB71E91386409

/-- The coefficient b of the curve y^2 = x^3 - 3x + b. -/
def p521b : Nat :=
  0x51953EB9618E1C9A1F929A21A0B68540EEA2DA725B99B315F3B8B489918EF109E156193951EC7E937B1652C0BD3BB1BF073573DF883D2C34F1EF451FD46B503F00

/-- The base point, x. -/
def p521x : Nat :=
  0xC6858E06B70404E9CD9E3ECB662395B4429C648139053FB521F828AF606B4D3DBAA14B5E77EFE75928FE1DC127A2FFA8DE3348B3C1856A429BF97E7E31C2E5BD66

/-- The base point, y. -/
def p521y : Nat :=
  0x11839296A789A3BC0045C8A5FB42C7D1BD998F54449579B446817AFBD17273E662C97EE72995EF42640C550B9013FAD0761353C7086A272C24088BE94769FD16650

def fAdd (a b : Nat) : Nat := (a + b) % p521
def fSub (a b : Nat) : Nat := (a + p521 - b % p521) % p521
def fMul (a b : Nat) : Nat := a * b % p521

/-- `b` to the power `e`, modulo `m`; `e` has at most as many bits as the first argument says. -/
def powMod (m : Nat) : Nat → Nat → Nat → Nat
  | 0, _, _ => 1 % m
  | n + 1, b, e =>
    let r := powMod m n (b * b % m) (e / 2)
    if e % 2 = 1 then b * r % m else r

/-- The inverse modulo a prime below 2^521. -/
def inverseMod (m a : Nat) : Nat := powMod m 521 (a % m) (m - 2)

/-- A point of the curve as X, Y, Z with x = X/Z^2 and y = Y/Z^3; Z is 0 for the point at infinity. -/
structure Point where
  x : Nat := 1
  y : Nat := 1
  z : Nat := 0
  deriving DecidableEq, Repr

def Point.double (p : Point) : Point :=
  if p.z = 0 || p.y = 0 then {}
  else
    let yy := fMul p.y p.y
    let s := fMul 4 (fMul p.x yy)
    let zz := fMul p.z p.z
    let m := fMul 3 (fSub (fMul p.x p.x) (fMul zz zz))
    let x := fSub (fMul m m) (fMul 2 s)
    { x := x, y := fSub (fMul m (fSub s x)) (fMul 8 (fMul yy yy)), z := fMul 2 (fMul p.y p.z) }

def Point.add (p q : Point) : Point :=
  if p.z = 0 then q
  else if q.z = 0 then p
  else
    let pz := fMul p.z p.z
    let qz := fMul q.z q.z
    let u := fMul p.x qz
    let s := fMul p.y (fMul qz q.z)
    let h := fSub (fMul q.x pz) u
    let r := fSub (fMul q.y (fMul pz p.z)) s
    if h = 0 then (if r = 0 then p.double else {})
    else
      let hh := fMul h h
      let hhh := fMul h hh
      let v := fMul u hh
      let x := fSub (fSub (fMul r r) hhh) (fMul 2 v)
      { x := x, y := fSub (fMul r (fSub v x)) (fMul s hhh), z := fMul h (fMul p.z q.z) }

/-- A point times a number of at most as many bits as the first argument says. -/
def Point.times : Nat → Nat → Point → Point
  | 0, _, _ => {}
  | n + 1, k, p =>
    let r := Point.times n (k / 2) p.double
    if k % 2 = 1 then r.add p else r

/-- The x coordinate of a point other than infinity. -/
def Point.affineX (p : Point) : Nat :=
  let i := inverseMod p521 p.z
  fMul p.x (fMul i i)

def Point.base : Point := { x := p521x, y := p521y, z := 1 }

/-- The coordinates lie on the curve. -/
def onCurve (x y : Nat) : Bool :=
  decide (x < p521) && decide (y < p521) && fMul y y = fAdd (fSub (fMul x (fMul x x)) (fMul 3 x)) p521b

/-- An uncompressed public key of 133 bytes verifies a signature of 132 bytes, r then s, over SHA-512 of a message. -/
def verifies (key msg sig : List Byte) : Bool :=
  let x := bigEndian (takeN 66 (dropN 1 key))
  let y := bigEndian (takeN 66 (dropN 67 key))
  let r := bigEndian (takeN 66 sig)
  let s := bigEndian (takeN 66 (dropN 66 sig))
  let w := inverseMod p521n s
  let u := bigEndian (sha512 msg) * w % p521n
  let v := r * w % p521n
  let q := (Point.times 521 u Point.base).add (Point.times 521 v { x := x, y := y, z := 1 })
  key.length = 133 && nth 0 key 0 = 4#8 && onCurve x y && decide (0 < r) && decide (r < p521n) && decide (0 < s) &&
    decide (s < p521n) && q.z ≠ 0 && q.affineX % p521n = r

/-- The signature of a message with a private key and a number used once, r then s, each 66 bytes. -/
def signature (d k : Nat) (msg : List Byte) : List Byte :=
  let r := (Point.times 521 k Point.base).affineX % p521n
  let s := inverseMod p521n k * ((bigEndian (sha512 msg) + r * d) % p521n) % p521n
  (toBytes 66 r).reverse ++ (toBytes 66 s).reverse

end Sys2Proof.Machine
end

