-- ==== Sys2Proof/Machine/Send.lean ====
section
/-! DEFINITION. Sending (09: R175, R176): SEND, SENDV, SENDP and the send port. -/

namespace Sys2Proof.Machine

/-- The header that a send names is refused (09: R176, step 2). `plain` for SEND and SENDV. -/
def badHeader (h : Word) (plain : Bool) : Bool :=
  bits h 43 21 ≠ 0 || decide (bits h 16 3 < 5) || decide (96 ≤ bits h 7 7) || decide (4 < bits h 40 3) ||
    (plain && bits h 40 3 ≠ 0)

/-- Bytes of the prelude area (09: R171). -/
def preludeBytes (h : Word) : Nat := 8 * ((bits h 40 3 + 1) / 2)

/-- `n` bytes lie wholly in the own TCM or wholly in the own scratchpad (09: R176, step 3). -/
def ownRange (a : Word) (n : Nat) : Bool :=
  decide (a.toNat + n ≤ 0x10000) || (decide (0x100000 ≤ a.toNat) && decide (a.toNat + n ≤ 0x200000))

/-- Home of an address of a range that `ownRange` allows. -/
def ownHome (k : Nat) (a : Word) : Nat :=
  if a.toNat < 0x10000 then tcmHome k + a.toNat else spadHome (corePos k) + (a.toNat - 0x100000)

/-- The entry takes its place in the queue; in a pair it is held until the checkpoint (09: R175; 16: R349). -/
def State.queueSend (s : State) (k : Nat) (e : SendEntry) : State :=
  let c := s.core k
  if c.pair = .first then
    if 32 < c.held.length + 1 then s.block .checkpoint
    else (s.setCore k { c with held := c.held ++ [.send { e with seq := c.nextSeq }], nextSeq := c.nextSeq + 1 }).retire 4
  else if 4 ≤ c.sendq.length + c.sends.length then s.block .sendQueue
  else (s.setCore k { c with sendq := c.sendq ++ [{ e with seq := c.nextSeq }], nextSeq := c.nextSeq + 1 }).retire 4

/-- The own address of a payload that `pre` bytes of prelude precede (09: R171, R176). -/
def State.payload (s : State) (p : Nat) (a : Word) (pre : Nat) : Word :=
  if pre = 0 then s.own p a else s.own p (a - BitVec.ofNat 64 pre) + BitVec.ofNat 64 pre

/-- SEND and SENDP (09: R176). -/
def State.sendFrom (s : State) (k : Nat) (plain : Bool) (h a n : Word) : State :=
  let pre := if plain then 0 else preludeBytes h
  let p := corePos k
  if badHeader h plain || decide (65535 < n.toNat) then s.trap { code := cBAD_HEADER }
  else if decide (0 < n.toNat) && !ownRange (s.own p a) n.toNat then s.trap { code := cBAD_ADDRESS, addr := a }
  else if decide (0 < pre) && !ownRange (s.own p (a - BitVec.ofNat 64 pre)) pre then
    s.trap { code := cBAD_ADDRESS, addr := a - BitVec.ofNat 64 pre }
  else s.queueSend k { hdr := h, addr := s.payload p a pre, len := n.toNat, pcnt := if plain then 0 else bits h 40 3 }

def execSend (rb ra rd : Reg) (s : State) : Out :=
  .next (s.onTile fun k => s.sources false .m [ra.toNat, rb.toNat, rd.toNat] fun s =>
    s.sendFrom k true (s.reg ra.toNat) (s.reg rb.toNat) (s.reg rd.toNat))

def execSendp (rb ra rd : Reg) (s : State) : Out :=
  .next (s.onTile fun k => s.sources false .m [ra.toNat, rb.toNat, rd.toNat] fun s =>
    s.sendFrom k false (s.reg ra.toNat) (s.reg rb.toNat) (s.reg rd.toNat))

/-- SENDV keeps a snapshot of the 256 bytes of vN (09: R176). -/
def execSendv (vn : VReg) (ra : Reg) (s : State) : Out :=
  .next (s.onTile fun k => s.sources false .m [ra.toNat] fun s =>
    let h := s.reg ra.toNat
    let c := s.core k
    let b := vbyte c.vbase.toNat vn.toNat
    if badHeader h true then s.trap { code := cBAD_HEADER }
    else match (span (b / 8) 32).find? fun w => c.reg.isEmpty w with
      | some w => s.block (.regWord w)
      | none => s.queueSend k { hdr := h, len := 256, snap := some (c.reg.bytes b 256) })

/-- What the head of the send queue waits for: every earlier store, atomic and ordered access of the core's region
(09: R175, step 1), every earlier LDACQ and acquiring atomic in whose scope the destination cluster's memory lies
(15: R311, R320, R321). -/
def Core.sendWaits (c : Core) (p : Nat) (e : SendEntry) : Bool :=
  (c.accesses.any fun l => decide (l.seq < e.seq) && !l.performed && l.acquires (sendScope p e.hdr)) ||
  (c.buffered.any fun b => decide (b.seq < e.seq) && decide (b.home ≤ 3)) ||
  (c.sbHeld.any fun b => decide (b.seq < e.seq) && decide (b.home ≤ 3)) ||
  c.accesses.any fun l => decide (l.seq < e.seq) && !l.performed && decide (l.home ≤ 3) &&
    (l.store || l.isAtomic || l.acc.kind = 6)

/-- Words of a prelude area (09: R171). -/
def preludeWords (bs : List Byte) : Nat → List (BitVec 32)
  | 0 => []
  | n + 1 => BitVec.ofNat 32 (ofBytes (takeN 4 bs)) :: preludeWords (dropN 4 bs) n

/-- The message of an entry, as memory stands: LEN is written by the device (09: R175, R176). -/
def State.sendMsg (s : State) (k : Nat) (e : SendEntry) : Msg :=
  let pre := 8 * ((e.pcnt + 1) / 2)
  let w0 := (e.hdr &&& ~~~(0xFFFF#64 <<< 24)) ||| (BitVec.ofNat 64 e.len <<< 24)
  let body := e.snap.getD (Mem.readBytes s.mem (ownHome k e.addr) e.len)
  let prel := preludeWords (Mem.readBytes s.mem (ownHome k (e.addr - BitVec.ofNat 64 pre)) pre) e.pcnt
  { vc := bits w0 16 3, w0 := w0, prel := prel, body := body }

/-- Bytes that the port reads are counted where single-bit errors are corrected (10: R190). -/
def State.countSend (s : State) (k : Nat) (e : SendEntry) : State :=
  let pre := 8 * ((e.pcnt + 1) / 2)
  let r := regionOf (corePos k)
  let s := if e.snap.isSome || e.len = 0 then s else s.countEcc r (ownHome k e.addr) e.len
  if pre = 0 then s else s.countEcc r (ownHome k (e.addr - BitVec.ofNat 64 pre)) pre

/-- SEND_INJECT: the port serves the head of its queue where the local router port has room, once an earlier LDFE has ended
(09: R173, R175; 10: R205; log 139). -/
def execSendInject (k : Nat) (s : State) : Out :=
  let c := s.core k
  .next (match c.sendq with
    | [] => s
    | e :: rest =>
      let m := s.sendMsg k e
      if c.sendWaits (corePos k) e || s.ldfeBefore k e.seq || s.preempted (corePos k) || !s.portRoom (corePos k) m then s
      else ((s.setCore k (Core.refill { c with sendq := rest })).countSend k e).enterCore k m)

end Sys2Proof.Machine
end

