-- ==== Sys2Proof/Machine/Copy.lean ====
section
/-! DEFINITION. The copy engine, tensor maps and headbox patterns (12: R237-R253), and FMTSET (11: R218). -/

namespace Sys2Proof.Machine

/-! ### Tensor maps (12: R245-R248) -/

abbrev TMap := BitVec 512

def TMap.field (t : TMap) (word lo n : Nat) : Nat := bits t (64 * word + lo) n
def TMap.base (t : TMap) : Nat := t.field 0 0 64
def TMap.rank (t : TMap) : Nat := t.field 3 32 3
def TMap.ew (t : TMap) : Nat := t.field 3 35 4
def TMap.order (t : TMap) : Nat := t.field 3 39 15
def TMap.win (t : TMap) : Bool := t.field 3 54 1 = 1
/-- Element width in bits. -/
def TMap.width (t : TMap) : Nat := 2 ^ (t.ew - 1)

/-- The extent of dimension d, 1 beyond the rank (12: R246). -/
def TMap.size (t : TMap) (d : Nat) : Nat :=
  if t.rank ≤ d then 1
  else match d with
    | 0 => t.field 1 0 24
    | 1 => t.field 1 24 24
    | 2 => t.field 2 0 24
    | 3 => t.field 2 24 24
    | _ => t.field 3 0 24

/-- Box extent − 1 of dimension d, 0 beyond the rank. -/
def TMap.box (t : TMap) (d : Nat) : Nat :=
  if t.rank ≤ d then 0
  else match d with
    | 0 => t.field 1 48 8
    | 1 => t.field 1 56 8
    | 2 => t.field 2 48 8
    | 3 => t.field 2 56 8
    | _ => t.field 3 24 8

/-- Byte distance of consecutive indices of dimension d ≥ 1, 0 beyond the rank. -/
def TMap.stride (t : TMap) (d : Nat) : Nat :=
  if t.rank ≤ d then 0
  else match d with
    | 1 => t.field 4 0 32
    | 2 => t.field 4 32 32
    | 3 => t.field 5 0 32
    | 4 => t.field 5 32 32
    | _ => 0

/-- Dimension delivered at place i, place 0 varying fastest. -/
def TMap.dim (t : TMap) (i : Nat) : Nat := if t.order = 0 then i else t.field 3 (39 + 3 * i) 3

/-- The descriptor is valid (12: R246). -/
def TMap.valid (t : TMap) : Bool :=
  let unit := max 1 (t.width / 8)
  t.field 3 55 9 = 0 && t.field 6 28 4 = 0 && t.field 6 56 8 = 0 &&
  decide (1 ≤ t.rank) && decide (t.rank ≤ 5) && decide (1 ≤ t.ew) && decide (t.ew ≤ 7) &&
  (span 0 t.rank).all (fun d => decide (1 ≤ t.size d)) &&
  (t.order = 0 || (span 0 5).all fun d => (span 0 5).any fun i => t.dim i = d) &&
  t.base % unit = 0 && (span 1 4).all (fun d => t.stride d % unit = 0) &&
  (if t.win then t.rank = 4 && t.order = 0 && t.box 2 = 0 && t.box 3 = 0 else t.field 6 0 64 = 0)

/-- Where an element of a box lies: a byte address and the bit in it, or FILL (12: R247, R248). -/
inductive Place where
  | fill
  | at_ (addr : Word) (bitIn : Nat)
  deriving DecidableEq, Repr

/-- The element at coordinates (12: R247). -/
def TMap.element (t : TMap) (q : List Int) : Place :=
  if (span 0 5).any fun d => decide (nth 0 q d < 0) || decide ((t.size d : Int) ≤ nth 0 q d) then .fill
  else
    let i := fun d => (nth 0 q d).toNat
    let b := i 0 * t.width
    .at_ (BitVec.ofNat 64 (t.base + b / 8 + (span 1 4).foldl (fun a d => a + i d * t.stride d) 0)) (b % 8)

/-- Element (i, j) of the virtual matrix of a window map (12: R248). -/
def TMap.window (t : TMap) (i j : Int) : Place :=
  let f := fun lo n => t.field 6 lo n
  if i < 0 || j < 0 then .fill
  else
    let i := i.toNat
    let j := j.toNat
    let ow1 := f 32 12 + 1
    let oh1 := f 44 12 + 1
    let ow := i % ow1
    let oh := i / ow1 % oh1
    let n := i / (ow1 * oh1)
    let c := j % t.size 0
    let kw := j / t.size 0 % (f 4 4 + 1)
    let kh := j / (t.size 0 * (f 4 4 + 1))
    let h : Int := (oh * (f 8 3 + 1) : Nat) - (f 20 4 : Int) + (kh * (f 14 3 + 1) : Nat)
    let x : Int := (ow * (f 11 3 + 1) : Nat) - (f 24 4 : Int) + (kw * (f 17 3 + 1) : Nat)
    if t.size 3 ≤ n || f 0 4 < kh || h < 0 || (t.size 2 : Int) ≤ h || x < 0 || (t.size 1 : Int) ≤ x then .fill
    else
      let b := c * t.width
      .at_ (BitVec.ofNat 64 (t.base + b / 8 + x.toNat * t.stride 1 + h.toNat * t.stride 2 + n * t.stride 3)) (b % 8)

/-- Elements of a box. -/
def TMap.count (t : TMap) : Nat := (span 0 5).foldl (fun a d => a * (t.box d + 1)) 1

/-- Element number e of a box from q, in delivery order (12: R247, R248). -/
def TMap.place (t : TMap) (q : List Int) (e : Nat) : Place :=
  if t.win then
    let cols := t.box 0 + 1
    t.window (nth 0 q 1 + (e / cols : Nat)) (nth 0 q 0 + (e % cols : Nat))
  else
    let step := fun (acc : Nat × List Int) i =>
      let d := t.dim i
      let n := t.box d + 1
      (acc.1 / n, setNth acc.2 d (nth 0 acc.2 d + (acc.1 % n : Nat)))
    t.element ((span 0 5).foldl step (e, q ++ [0, 0, 0, 0, 0])).2

/-- Bytes of a packed box (12: R247). -/
def TMap.packed (t : TMap) : Nat := (t.count * t.width + 7) / 8

/-- Signed 16-bit box coordinates from a word of four (12: R238; 13: R262). -/
def boxOf (w : Word) : List Int := (span 0 4).map fun i => sextNat (bits w (16 * i) 16) 16

/-! ### TMSET, TMGET, FMTSET -/

/-- The 64 bytes of a descriptor in memory (12: R249). -/
def State.tmOperand (s : State) (k : Nat) (a : Word) (u : Use) (go : Target → Nat → State) : State :=
  if a.toNat % 8 ≠ 0 then s.trap { code := cMISALIGNED, addr := a }
  else match s.operand (corePos k) a 64 u with
    | none => s.trap { code := cBAD_ADDRESS, addr := a }
    | some t => go t ((t.home k).getD 0)

def execTmset (ra : Reg) (tm : BitVec 4) (s : State) : Out :=
  .next (s.onTile fun k => s.sources false .d [ra.toNat] fun s =>
    let a := s.reg ra.toNat
    s.tmOperand k a .localLoad fun t h =>
      s.localRead k t a h 64 (wholeWords h 8) fun s ws =>
        let c := s.core k
        (s.setCore k { c with tms := Tab.put c.tms tm.toNat (BitVec.ofNat 512 (ofBytes (bytesOf ws))) }).retire 4)

/-- Reserved fields read as zero (00: R7); a descriptor that has them nonzero is invalid at use (12: R246). -/
def TMap.readable (t : TMap) : TMap :=
  t &&& ~~~(BitVec.ofNat 512 ((2 ^ 9 - 1) * 2 ^ (64 * 3 + 55) + (2 ^ 4 - 1) * 2 ^ (64 * 6 + 28) + (2 ^ 8 - 1) * 2 ^ (64 * 6 + 56)))

def execTmget (ra : Reg) (tm : BitVec 4) (s : State) : Out :=
  .next (s.onTile fun k => s.sources false .d [ra.toNat] fun s =>
    let a := s.reg ra.toNat
    s.tmOperand k a .localStore fun t _ =>
      if s.sendReads k t 64 then s.blockSend k
      else s.withRoom k 8 fun s =>
        let v := TMap.readable (Tab.get 0 (s.core k).tms tm.toNat)
        (s.enqueue k ((span 0 8).map fun i =>
          let ai := a + BitVec.ofNat 64 (8 * i)
          s.entry k ((s.window (corePos k) ai).getD t) ai 8 (BitVec.ofNat 64 (bits v (64 * i) 64)))).retire 4)

/-- FMTSET (11: R218). An island core has no format registers (log 21). -/
def execFmtset (ra : Reg) (fd : BitVec 3) (s : State) : Out :=
  .next (s.onTile fun k => s.sources false .a [ra.toNat] fun s =>
    let c := s.core k
    (s.setCore k { c with fmts := Tab.put c.fmts fd.toNat ((s.reg ra.toNat).setWidth 32) }).retire 4)

/-! ### Channels (12: R237, R243, R244) -/

def Cluster.chan (c : Cluster) (h : Nat) : Chan := Tab.get {} c.chans h
def State.setChan (s : State) (p h : Nat) (x : Chan) : State :=
  let c := s.cluster p
  s.setCluster p { c with chans := Tab.put c.chans h x }

/-- Code of a state in the status word (12: R244). -/
def ChanState.code : ChanState → Nat
  | .idle => 0 | .active => 1 | .parked => 2 | .fault => 3

/-- Status word of a channel (12: R244). -/
def Chan.status (x : Chan) : Word :=
  fields [(0, bits x.addr 0 24), (28, x.owner), (30, x.st.code), (32, x.prog),
    (40, if x.st = .fault then x.cause else 0), (48, x.recs % 65536)]

/-- A record lies in the owner's TCM at or above 0x0800 or in the own scratchpad (12: R238). -/
def recordSpot (a : Word) : Bool := ownRange a 64 && decide (0x800 ≤ a.toNat)

/-- The channel begins the record at an address, by an owner and for a launch. -/
def Chan.begin_ (x : Chan) (k launch : Nat) (a : Word) : Chan :=
  { x with st := .active, owner := coreNo k, launch := launch, addr := a, prog := 0, cause := 0, cache := [],
           started := false, sectors := [], failing := none, issued := none, hits := [] }

/-- A channel in FAULT restarts its record: it keeps its owner and launch, its lowest unfinished sector, and the bytes
that it has counted (12: R230, R241, R243, R244). -/
def Chan.again (x : Chan) : Chan :=
  { x.begin_ x.owner x.launch x.addr with restart := true, prog := x.prog, hits := x.hits }

/-- CPYGO on a channel: its state and the code (12: R243). A restart keeps the sectors done in DONEMAP. -/
def Chan.go (x : Chan) (k launch : Nat) (a : Word) : Chan × Nat :=
  match x.st with
  | .idle => if a = 0#64 then (x, 2) else ({ x.begin_ k launch a with recs := 0, restart := false }, 0)
  | .parked =>
    if x.owner ≠ coreNo k then (x, 1)
    else ({ x.begin_ k launch (if a = 0#64 then x.addr else a) with restart := false }, 0)
  | .fault =>
    if x.owner ≠ coreNo k then (x, 1)
    else if a = 0#64 then ({ x.again with launch := launch }, 0)
    else ({ x.begin_ k launch a with restart := false, inNotify := false }, 0)
  | .active => (x, 1)

/-- Launch of the running activation. -/
def Core.launchOf (c : Core) : Nat := (c.ch.map fun ch => (c.hand ch).launch).getD 0

def execCpygo (rb ra rd : Reg) (s : State) : Out :=
  .next (s.onTile fun k => s.sources false .d [ra.toNat, rb.toNat] fun s =>
    let a := s.reg ra.toNat
    let h := bits (s.reg rb.toNat) 0 2
    if a ≠ 0#64 && a.toNat % 64 ≠ 0 then s.trap { code := cMISALIGNED, addr := a }
    else if a ≠ 0#64 && !recordSpot (s.own (corePos k) a) then s.trap { code := cBAD_ADDRESS, addr := a }
    else s.destination rd.toNat fun s =>
      if (s.core k).unperformed 2 then s.block .performed
      else
        let r := ((s.cluster (corePos k)).chan h).go k (s.core k).launchOf (s.own (corePos k) a)
        (s.setChan (corePos k) h r.1).finish 4 rd.toNat (BitVec.ofNat 64 r.2) 0)

/-- A PIDX register without VALID. -/
def unValid (w : Word) : Word := w &&& ~~~(1#64 <<< 32)

/-- PIDX_CPY (05: R100; 12: R244): its VALID bit clears when CPYWAIT executes. -/
def State.clearCpy (s : State) (k : Nat) : State :=
  let c := s.core k
  s.setCore k { c with pidx := Tab.put c.pidx 8 (unValid (Tab.get 0 c.pidx 8)) }

def execCpywait (rb rd : Reg) (s : State) : Out :=
  .next (s.onTile fun k => s.sources false .d [rb.toNat] fun s =>
    let x := (s.cluster (corePos k)).chan (bits (s.reg rb.toNat) 0 2)
    s.destination rd.toNat fun s =>
      if x.st = .active then s.block .copy else (s.clearCpy k).finish 4 rd.toNat x.status 0)

def execCpystat (rb rd : Reg) (s : State) : Out :=
  .next (s.onTile fun k => s.sources false .d [rb.toNat] fun s =>
    let x := (s.cluster (corePos k)).chan (bits (s.reg rb.toNat) 0 2)
    s.destination rd.toNat fun s => s.finish 4 rd.toNat x.status 0)

/-! ### Elements through a map -/

/-- The fill code of an element (12: R245). -/
def TMap.fillCode (t : TMap) : Nat := t.field 7 0 64 % 2 ^ t.width

/-- Bytes that hold an element. -/
def TMap.unit (t : TMap) : Nat := max 1 (t.width / 8)

/-- The code of an element as an engine of core `k` reads it; FILL reads no memory. -/
def State.elemRead (s : State) (k : Nat) (t : TMap) : Place → Except (Nat × Word) Nat
  | .fill => .ok t.fillCode
  | .at_ a b =>
    match s.engineRead k a t.unit with
    | .ok bs => .ok (ofBytes bs / 2 ^ b % 2 ^ t.width)
    | .error x => .error x

/-- What an operation finds in memory for position `e` of a window map: what stands there, or what stood there when it
was accepted, as a free value says (20: R388; log 10). -/
def State.fetched (s : State) (early : Option (List Host.Cell)) (e : Nat) : State :=
  match early with
  | some m => if bit (Config.freeWord 39 (2 ^ 64 * s.free + e)) 0 then { s with mem := m } else s
  | none => s

/-- The codes of elements e0 … e0 + n − 1 of a box. -/
def State.elemsRead (s : State) (k : Nat) (t : TMap) (q : List Int) (e0 n : Nat) (early : Option (List Host.Cell) := none) :
    Except (Nat × Word) (List Nat) :=
  (span e0 n).mapM fun e => (s.fetched early e).elemRead k t (t.place q e)

/-- Elements have been read, each on its own (10: R190; 17: R370, R372). -/
def State.countElems (s : State) (k : Nat) (t : TMap) (q : List Int) (e0 n : Nat) : State :=
  (span e0 n).foldl (fun s e => match t.place q e with
    | .fill => s
    | .at_ a _ => s.countRead k a t.unit) s

/-- Bits to write in one byte: its address, a mask, their values. -/
structure Piece where
  addr : Word
  mask : Nat
  value : Nat
  deriving DecidableEq, Repr

/-- Pieces of an element: whole bytes, or some bits of one byte. -/
def TMap.piecesOf (t : TMap) (v : Nat) : Place → List Piece
  | .fill => []
  | .at_ a b =>
    if t.width < 8 then [⟨a, (2 ^ t.width - 1) * 2 ^ b, v % 2 ^ t.width * 2 ^ b⟩]
    else (span 0 (t.width / 8)).map fun i => ⟨a + BitVec.ofNat 64 i, 255, v / 2 ^ (8 * i) % 256⟩

/-- A later piece in its place by address; it replaces the bits that it shares with an earlier one of its byte. -/
def addPiece (p : Piece) : List Piece → List Piece
  | [] => [p]
  | q :: r =>
    if q.addr.ult p.addr then q :: addPiece p r
    else if p.addr.ult q.addr then p :: q :: r
    else ⟨p.addr, p.mask ||| q.mask, p.value ||| (q.value &&& (255 - p.mask))⟩ :: r

/-- Pieces in ascending address order, one for each byte (12: R233, R240). -/
def byAddress (ps : List Piece) : List Piece := ps.foldl (fun l p => addPiece p l) []

/-- Pieces written in turn as engine writes of one operation: what it has counted and the state, before the first that
fails, and the failure. -/
def State.layPieces (s : State) (hits : List (Nat × Nat)) (k : Nat) :
    List Piece → Option (Nat × Word) × List (Nat × Nat) × State
  | [] => (none, hits, s)
  | x :: t =>
    match s.engineHome k x.addr .write with
    | .error c => (some (c, x.addr), hits, s)
    | .ok h =>
      let old := ofBytes (s.bytesAt h 1)
      let r := s.opWrite hits h [BitVec.ofNat 8 ((old &&& (255 - x.mask)) + x.value)]
      (r.1.accessed k .write x.addr 1).layPieces r.2 k t

/-- The pieces of elements e0, e0 + 1, … of a box with their codes. -/
def TMap.layout (t : TMap) (q : List Int) : Nat → List Nat → List Piece
  | _, [] => []
  | e, v :: vs => t.piecesOf v (t.place q e) ++ t.layout q (e + 1) vs

/-- Codes of `w` bits from bytes packed under R220 (11: R220). -/
def unpack (w : Nat) (bs : List Byte) (n : Nat) : List Nat := (span 0 n).map fun i => ofBytes bs / 2 ^ (w * i) % 2 ^ w

/-- Bytes that hold codes of `w` bits (11: R220). -/
def pack (w : Nat) (vs : List Nat) : Nat := (vs.foldr (fun v a => a * 2 ^ w + v % 2 ^ w) 0)

/-! ### Records (12: R238-R242) -/

/-- Fields of a record. -/
def recSkind (r : List Word) : Nat := bits (nth 0 r 0) 8 2
def recDkind (r : List Word) : Nat := bits (nth 0 r 0) 12 2
def recNotify (r : List Word) : Nat := bits (nth 0 r 0) 24 3
def recSector (r : List Word) : Nat := 512 * 2 ^ bits (nth 0 r 0) 16 3
def recQ (r : List Word) : List Int := boxOf (nth 0 r 4) ++ [sextNat (bits (nth 0 r 5) 0 16) 16]
def recTm (r : List Word) : Nat := bits (nth 0 r 5) 16 4

/-- Reserved bits of word 0 (12: R238). -/
def recReserved (w : Word) : Bool :=
  bits w 1 7 ≠ 0 || bits w 14 2 ≠ 0 || bits w 10 2 ≠ 0 || bits w 19 5 ≠ 0 || bits w 27 5 ≠ 0

/-- A record names a map. -/
def recMapped (r : List Word) : Bool := recSkind r = 1 || recDkind r = 1

/-- Bytes a record moves (12: R240, R247). -/
def recLen (r : List Word) (t : TMap) : Nat := if recMapped r then t.packed else bits (nth 0 r 0) 32 32

/-- Sectors of a record (12: R240). -/
def recCount (r : List Word) (t : TMap) : Nat := (recLen r t + recSector r - 1) / recSector r

/-- The lowest unfinished sector of a record as its DONEMAP gives it (12: R238, R244). -/
def firstUndone (r : List Word) (t : TMap) : Nat :=
  min (((span 0 64).find? fun i => !bit (nth 0 r 7) i).getD 64) (recCount r t)

/-- The cause with which a record fails at its start (12: R242). -/
def recFault (r : List Word) (t : TMap) : Option Nat :=
  let w := nth 0 r
  let next := w 1
  if next.toNat % 64 ≠ 0 then some cMISALIGNED
  else if recReserved (w 0) || decide (2 ≤ recSkind r) || decide (2 ≤ recDkind r) || decide (4 ≤ recNotify r) ||
      bits (w 5) 20 44 ≠ 0 || (recSkind r = 1 && recDkind r = 1) ||
      (recSkind r = 1 && w 2 ≠ 0#64) || (recDkind r = 1 && w 3 ≠ 0#64) ||
      (!recMapped r && (w 4 ≠ 0#64 || w 5 ≠ 0#64)) || (next ≠ 0#64 && !recordSpot next) then some cBAD_RECORD
  else if recMapped r && !t.valid then some cTMAP_INVALID
  else if 64 * recSector r < recLen r t then some cBAD_RECORD
  else none

/-- Where the channel's owner is. -/
def Chan.core (x : Chan) (p : Nat) : Nat := 4 * p + x.owner

/-- The descriptor that the running record names. -/
def Chan.tm (x : Chan) : TMap := x.srcTm

/-- Sector i has completed, or the record has none of that number. -/
def Chan.doneSector (x : Chan) (i : Nat) : Bool := Tab.get .idle x.sectors i = .complete
/-- DONEMAP of the running record: its sectors that have completed (12: R238). -/
def Chan.doneMap (x : Chan) : Word :=
  BitVec.ofNat 64 ((span 0 (recCount x.record x.tm)).foldl (fun a i => a + b2n (x.doneSector i) * 2 ^ i) 0)
/-- Sectors in flight (12: R240): the 4 lowest that have not completed, or, where no further one is issued, those
that were. -/
def Chan.flying (x : Chan) : List Nat :=
  if !x.started then []
  else match x.issued with
    | some l => l
    | none => takeN 4 ((span 0 64).filter fun i => !x.doneSector i)
/-- Lowest unfinished sector (12: R244). -/
def Chan.progress (x : Chan) : Nat := ((span 0 64).find? fun i => !x.doneSector i).getD 64

/-- The engine's write-back to its own record: no engine write (12: R230, R240, R242). -/
def State.writeBack (s : State) (h : Nat) (bs : List Byte) : State := (s.clean h bs.length).writeMem h bs

/-- The channel enters FAULT: DONEMAP to word 7 of a record that started, and the report to the owner's island
(12: R242; 16: R337). -/
def State.chanFault (s : State) (p h cause : Nat) (at_ : Word) : State :=
  let x := (s.cluster p).chan h
  let k := x.core p
  let s := if x.started && recordSpot x.addr then s.writeBack (ownHome k x.addr + 56) (toBytes 8 x.doneMap.toNat) else s
  let prog := if x.started then min x.progress (recCount x.record x.tm) else x.prog
  ((s.setChan p h { x with
    st := .fault, cause := cause, prog := prog, failing := none, issued := none, served := false }).reportLost k cause
    at_).report p (regionOf p) cause 2 h x.addr at_

/-- What NOTIFY does, or none where its argument fails its check (12: R241). -/
def State.notify (s : State) (p h : Nat) : Option State :=
  let x := (s.cluster p).chan h
  let k := x.core p
  let arg := nth 0 x.record 6
  match recNotify x.record with
  | 1 => if ownRange arg 8 && decide (0x800 ≤ arg.toNat) && arg.toNat % 8 = 0 then some (s.setMemFull (ownHome k arg)) else none
  | 2 =>
    if badHeader arg true then none
    else some (s.injectCore k { vc := bits arg 16 3, w0 := arg &&& ~~~(0xFFFF#64 <<< 24) })
  | 3 => some (s.post k x.launch (bits arg 0 16))
  | _ => some s

/-- NOTIFY and NEXT after the OWN write-back (12: R240, R241). -/
def State.endRecord (s : State) (p h : Nat) : State :=
  match s.notify p h with
  | none =>
    let x := (s.cluster p).chan h
    (s.setChan p h { x with inNotify := true }).chanFault p h cBAD_RECORD (nth 0 x.record 6)
  | some s =>
    let x := (s.cluster p).chan h
    let next := nth 0 x.record 1
    let x' := { x with
      recs := x.recs + 1, started := false, restart := false, inNotify := false, prog := recCount x.record x.tm }
    let x := { x' with issued := none, hits := [] }
    if next = 0#64 then s.setChan p h { x with st := .idle } else s.setChan p h { x with addr := next, prog := 0, sectors := [] }

/-- A record with every sector complete: byte 0 is written as 0, then NOTIFY; a record of no bytes has nothing written
(12: R240). -/
def State.finishRecord (s : State) (p h : Nat) : State :=
  let x := (s.cluster p).chan h
  (if recLen x.record x.tm = 0 then s else s.writeBack (ownHome (x.core p) x.addr) [0]).endRecord p h

/-- The engine reads ahead along NEXT from a record, as far as a free value says and the record cache of 4 has room; what
holds an uncorrectable error it does not keep (10: R190; 12: R239; log 23). -/
def State.readAhead (s : State) (p h : Nat) (a : Word) : Nat → State
  | 0 => s
  | n + 1 =>
    let x := (s.cluster p).chan h
    let f := s.fresh 23
    let home := ownHome (x.core p) a
    if a = 0#64 || a.toNat % 64 ≠ 0 || !recordSpot a || !bit f.1 0 || decide (4 ≤ x.cache.length) || s.badAt home 64 then f.2
    else
      let r := wordsOf (Mem.readBytes s.mem home 64) 8
      ((f.2.countEcc (regionOf p) home 64).setChan p h { x with cache := Tab.put x.cache home r }).readAhead p h (s.own p (nth 0 r 1)) n

/-- A record that the cache does not hold takes the place of another one where it is full: which one, a free value says
(12: R239; log 23). -/
def State.roomInCache (s : State) (p h : Nat) : State :=
  let x := (s.cluster p).chan h
  if x.cache.length < 4 then s
  else
    let f := s.fresh 37
    f.2.setChan p h { x with cache := dropNth x.cache (f.1.toNat % x.cache.length) }

/-- A record with NEXT and the word that NOTIFY fills as own addresses (10: R191; 12: R238). -/
def State.ownRecord (s : State) (p : Nat) (r : List Word) : List Word :=
  let r := setNth r 1 (s.own p (nth 0 r 1))
  if recNotify r = 1 then setNth r 6 (s.own p (nth 0 r 6)) else r

/-- The channel starts its next record, parks on OWN = 0, or faults it (12: R239-R242). -/
def State.recordStart (s : State) (p h : Nat) : State :=
  let x := (s.cluster p).chan h
  let k := x.core p
  if x.st != .active || x.started then s
  else if x.addr.toNat % 64 ≠ 0 then s.chanFault p h cMISALIGNED x.addr
  else if !recordSpot x.addr then s.chanFault p h cBAD_RECORD x.addr
  else
    let home := ownHome k x.addr
    let cached := Tab.get none (x.cache.map fun e => (e.1, some e.2)) home
    if cached.isNone && s.badAt home 64 then s.chanFault p h cUNCORR_ECC x.addr
    else
      let s := if cached.isNone then (s.roomInCache p h).countEcc (regionOf p) home 64 else s
      let x := (s.cluster p).chan h
      let r := s.ownRecord p (cached.getD (wordsOf (Mem.readBytes s.mem home 64) 8))
      let t : TMap := Tab.get 0 (s.core k).tms (recTm r)
      if !bit (nth 0 r 0) 0 && !(x.restart && x.inNotify) then s.setChan p h { x with st := .parked, restart := false }
      else match recFault r t with
        | some c => (s.setChan p h { x with record := r, prog := firstUndone r t }).chanFault p h c x.addr
        | none =>
          let n := recCount r t
          let secs := (span 0 64).foldl (fun (m : Tab SectorState) i =>
            if x.inNotify || bit (nth 0 r 7) i || decide (n ≤ i) then Tab.put m i .complete else m) []
          let x' := { x with started := true, record := r, srcTm := t, sectors := secs, cache := x.cache.filter (·.1 ≠ home) }
          let x' := { x' with prog := min x'.progress n }
          let s := (s.setChan p h x').readAhead p h (nth 0 r 1) 4
          if x.restart && x.inNotify then s.endRecord p h
          else if x'.progress = 64 then s.finishRecord p h
          else s

/-- RECORD_START. For a channel in FAULT it is the island that restarts the record, as CPYGO with address 0 does
(12: R241, R242; log 106). -/
def execRecordStart (pos ch : Nat) (s : State) : Out :=
  let x := (s.cluster pos).chan ch
  .next (if 4 ≤ ch || s.preempted pos then s
    else if x.st == .fault then (s.setChan pos ch x.again).recordStart pos ch
    else s.recordStart pos ch)

/-- How a sector ends: the fault, if any, the bytes counted, the state. -/
abbrev SectorEnd := Option (Nat × Word) × List (Nat × Nat) × State

/-- Bytes written at an address by a channel: all of them, or those before the first that fails. -/
def State.chanStore (s : State) (hits : List (Nat × Nat)) (k : Nat) (a : Word) (bs : List Byte) : SectorEnd :=
  match s.engineStore hits k a bs with
  | .ok r => (none, r.2, r.1)
  | .error x => (some x, (s.layPieces hits k (bs.zipIdx.map fun b => ⟨a + BitVec.ofNat 64 b.2, 255, b.1.toNat⟩)).2)

/-- The bytes or codes of a sector at their destination: the whole write, or what a fault leaves and the fault
(12: R240, R247). Sector bytes are packed bytes lo … lo + n − 1. -/
def State.sectorWrite (s : State) (hits : List (Nat × Nat)) (k : Nat) (r : List Word) (t : TMap) (lo n : Nat) : SectorEnd :=
  let w := t.width
  let e0 := 8 * lo / w
  let cnt := min (8 * n / w) (t.count - e0)
  let dst := nth 0 r 3 + BitVec.ofNat 64 lo
  let src := nth 0 r 2 + BitVec.ofNat 64 lo
  if recSkind r = 1 then
    match s.elemsRead k t (recQ r) e0 cnt with
    | .error x => (some x, hits, s)
    | .ok vs => (s.countElems k t (recQ r) e0 cnt).chanStore hits k dst (toBytes n (pack w vs))
  else match s.engineRead k src n with
    | .error x => (some x, hits, s)
    | .ok bs =>
      let s := s.countRead k src n
      if recDkind r = 1 then s.layPieces hits k (byAddress (t.layout (recQ r) e0 (unpack w bs cnt)))
      else s.chanStore hits k dst bs

/-- A sector in flight of the running record acts: none where it is not, or where its requests wait (03: R62, R63); else
the fault, if any, and the state (12: R240). -/
def State.sector (s : State) (p h i : Nat) : Option (Option (Nat × Word) × State) :=
  let x := (s.cluster p).chan h
  if x.st != .active || !x.flying.contains i then none
  else
    let len := recLen x.record x.tm
    let sz := recSector x.record
    if len ≤ i * sz then none
    else
      let r := s.sectorWrite x.hits (x.core p) x.record x.tm (i * sz) (min sz (len - i * sz))
      if r.1.any fun e => e.1 = cQUIET then none
      else some (r.1, r.2.2.setChan p h { (r.2.2.cluster p).chan h with hits := r.2.1 })

/-- A sector in flight has ended. Once none is left of those issued before a fault, the channel enters FAULT
(12: R242); once every one has completed, the record ends. -/
def State.landed (s : State) (p h : Nat) : State :=
  let x := (s.cluster p).chan h
  match x.failing, x.issued with
  | some (c, a), some [] => s.chanFault p h c a
  | _, _ => if x.progress = 64 then s.finishRecord p h else s

/-- SECTOR_COMPLETE: all writes of a sector are performed; after the last one the record ends (12: R240). -/
def execSectorComplete (pos ch sector : Nat) (s : State) : Out :=
  .next (match s.sector pos ch sector with
    | some (none, t) =>
      let x := (t.cluster pos).chan ch
      let left := x.issued.map fun (l : List Nat) => l.filter (· ≠ sector)
      let x' := { x with sectors := Tab.put x.sectors sector .complete, issued := left }
      (t.setChan pos ch { x' with prog := min x'.progress (recCount x.record x.tm) }).landed pos ch
    | _ => s)

/-- SECTOR_FAULT: an access of a sector fails; no further sector is issued; the bytes of the sector written before it may
stand or not (12: R242; log 24). -/
def execSectorFault (pos ch sector : Nat) (s : State) : Out :=
  .next (match s.sector pos ch sector with
    | some (some e, t) =>
      let f := s.fresh 24
      let t := if bit f.1 0 then { t with free := f.2.free } else f.2
      let x := (t.cluster pos).chan ch
      (t.setChan pos ch { x with
        failing := some (x.failing.getD e), issued := some (x.flying.filter (· ≠ sector)) }).landed pos ch
    | _ => s)

end Sys2Proof.Machine
end

