-- ==== Sys2Proof/Machine/Lease.lean ====
section
/-! DEFINITION. The engine bay: power, the lease queue, grants, releases and forced eviction (07: R146-R159). Engines
0 mx, 1 rm, 2 vx, 3 sf, 4 sm, 5 gx, 6 zd, 7 rd. -/

namespace Sys2Proof.Machine

/-- Power units of an engine (00: R2). -/
def engUnits (e : Nat) : Nat := if e = 0 then 2 else 1

def Cluster.eng (c : Cluster) (e : Nat) : Engine := Tab.get {} c.engs e
def Core.lease (c : Core) (e : Nat) : Lease := Tab.get {} c.leases e
def State.setEng (s : State) (p e : Nat) (x : Engine) : State :=
  let c := s.cluster p
  s.setCluster p { c with engs := Tab.put c.engs e x }
def State.setLease (s : State) (k e : Nat) (l : Lease) : State :=
  let c := s.core k
  s.setCore k { c with leases := Tab.put c.leases e l }

/-- The engine counts against the allowance (07: R147). -/
def Power.counts : Power → Bool
  | .waking .. => true
  | .held _ => true
  | _ => false

/-- Units in use (07: R147). -/
def Cluster.units (c : Cluster) : Nat :=
  (span 0 8).foldl (fun a e => a + if (c.eng e).power.counts then engUnits e else 0) 0

/-- The bay's allowance (07: R147; 08: R163). -/
def State.allowance (s : State) (p : Nat) : Nat := if (s.region (regionOf p)).boost then 4 else 3

/-- Requests in scan order: highest priority first, oldest first within a priority (07: R148). -/
def Cluster.scanOrder (c : Cluster) : List LeaseReq :=
  [3, 2, 1, 0].flatMap fun p => c.leaseQ.filter fun r => r.prio = p

/-- What the scan finds: a request whose engine can begin to wake, a wake it takes over, or the request that stops
it (07: R148). -/
inductive Scan where
  | wake (r : LeaseReq)
  | takeOver (r : LeaseReq)
  | stop (r : LeaseReq)
  | rest
  deriving DecidableEq, Repr

def Cluster.scan (c : Cluster) (allow : Nat) : List LeaseReq → Scan
  | [] => .rest
  | r :: t =>
    match (c.eng r.eng).power with
    | .held _ => c.scan allow t
    | .waking (some _) _ _ _ => c.scan allow t
    | .waking none _ _ _ => .takeOver r
    | _ => if c.units + engUnits r.eng ≤ allow then .wake r else .stop r

/-- Warm unleased engines make room for a wake of `need` units: they are gated, least recently released first, until
what is powered stays within the 4 units that a bay can power; they count in no allowance (07: R147; 00: R2; 23: R394;
log 75). -/
def Cluster.gateWarm (c : Cluster) (need : Nat) : Nat → Cluster
  | 0 => c
  | n + 1 =>
    let warm := (span 0 8).filter fun e => (c.eng e).power = .warm
    let used := warm.foldl (fun a e => a + engUnits e) 0
    if c.units + used + need ≤ 4 then c
    else match warm.foldl (fun (b : Option Nat) e => match b with
        | none => some e
        | some f => if (c.eng e).released < (c.eng f).released then some e else some f) none with
      | none => c
      | some e => Cluster.gateWarm { c with engs := Tab.put c.engs e { c.eng e with power := .gated } } need n

/-- An engine begins to wake for a request (07: R148, R149). -/
def Cluster.wake (c : Cluster) (r : LeaseReq) : Cluster :=
  let warm := decide ((c.eng r.eng).power = .warm)
  let c := if warm then { c with engs := Tab.put c.engs r.eng { c.eng r.eng with power := .gated } } else c
  let c := c.gateWarm (engUnits r.eng) 8
  let boost := decide (3 < c.units + engUnits r.eng)
  { c with engs := Tab.put c.engs r.eng { c.eng r.eng with power := .waking (some r.core) r.prio warm boost } }

/-- Holders, as engine and core (07: R146). -/
def Cluster.holders (c : Cluster) : List (Nat × Nat) :=
  (span 0 8).filterMap fun e => match (c.eng e).power with
    | .held k => some (e, k)
    | _ => none

/-- Priority of the lease that a holder has. -/
def State.leasePrio (s : State) (p : Nat) (h : Nat × Nat) : Nat := ((s.core (4 * p + h.2)).lease h.1).prio

/-- The victim: lowest priority, among equals the one granted most recently (07: R155). -/
def State.victim (s : State) (p : Nat) (hs : List (Nat × Nat)) : Option (Nat × Nat) :=
  hs.foldl (fun b h => match b with
    | none => some h
    | some g =>
      let a := s.leasePrio p h
      let d := s.leasePrio p g
      if a < d || (a = d && decide (((s.cluster p).eng g.1).granted < ((s.cluster p).eng h.1).granted)) then some h
      else some g) none

/-- A lease state changed to another. -/
def State.leaseTo (s : State) (k e : Nat) (st : LeaseState) : State := s.setLease k e { (s.core k).lease e with st := st }

/-- Put the victim of a demand into GRACE (07: R155). -/
def State.demand (s : State) (p : Nat) (hs : List (Nat × Nat)) (req : Option LeaseReq) : State :=
  match s.victim p hs with
  | none => s
  | some (e, k) =>
    let s := s.leaseTo (4 * p + k) e .grace
    s.setCluster p { s.cluster p with demand := some { eng := e, core := k, req := req } }

/-- The demand in force ends and its holder is in HELD again (07: R155). -/
def State.withdraw (s : State) (p : Nat) : State :=
  match (s.cluster p).demand with
  | none => s
  | some d =>
    let k := 4 * p + d.core
    let s := if ((s.core k).lease d.eng).st = .grace then s.leaseTo k d.eng .held else s
    s.setCluster p { s.cluster p with demand := none }

/-- The demand still stands: its request has neither left the queue nor been granted, or units in use exceed the
allowance (07: R147, R155). -/
def State.demandStands (s : State) (p : Nat) (d : Demand) : Bool :=
  match d.req with
  | some r => (s.cluster p).leaseQ.contains r
  | none => decide (s.allowance p < (s.cluster p).units)

/-- Where no holder is left to evict, a wake under way gives its units back, lowest priority first, among equals the
highest engine; its request stays in the queue (07: R147; log 90). -/
def Cluster.stopWake (c : Cluster) : Option Cluster :=
  let ws := (span 0 8).filterMap fun e => match (c.eng e).power with
    | .waking k pr _ _ => some (if k.isSome then pr + 1 else 0, e)
    | _ => none
  (ws.foldl (fun (b : Option (Nat × Nat)) w => match b with
    | none => some w
    | some v => if w.1 ≤ v.1 then some w else some v) none).map fun w =>
      { c with engs := Tab.put c.engs w.2 { c.eng w.2 with power := .gated } }

/-- The scan of R148: wakes begin while requests fit; then the demands of R147 and R155. -/
def State.scanBay (s : State) (p : Nat) : Nat → State
  | 0 => s
  | n + 1 =>
    let c := s.cluster p
    let s := match c.demand with
      | some d => if s.demandStands p d then s else s.withdraw p
      | none => s
    let c := s.cluster p
    let allow := s.allowance p
    if allow < c.units then
      -- boost has ended with too many units in use (R147)
      if c.demand.isSome then s
      else if !c.holders.isEmpty then s.demand p c.holders none
      else match c.stopWake with
        | some c => (s.setCluster p c).scanBay p n
        | none => s
    else match c.scan allow c.scanOrder with
      | .rest => s
      | .takeOver r =>
        (s.setEng p r.eng { c.eng r.eng with power := .waking (some r.core) r.prio false (decide (3 < c.units)) }).scanBay p n
      | .wake r => (s.setCluster p (c.wake r)).scanBay p n
      | .stop r =>
        if c.demand.isSome then s
        else
          let low := c.holders.filter fun h => decide (s.leasePrio p h < r.prio)
          let freed := low.foldl (fun a h => a + engUnits h.1) 0
          if c.units + engUnits r.eng ≤ allow + freed then s.demand p low (some r) else s

/-- The scan; 24 turns suffice for 16 requests and 8 engines. -/
def State.bayScan (s : State) (p : Nat) : State := s.scanBay p 24

/-! ### Engine-internal state (07: R149; 13: R273; 14: R297, R302, R306) -/

/-- The engine's internal state at its reset values. -/
def Cluster.scrub (c : Cluster) (e : Nat) : Cluster :=
  if e = 0 then { c with wbanks := (c.wbanks.filter fun b => decide (2 ≤ b.1)) }
  else if e = 1 then { c with wbanks := (c.wbanks.filter fun b => decide (b.1 < 2)), cbanks := [] }
  else if e = 3 then { c with sfBuilt := false }
  else if e = 6 then { c with zd := {} }
  else if e = 7 then { c with rd := [] }
  else c

/-- What a core knows of the banks of MX or RM becomes the actual state, empty (13: R265). -/
def Core.forget (c : Core) (e : Nat) : Core :=
  if e = 0 then { c with kept := c.kept.filter fun b => decide (2 ≤ b.1) }
  else if e = 1 then { c with kept := c.kept.filter (fun b => decide (b.1 < 2)), keptC := [] }
  else c

/-! ### Grants -/

/-- The handle (07: R151). -/
def handleWord (gen : Nat) (warm boost : Bool) (prio eng : Nat) : Word :=
  fields [(32, gen % 2 ^ 32), (7, b2n warm), (6, b2n boost), (4, prio), (0, eng)]

/-- LEASE_GRANT: a wake or scrub ends (07: R149, R151). While the units in use exceed the allowance no grant is made
(07: R147). A wake under way ends with its grant, whatever stands before its request by then (DEDUCED; unsafe;
log 130). -/
def State.grant (s : State) (p e : Nat) : State :=
  let c := s.cluster p
  let x := c.eng e
  if s.allowance p < c.units then s
  else match x.power with
  | .waking none _ _ _ =>
    (s.setCluster p { c with engs := Tab.put c.engs e { x with power := .warm, released := c.stamp }, stamp := c.stamp + 1 }).bayScan p
  | .waking (some kc) prio warm boost =>
    let k := 4 * p + kc
    let gen := (Tab.get 0 c.gens e + 1) % 2 ^ 32
    let c := (c.scrub e)
    let s := s.setCluster p { c with
      engs := Tab.put c.engs e { x with power := .held kc, granted := c.stamp }, stamp := c.stamp + 1,
      gens := Tab.put c.gens e gen
      leaseQ := c.leaseQ.filter fun r => !(r.core = kc && r.eng = e) }
    let d := (s.core k).forget e
    let l := d.lease e
    let h := handleWord gen warm boost prio e
    let s := s.setCore k { d with reg := d.reg.put l.rd h, leases := Tab.put d.leases e { l with st := .held, handle := h } }
    (s.bayScan p).mirror k
  | _ => s

def execLeaseGrant (pos eng : Nat) (s : State) : Out := .next (s.grant pos eng)

/-- ENGINE_GATE: an engine left unleased returns to the gated state (07: R149). -/
def execEngineGate (pos eng : Nat) (s : State) : Out :=
  .next (
    let x := (s.cluster pos).eng eng
    if x.power = .warm then s.setEng pos eng { x with power := .gated } else s)

/-! ### Releases (07: R152, R153) -/

/-- Operations of core `k` on an engine that have not completed. -/
def State.opsOn (s : State) (k e : Nat) : List EngOp := (s.opsOf k).filter fun o => o.engs.contains e

/-- The engine is warm and unleased; the scan runs (07: R153). -/
def State.release (s : State) (k e : Nat) (st : LeaseState) : State :=
  let p := corePos k
  let c := s.cluster p
  let s := s.setCluster p { c with
    engs := Tab.put c.engs e { c.eng e with power := .warm, released := c.stamp }, stamp := c.stamp + 1,
    demand := if c.demand.any (fun d => d.eng = e && d.core = coreNo k) then none else c.demand }
  let s := s.setLease k e { (s.core k).lease e with st := st, yielding := false }
  (s.setCore k ((s.core k).forget e)).bayScan p

/-- A request waits for the lease (07: R152). -/
def State.waitedFor (s : State) (k e : Nat) : Bool :=
  let p := corePos k
  let c := s.cluster p
  let pr := ((s.core k).lease e).prio
  (c.leaseQ.any fun r => r.eng = e && decide (pr ≤ r.prio)) ||
    match c.scan (s.allowance p) c.scanOrder with
    | .stop r => decide (pr ≤ r.prio) && r.eng ≠ e
    | _ => false

/-- LYIELD and LFREE while the core holds the lease: wait for the core's operations, then release (07: R152). A
release by LEASE_RELEASE or an eviction before it leaves the code in `yieldDone`. -/
def State.letGo (s : State) (k e : Nat) (go : Nat → State → State) : State :=
  let l := (s.core k).lease e
  let s := s.setLease k e { l with yielding := true }
  if (s.opsOn k e).isEmpty then go 1 (s.release k e .none) else s.block (.lease e)

def execLyield (eng : BitVec 3) (rd : Reg) (s : State) : Out :=
  .next (s.onTile fun k => s.destination rd.toNat fun s =>
    let e := eng.toNat
    let l := (s.core k).lease e
    let done (v : Nat) (s : State) : State := s.finish 4 rd.toNat (BitVec.ofNat 64 v) 0
    match l.yieldDone with
    | some v => done v (s.setLease k e { l with yieldDone := none })
    | none =>
      match l.st with
      | .none | .queued => done 0 s
      | .lost => done 2 (s.leaseTo k e .none)
      | .held => if s.waitedFor k e || l.yielding then s.letGo k e done else done 0 s
      | .grace => s.letGo k e done)

/-- A request leaves the queue; a wake that was for it goes on for no request (07: R146; log 25). -/
def State.dropRequest (s : State) (k e : Nat) : State :=
  let p := corePos k
  let c := s.cluster p
  let x := c.eng e
  let pw := match x.power with
    | .waking (some kc) pr w b => if kc = coreNo k then .waking none pr w b else x.power
    | pw => pw
  s.setCluster p { c with leaseQ := c.leaseQ.filter (fun r => !(r.core = coreNo k && r.eng = e)),
                          engs := Tab.put c.engs e { x with power := pw } }

/-- The request is removed; its handle word is written 0 and marked full (07: R146). -/
def State.unqueue (s : State) (k e : Nat) (st : LeaseState) : State :=
  let s := s.dropRequest k e
  let c := s.core k
  let l := c.lease e
  (s.setCore k { c with reg := c.reg.put l.rd 0, leases := Tab.put c.leases e { l with st := st } }).bayScan (corePos k)

def execLfree (eng : BitVec 3) (s : State) : Out :=
  .next (s.onTile fun k =>
    let e := eng.toNat
    let l := (s.core k).lease e
    match l.yieldDone with
    | some _ => (s.setLease k e { l with yieldDone := none }).retire 4
    | none =>
      match l.st with
      | .none => s.retire 4
      | .lost => (s.leaseTo k e .none).retire 4
      | .queued => (s.unqueue k e .none).retire 4
      | _ => s.letGo k e fun _ s => s.retire 4)

/-- LEASE_RELEASE: the core's operations on the engine have completed (07: R152). -/
def execLeaseRelease (pos eng : Nat) (s : State) : Out :=
  .next (match ((s.cluster pos).eng eng).power with
    | .held kc =>
      let k := 4 * pos + kc
      let l := (s.core k).lease eng
      if l.yielding && (s.opsOn k eng).isEmpty then
        let s := s.release k eng .none
        s.setLease k eng { (s.core k).lease eng with yieldDone := some 1 }
      else s
    | _ => s)

/-! ### LEASE and LSTAT -/

def execLease (prio : BitVec 2) (eng : BitVec 3) (ra rd : Reg) (s : State) : Out :=
  .next (s.onTile fun k => s.sources false .d [ra.toNat] fun s =>
    let e := eng.toNat
    let l := (s.core k).lease e
    match l.st with
    | .held | .grace => s.destination rd.toNat fun s => s.finish 4 rd.toNat l.handle 0
    | .queued => s.block (.lease e)
    | _ => s.destination rd.toNat fun s =>
      let p := corePos k
      let c := s.cluster p
      if 16 ≤ c.leaseQ.length then s.block .leaseQueue
      else
        let d := s.core k
        let l' : Lease := { st := .queued, prio := prio.toNat, restart := s.reg ra.toNat, rd := rd.toNat }
        let s := s.setCore k { d with reg := d.reg.owe rd.toNat, leases := Tab.put d.leases e l' }
        let s := s.setCluster p { c with leaseQ := c.leaseQ ++ [{ core := coreNo k, eng := e, prio := prio.toNat }] }
        (s.bayScan p).retire 4)

/-- Code of a lease state (07: R154). -/
def LeaseState.code : LeaseState → Nat
  | .none => 0 | .queued => 1 | .held => 2 | .grace => 3 | .lost => 4

/-- Place of the core's request in scan order (07: R154). -/
def Cluster.qpos (c : Cluster) (core e : Nat) : Nat :=
  match c.scanOrder.findIdx? fun r => r.core = core && r.eng = e with
  | some i => i
  | none => 31

/-- POWER of LSTAT (07: R154). -/
def Power.code : Power → Nat
  | .gated => 0
  | .waking .. => 1
  | .warm => 2
  | .held _ => 3

/-- LSTAT (07: R154). What is left of the grace window is a free value (log 8). -/
def execLstat (eng : BitVec 3) (rd : Reg) (s : State) : Out :=
  .next (s.onTile fun k => s.destination rd.toNat fun s =>
    let e := eng.toNat
    let l := (s.core k).lease e
    let c := s.cluster (corePos k)
    let f := s.fresh 26
    let left := if l.st = .grace then f.1.toNat % 4097 else 0
    let s := if l.st = .grace then f.2 else s
    let holder := match (c.eng e).power with
      | .held kc => some kc
      | _ => none
    let pr := if l.st = .none || l.st = .lost then 0 else l.prio
    s.finish 4 rd.toNat (fields [(0, l.st.code), (8, pr), (13, b2n holder.isSome), (14, holder.getD 0),
      (16, (c.eng e).power.code), (20, c.qpos (coreNo k) e), (32, left)]) 0)

end Sys2Proof.Machine
end

