-- ==== Sys2Proof/Machine/Engine.lean ====
section
/-! DEFINITION. Engine operations from issue to end, whatever their engine (05: R93-R96; 07: R143-R145, R157; 13: R265,
R266; 16: R340). What an operation does stands with its engine. -/

namespace Sys2Proof.Machine

/-! ### Issue (07: R143) -/

/-- Step 2 of R143 for the engines an operation needs, in turn. -/
def State.leased (s : State) (k : Nat) : List Nat → (State → State) → State
  | [], go => go s
  | e :: t, go =>
    let l := (s.core k).lease e
    match l.st with
    | .lost => s.trap { code := cLEASE_LOST, unit := e, detail := l.restart }
    | .none => s.trap { code := cENGINE_NOT_HELD, unit := e }
    | .queued => s.block (.lease e)
    | _ => if l.yielding then s.block (.lease e) else s.leased k t go

/-- VALID of a PIDX register. -/
def pidxValid (w : Word) : Bool := bit w 32
def pidxWord (i : Nat) : Word := fields [(0, i % 2 ^ 32), (32, 1)]

/-! ### Banks as the core knows them (13: R265) -/

/-- Class of a format code in a W bank, and its K (13: R261). -/
def matClass (code : Nat) : Nat := if code < 3 then 16 else 8
def classK (cls : Nat) : Nat := if cls = 16 then 128 else if cls = 8 then 256 else 512

/-- Elements in the k direction, rows or columns in the other (13: R264). -/
def TMap.nk (t : TMap) : Nat := (if t.win then t.box 0 else t.box (t.dim 0)) + 1
def TMap.nr (t : TMap) : Nat := (if t.win then t.box 1 else t.box (t.dim 1)) + 1

def Core.bank (c : Core) (b : Nat) : BankInfo := Tab.get {} c.kept b
def Core.counter (c : Core) (b : Nat) : CountInfo := Tab.get {} c.keptC b
def Core.setBank (c : Core) (b : Nat) (x : BankInfo) : Core := { c with kept := Tab.put c.kept b x }
def Core.setCounter (c : Core) (b : Nat) (x : CountInfo) : Core := { c with keptC := Tab.put c.keptC b x }

/-- Column scales of a Q bank. -/
def BankInfo.cols (b : BankInfo) : List Nat := b.scales.map fun x => nth 0x7F0 x 0

/-- The counter bank after an MREAM (13: R273). -/
def CountInfo.charge (c : CountInfo) (q : BankInfo) (fa : BitVec 32) (rs : List Nat) (nk : Nat) : CountInfo :=
  if c.bound then { c with depth := c.depth + nk }
  else { bound := true, depth := nk, fa := fa, fb := q.fmt, rs := rs, cs := q.cols }

/-- What an MREAM owes to DEPTH: nothing where it has charged it and the bank has stayed bound since (13: R273, R274). -/
def CountInfo.owes (c : CountInfo) (charged : Bool) (nk : Nat) : Nat := if charged && c.bound then 0 else nk

/-- The destination after a merge (13: R275). -/
def CountInfo.merge (d s : CountInfo) : CountInfo :=
  if !s.bound then d else if !d.bound then s else { d with depth := d.depth + s.depth }

/-- Class of a bank that MLDW loads, and its scale blocks for each column (13: R261, R263). -/
def bankClass (code wb : Nat) : Nat := if 2 ≤ wb then 4 else matClass code
def bankBlocks (code wb : Nat) : Nat := if 2 ≤ wb then 1 else classK (matClass code) / 32

/-- What an MLDW leaves of a bank beside its elements (13: R268). -/
def EngOp.bankInfo (op : EngOp) (code wb : Nat) : BankInfo :=
  let nb := bankBlocks code wb
  { loaded := true, code := code, fmt := nth 0 op.fmts 0, cls := bankClass code wb,
    scales := (span 0 16).map fun j => (span 0 nb).map fun g => nth 0x7F0 op.tabl (nb * j + g) }

/-- What the core knows of the banks once it has issued an operation (13: R265). -/
def Core.knows (c : Core) (op : EngOp) : Core :=
  match op.instr with
  | .mldw _ fmt _ wb => c.setBank wb.toNat (op.bankInfo fmt.toNat wb.toNat)
  | .mream _ _ _ q cb =>
    let d := c.counter cb.toNat
    if op.begun && d.bound then c
    else c.setCounter cb.toNat (d.charge (c.bank (2 + q.toNat)) (nth 0 op.fmts 0) op.tabl (TMap.nk op.tm))
  | .mrmrg src dst =>
    let a := c.counter src.toNat
    (c.setCounter dst.toNat ((c.counter dst.toNat).merge a)).setCounter src.toNat (if a.bound then {} else a)
  | .mdrain _ _ _ cb => c.setCounter cb.toNat {}
  | .mclr tgt =>
    if tgt.toNat < 4 then c else if tgt.toNat < 6 then c.setCounter (tgt.toNat - 4) {} else { c with keptC := [] }
  | _ => c

/-- The accumulators that a matrix operation names (13: R266). -/
def accsOf : Instr → List Nat
  | .mmul _ _ _ _ _ acc => [acc.toNat]
  | .mdrain _ _ acc _ => [acc.toNat]
  | .mstore _ _ _ acc => [acc.toNat]
  | .mclr tgt => if tgt.toNat < 4 then [tgt.toNat] else if tgt.toNat = 6 then [0, 1, 2, 3] else []
  | _ => []

/-- The PIDX register of an engine where an MCLR clears its VALID: it holds a stopped operation on a tile that the MCLR
names (13: R266); else 0. -/
def Core.stoppedAt (c : Core) (tgt e : Nat) : Word :=
  let w := Tab.get 0 c.pidx e
  if pidxValid w && (tgt = 6 || (accsOf (Tab.get ({} : StopRec) c.stopRec e).instr).contains tgt) then w else 0

/-- MCLR clears VALID of a stopped operation on a tile it names (13: R266). -/
def Core.clearStopped (c : Core) (tgt : Nat) : Core :=
  [0, 1].foldl (fun (c : Core) e =>
    if pidxValid (c.stoppedAt tgt e) then { c with pidx := Tab.put c.pidx e (unValid (c.stoppedAt tgt e)) } else c) c

/-- An MCLR of the core that has still to take effect clears VALID of an engine before what is issued now (13: R266). -/
def State.clearDue (s : State) (k e : Nat) : Bool :=
  (s.opsOf k).any fun o => match o.instr with
    | .mclr tgt => pidxValid ((s.core k).stoppedAt tgt.toNat e)
    | _ => false

/-! ### Stopped operations and their reissue -/

/-- The operation may resume at a recorded index after an eviction (13: R266; 14: R294, R300; 12: R259). -/
def resumable : Instr → Bool
  | .mmul .. | .mstore .. => true
  | .ldtm .. | .sttm .. | .ldstr .. | .ststr .. | .ldgi .. | .stsi .. | .ldfe .. => true
  | .gxgather .. | .gxscat .. | .gxbins .. | .smerge .. | .smkv .. => true
  | _ => false

/-- The operation resumes at the recorded index after a fault that was not served by RETRY (13: R266; 14: R305). -/
def resumesAfterFault : Instr → Bool
  | .mream .. | .mdrain .. | .zdgo .. => true
  | i => resumable i

/-- The reissue of a stopped operation: it takes the recorded index, and VALID clears (13: R266; 16: R340); behind an MCLR
that clears VALID first it finds none (13: R266; log 141). -/
def State.resumeAt (s : State) (k : Nat) (op : EngOp) : EngOp × State :=
  match op.engs with
  | e :: _ =>
    let c := s.core k
    let w := Tab.get 0 c.pidx e
    let r : StopRec := Tab.get {} c.stopRec e
    if pidxValid w && r.pc = op.pc && !s.clearDue k e then
      let ok := if r.lost then resumable op.instr else resumesAfterFault op.instr
      (if ok then { op with prog := bits w 0 32, begun := r.begun, carry := r.carry, flags := r.flags, hits := r.hits } else op,
        s.setCore k { c with pidx := Tab.put c.pidx e (unValid w) })
    else (op, s)
  | [] => (op, s)

/-- The dispatch queue has an entry free of its 8 (07: R144). -/
def Core.canDispatch (c : Core) : Bool := decide ((c.dispq.filter fun o => !o.back).length < 8)

/-- Step 4 of R143: the operation enters the dispatch queue and its destination words are marked empty; a destination
word that must wait stalls the issue (05: R93, R94). Where it does not wait, `seen` is the state in which it enters. -/
def State.dispatch (s : State) (k : Nat) (op : EngOp) (seen : State := s) : State :=
  let c := s.core k
  if !c.canDispatch then s.block .dispatch
  else match (wordsIn op.writes).find? fun w => s.writeWaits k w with
    | some w => s.block (.owedWrite w)
    | none =>
      match (wordsIn op.writes).find? fun w => inRanges op.reads w && c.reg.isEmpty w with
      | some w => s.block (.regWord w)
      | none =>
        let r := seen.resumeAt k { op with
          pc := c.pc, seq := c.nextSeq, rm := s.rm, vbase := c.vbase.toNat, abase := c.abase.toNat }
        let c := (r.2.core k).knows r.1
        let c := { c with
          nextSeq := c.nextSeq + 1, dispq := c.dispq ++ [r.1],
          reg := RegSpace.overRanges RegSpace.owe c.reg op.writes }
        (r.2.setCore k c).retire 4

/-! ### Acceptance (07: R144, R145) -/

/-- Words an operation reads are full; words it owes itself were full when it issued. -/
def EngOp.ready (op : EngOp) (g : RegSpace) : Bool :=
  (wordsIn op.reads).all fun w => inRanges op.writes w || !g.isEmpty w

def isZdgo : Instr → Bool
  | .zdgo .. => true
  | _ => false

/-- An earlier LDACQ or acquiring atomic of the core has not been performed (15: R326). -/
def Core.acquires (c : Core) (seq : Nat) : Bool :=
  c.accesses.any fun l => !l.performed && decide (l.seq < seq) &&
    (l.acc.kind = 6 || (l.isAtomic && l.acc.ord % 2 = 1))

/-- The core holds the lease of an engine (07: R146). -/
def Core.leaseHeld (c : Core) (e : Nat) : Bool := (c.lease e).st == .held || (c.lease e).st == .grace

/-- The bay can accept the head of core `k`'s dispatch queue (07: R144, R146; 13: R264; 14: R294, R303; 15: R326). But for
ZD an engine takes any number of operations at once, which run one after another (DESIGN CHOICE; unsafe; log 140). -/
def State.acceptable (s : State) (k : Nat) : Option (EngOp × List EngOp) :=
  let c := s.core k
  match c.dispq with
  | [] => none
  | op :: rest =>
    let cl := s.cluster (corePos k)
    if c.stopped ≠ 0 || op.engs.any (fun e => (Tab.get none (c.stuck.map fun x => (x.1, some x.2)) e).isSome) || !op.ready c.reg ||
        (c.buffered.any fun b => decide (b.seq < op.seq) && decide (b.home ≤ 2)) || c.acquires op.seq ||
        s.ldfeBefore k op.seq || !op.engs.all c.leaseHeld ||
        (isZdgo op.instr && (Tab.get [] cl.inflight 6).any fun o => isZdgo o.2.instr) then none
    else some (op, rest)

/-- The core whose head the bay takes next: round-robin from the core after the one it took last (07: R145). A head that
can be accepted is so accepted before more than 3 operations of other cores (00: R11). -/
def State.bayTurn (s : State) (pos : Nat) : Option Nat :=
  ((span 0 4).map fun i => ((s.cluster pos).arb + 1 + i) % 4).find? fun c => (s.acceptable (4 * pos + c)).isSome

/-- DISPATCH_ACCEPT: the bay accepts a core's head in its turn; its scalars are read in slice D (07: R143-R145;
05: R97). -/
def execDispatchAccept (pos c : Nat) (s : State) : Out :=
  let k := 4 * pos + c
  .next (match s.acceptable k with
    | none => s
    | some (op, rest) =>
      if s.bayTurn pos ≠ some c then s
      else
        let cl := s.cluster pos
        let d := s.core k
        let ws := wordsIn op.reads
        let got := ws.foldl (fun (t : Tab Word) w => Tab.put t w (d.reg.word w)) op.got
        let op := { op with got := got, reads := [], early := if TMap.win op.tm then some s.mem else none }
        let e := (op.engs.head?).getD 0
        (s.setCore k { d with
          dispq := rest, reg := (ws.filter (· < 64)).foldl (fun g w => g.refresh .d w) d.reg }).setCluster pos { cl with
            inflight := Tab.put cl.inflight e (Tab.get [] cl.inflight e ++ [(c, op)]), arb := c })

/-! ### How an operation runs -/

/-- How far an operation came: complete, stopped at a limit or waiting, or faulted, at an index. -/
inductive OpHow where
  | complete | stopped | faulted (cause : Nat) (addr : Word)
  deriving DecidableEq, Repr

/-- A failure of an access: a fault, unless it is that the request waits (03: R62, R63). -/
def OpHow.of (cause : Nat) (addr : Word) : OpHow := if cause = cQUIET then .stopped else .faulted cause addr

/-- The state an operation leaves, with its own record (index, carried value, flags). -/
structure OpEnd where
  s : State
  op : EngOp
  how : OpHow

/-- One unit of an operation: done, with its record; a fault, with what it leaves and, where it has written, the bytes
counted by then; or a wait. -/
inductive UnitEnd where
  | ok (s : State) (op : EngOp)
  | fault (s : State) (cause : Nat) (addr : Word) (hits : List (Nat × Nat) := [])
  | wait

/-- What an operation has counted after a fault. -/
def EngOp.counted (op : EngOp) (hits : List (Nat × Nat)) : EngOp := if hits.isEmpty then op else { op with hits := hits }

/-- Units `i, i + 1, …` of an operation, `n` of them, up to a limit. -/
def runUnits (f : State → EngOp → Nat → UnitEnd) (limit : Option Nat) : Nat → Nat → State → EngOp → OpEnd
  | 0, i, s, op => ⟨s, { op with prog := i }, .complete⟩
  | n + 1, i, s, op =>
    if limit = some i then ⟨s, { op with prog := i }, .stopped⟩
    else match f s op i with
      | .ok s' op' => runUnits f limit n (i + 1) s' op'
      | .fault s' c a hits => ⟨s', { op.counted hits with prog := i }, .of c a⟩
      | .wait => ⟨s, { op with prog := i }, .stopped⟩

/-- A whole operation in one step (14: R285): nothing is done below its end. -/
def runWhole (limit : Option Nat) (s : State) (op : EngOp) (f : State → UnitEnd) : OpEnd :=
  match limit with
  | some _ => ⟨s, { op with prog := 0 }, .stopped⟩
  | none => match f s with
    | .ok s' op' => ⟨s', { op' with prog := 0 }, .complete⟩
    | .fault s' c a _ => if c = cQUIET then ⟨s, op, .stopped⟩ else ⟨s', { op with prog := 0 }, .faulted c a⟩
    | .wait => ⟨s, op, .stopped⟩

/-- A word that an operation read when accepted. -/
def EngOp.word (op : EngOp) (w : Nat) : Word := if w = 0 then 0 else Tab.get 0 op.got w
/-- `n` bytes of words that an operation read, as a number. -/
def EngOp.num (op : EngOp) (byte n : Nat) : Nat := ofBytes (takeN n (bytesOf ((span (byte / 8) ((n + 7) / 8)).map op.word)))


/-- Words of `n·64` bits of a number. -/
def wordsOfNat (v : Nat) (n : Nat) : List Word := (span 0 n).map fun i => BitVec.ofNat 64 (v / 2 ^ (64 * i))

/-- Ranges of words are full with the bytes they have, and owed no more (05: R96). -/
def State.fillWords (s : State) (k : Nat) (rs : List (Nat × Nat)) : State :=
  let c := s.core k
  s.setCore k { c with reg := (wordsIn rs).foldl (fun g w => if g.isPend w then g.fill w else g) c.reg }

/-- Sticky flags of core `k` (05: R101). -/
def State.coreFlags (s : State) (k : Nat) (f : Flags) : State :=
  let c := s.core k
  s.setCore k { c with fcsr := c.fcsr ||| ((f.setWidth 64) <<< 8) }

/-! ### Operations that are given up (13: R265) -/

/-- What the core keeps of an engine's banks becomes their actual state. -/
def State.syncBanks (s : State) (k e : Nat) : State :=
  let cl := s.cluster (corePos k)
  let c := s.core k
  let bank (c : Core) (b : Nat) : Core := { c with kept := Tab.put c.kept b (Tab.get {} cl.wbanks b : WBank).info }
  let cnt (c : Core) (b : Nat) : Core := { c with keptC := Tab.put c.keptC b (Tab.get {} cl.cbanks b : CBank).info }
  if e = 0 then s.setCore k ([0, 1].foldl bank c)
  else if e = 1 then s.setCore k ([0, 1].foldl cnt ([2, 3].foldl bank c))
  else s

/-- Matrix operations have been removed without effect: what the core keeps of the banks is what those that stay leave
in program order (13: R265, R280). -/
def State.syncOps (s : State) (k : Nat) (ops : List EngOp) : State :=
  if ops.all fun o => o.engs.all fun e => decide (2 ≤ e) then s
  else
    let s := (s.syncBanks k 0).syncBanks k 1
    s.setCore k (((s.opsOf k).foldr insertOp []).foldl Core.knows (s.core k))

/-! ### Ends (05: R96; 07: R157; 13: R266) -/

/-- The head operation of an engine, where no earlier operation of its core shares an engine with it. -/
def State.running (s : State) (pos eng : Nat) : Option (Nat × EngOp) :=
  match Tab.get [] (s.cluster pos).inflight eng with
  | [] => none
  | (c, op) :: _ =>
    let k := 4 * pos + c
    if op.engs.any fun e => (s.opsOn k e).any fun o => decide (o.seq < op.seq) then none else some (k, op)

/-- The head operation of an engine leaves the bay. -/
def State.popOp (s : State) (pos eng : Nat) : State :=
  let c := s.cluster pos
  s.setCluster pos { c with inflight := Tab.put c.inflight eng ((Tab.get [] c.inflight eng).drop 1) }

/-- What the operation has still to write: words that have landed are its no more (05: R93, R94). -/
def EngOp.owing (op : EngOp) (g : RegSpace) : EngOp :=
  { op with writes := ((wordsIn op.writes).filter g.isPend).map fun w => (w, 1) }

/-- The head operation of an engine has come to a new index and waits there. -/
def State.advanceOp (s : State) (pos eng : Nat) (op : EngOp) : State :=
  let c := s.cluster pos
  s.setCluster pos { c with inflight := Tab.put c.inflight eng (match Tab.get [] c.inflight eng with
    | [] => []
    | x :: t => (x.1, op.owing (s.core (4 * pos + x.1)).reg) :: t) }

/-- A window operation of core `c` that is still behind another on its engine runs after it, and reads memory as that one
leaves it at the earliest (07: R144; 20: R388). -/
def Cluster.readAfter (cl : Cluster) (c : Nat) (o : EngOp) (m : List Host.Cell) : Cluster :=
  { cl with inflight := cl.inflight.map fun x => (x.1, x.2.map fun y =>
      if y.1 = c && decide (o.seq < y.2.seq) && y.2.engs.any o.engs.contains then (y.1, { y.2 with early := y.2.early.map fun _ => m })
      else y) }

/-- The head operation of an engine ends and leaves the bay. -/
def State.leaveBay (s : State) (pos eng k : Nat) (op : EngOp) : State :=
  let s := s.popOp pos eng
  s.setCluster pos ((s.cluster pos).readAfter (coreNo k) op s.mem)

/-- The operation is complete: every owed word full, flags merged (05: R94, R101). -/
def State.completeOp (s : State) (pos eng k : Nat) (op : EngOp) : State :=
  (((s.leaveBay pos eng k op).fillWords k op.writes).coreFlags k op.flags).mirror k

/-- What a core keeps of an operation that stops (16: R340). -/
def EngOp.record (op : EngOp) (lost : Bool) : StopRec :=
  { pc := op.pc, instr := op.instr, lost := lost, begun := op.begun && !lost, carry := op.carry, flags := op.flags,
    hits := op.hits }

/-- The operation is stopped at its index by a fault: PIDX is set, the cause is due, later operations for the engine
wait (13: R266). A request that a router dropped is reported (09: R187). -/
def State.faultOp (s : State) (pos eng k : Nat) (op : EngOp) (cause : Nat) (addr : Word) : State :=
  let s := (s.leaveBay pos eng k op).reportLost k cause addr
  let c := s.core k
  let op := op.owing c.reg
  (s.setCore k { c with
    pidx := Tab.put c.pidx eng (pidxWord op.prog), stopRec := Tab.put c.stopRec eng (op.record false),
    stuck := Tab.put c.stuck eng op,
    due := c.due ++ [{ kind := 3, cause := cause, pc := op.pc, addr := addr, unit := eng, op := op }] }).mirror k

/-- Operations for an engine leave a core's dispatch queue without effect; what they owed is full (07: R157). -/
def State.dropQueued (s : State) (k e : Nat) : State :=
  let c := s.core k
  let out := c.dispq.filter fun o => o.engs.contains e
  let s := s.setCore k { c with dispq := c.dispq.filter fun o => !o.engs.contains e }
  (out.foldl (fun s o => s.fillWords k o.writes) s).syncOps k out

/-- The operations of a core on an engine leave the bay. -/
def Cluster.without (cl : Cluster) (c e : Nat) : Cluster :=
  { cl with inflight := cl.inflight.map fun x => (x.1, x.2.filter fun o => !(o.1 = c && o.2.engs.contains e)) }

/-- The operations of core `k` on an engine, in flight or queued, are removed without effect; what they owed is full
(16: R338). -/
def State.dropOps (s : State) (k e : Nat) : State :=
  let cl := s.cluster (corePos k)
  let gone := (cl.inflightOf (coreNo k)).filter fun o => o.engs.contains e
  let s := s.setCluster (corePos k) (cl.without (coreNo k) e)
  ((gone.foldl (fun s o => s.fillWords k o.writes) s).syncOps k gone).dropQueued k e

/-- Stop what core `k` has on an engine, as eviction does (07: R157, steps 1-3): `go` runs the operation in flight up
to its progress index. The result is the earliest operation that this stopped or removed; one that a fault had
stopped before is none of them, and PIDX keeps what it recorded (23: R394). -/
def State.stopEngine (s : State) (k e : Nat) (go : State → EngOp → OpEnd) : Option EngOp × State :=
  let p := corePos k
  let cl := s.cluster p
  let c := s.core k
  let mine := (cl.inflightOf (coreNo k)).filter fun o => o.engs.contains e
  let held := Tab.get none (c.stuck.map fun x => (x.1, some x.2)) e
  let s := s.setCluster p (cl.without (coreNo k) e)
  let s := s.setCore k { s.core k with stuck := c.stuck.filter fun x => x.1 ≠ e }
  let r : Option EngOp × State := match held, mine with
    | some op, _ => (some op, s.fillWords k op.writes)
    | none, op :: _ =>
      let r := go s op
      let op := r.op.owing (r.s.core k).reg
      (some op, r.s.fillWords k op.writes)
    | none, [] => (none, s)
  let s := (mine.foldl (fun s o => s.fillWords k o.writes) r.2).syncOps k mine
  let queued := (s.core k).dispq.filter fun o => o.engs.contains e
  let s := s.dropQueued k e
  let s := match r.1 with
    | some op =>
      let c := s.core k
      s.setCore k { c with pidx := if held.isSome then c.pidx else Tab.put c.pidx e (pidxWord op.prog),
                           stopRec := Tab.put c.stopRec e (op.record true) }
    | none => s
  (match held, mine with
    | none, _ :: _ => r.1
    | some _, op :: _ => some op
    | _, [] => queued.head?, s)

end Sys2Proof.Machine
end

