-- ==== Sys2Proof/Machine/Matrix.lean ====
section
/-! DEFINITION. The matrix array MX and ream mode RM (13: R261-R281). -/

namespace Sys2Proof.Machine

/-! ### Operands (13: R261-R264) -/

/-- The format a code and a register value select (13: R261). -/
def matFmt (code : Nat) (reg : BitVec 32) : Option Fmt :=
  match code with
  | 0 => some .f32
  | 1 => some .bf16
  | 2 => some .f16
  | _ => Fmt.ofReg reg

/-- The format register a code names. -/
def Core.fmtReg (c : Core) (code : Nat) : BitVec 32 := if code < 3 then 0 else Tab.get 0 c.fmts code

/-- The five formats of R271. -/
def reamFmt (reg : BitVec 32) : Bool :=
  reg = 0x00020031#32 || reg = 0x00028031#32 || reg = 0x00020023#32 || reg = 0x00020095#32 || reg = 0x00020187#32

/-- The limits of R264: pitch, k elements, 16 rows, WIN. -/
def TMap.fits (t : TMap) (pit k : Nat) (win : Bool) : Bool :=
  t.valid && t.width = pit && (win || !t.win) && decide (t.nk ≤ k) && decide (t.nr ≤ 16) &&
    (t.win || (span 2 3).all fun i => t.box (t.dim i) = 0)

/-- The pair of an operation (13: R262): the table address and the box start. -/
def State.pair (s : State) (r : Nat) (go : Word → Word → State → State) : State :=
  if r = 0 then go 0 0 s
  else s.sources false .d [r, r + 1] fun s => go (s.reg r) (s.reg (r + 1)) s

/-- A scale table of `n` entries of 16 bits read at issue; none where every scale is 1.0 (13: R263). `go` takes the
scales, the state that the loads leave, and the state before, in which an issue that must wait stays. -/
def State.scaleTable (s : State) (k : Nat) (a : Word) (n : Nat) (go : List Nat → State → State → State) : State :=
  if a = 0#64 then go (List.replicate n 0x7F0) s s
  else if a.toNat % 8 ≠ 0 then s.trap { code := cMISALIGNED, addr := a }
  else
    let o := s.own (corePos k) a
    if !ownRange o (2 * n) then s.trap { code := cBAD_ADDRESS, addr := a }
    else
      let t : Target := if o.toNat < 0x10000 then .tcm o.toNat else .spad (o.toNat - 0x100000)
      let h := ownHome k o
      s.localRead k t a h (2 * n) (wholeWords h (n / 4)) fun seen ws =>
        go (unpack 16 (bytesOf ws) n |>.map fun v => v % 4096) seen s

/-- An absmax word (13: R276, R277): 4-aligned, in a window that allows atomics. -/
def State.absmaxOk (s : State) (k : Nat) (a : Word) (go : State → State) : State :=
  if a = 0#64 then go s
  else if a.toNat % 4 ≠ 0 then s.trap { code := cMISALIGNED, addr := a }
  else if (s.operand (corePos k) a 4 .atomic).isNone then s.trap { code := cBAD_ADDRESS, addr := a }
  else go s

/-- Scale of row or column x, block g, of a table with nb blocks. -/
def scaleAt (t : List Nat) (nb x g : Nat) : Val := Fmt.ue8m4.real (nth 0x7F0 t (nb * x + g))

/-! ### Bank checks (13: R265, R269, R274, R275) -/

/-- MMUL: the bank is loaded and of the input's class. -/
def mmulCheck (b : BankInfo) (code : Nat) : Option Nat :=
  if !b.loaded then some cBANK_EMPTY else if b.cls ≠ matClass code then some cFORMAT_MISMATCH else none

/-- MREAM: the checks of R274; `nk` is what it owes to DEPTH. -/
def mreamCheck (q : BankInfo) (c : CountInfo) (fa : BitVec 32) (rs : List Nat) (nk : Nat) : Option Nat :=
  if !q.loaded then some cBANK_EMPTY
  else if c.bound && (fa ≠ c.fa || q.fmt ≠ c.fb) then some cFORMAT_MISMATCH
  else if c.bound && (rs ≠ c.rs || q.cols ≠ c.cs) then some cSCALE_MISMATCH
  else if 65535 < c.depth + nk then some cCOUNT_DEPTH
  else none

/-- MRMRG: the checks of R275. -/
def mergeCheck (d s : CountInfo) : Option Nat :=
  if !(d.bound && s.bound) then none
  else if s.fa ≠ d.fa || s.fb ≠ d.fb then some cFORMAT_MISMATCH
  else if s.rs ≠ d.rs || s.cs ≠ d.cs then some cSCALE_MISMATCH
  else if 65535 < d.depth + s.depth then some cCOUNT_DEPTH
  else none

/-! ### Issue -/

/-- A check of the kept state that fails raises its cause precisely. -/
def State.checked (s : State) (c : Option Nat) (go : State → State) : State :=
  match c with
  | some x => s.trap { code := x }
  | none => go s

/-- Whether an operation issued now at the pc resumes an MREAM that has charged DEPTH (13: R274). -/
def State.charged (s : State) (k e : Nat) : Bool :=
  let c := s.core k
  let r : StopRec := Tab.get {} c.stopRec e
  pidxValid (Tab.get 0 c.pidx e) && r.pc = c.pc && r.begun && !s.clearDue k e

/-- MLDW (13: R268). -/
def execMldw (pr : BitVec 6) (fmt : BitVec 3) (tm : BitVec 4) (wb : BitVec 2) (s : State) : Out :=
  .next (s.onTile fun k =>
    let q := decide (2 ≤ wb.toNat)
    s.leased k [if q then 1 else 0] fun s => s.pair pr.toNat fun tab box s =>
      let c := s.core k
      let code := fmt.toNat
      let reg := c.fmtReg code
      let t : TMap := Tab.get 0 c.tms tm.toNat
      match (if q && !(decide (3 ≤ code) && reamFmt reg) then none else matFmt code reg) with
      | none => s.trap { code := cFORMAT_UNSUPPORTED }
      | some f =>
        let cls := bankClass code wb.toNat
        if !t.fits (pitch f.w) (classK cls) false then s.trap { code := cTMAP_INVALID }
        else s.scaleTable k tab (16 * bankBlocks code wb.toNat) fun tb seen s =>
          s.dispatch k { instr := .mldw pr fmt tm wb, engs := [if q then 1 else 0], tm := t, fmts := [reg],
                         scal := [box], tabl := tb } seen)

/-- Words of rows of an accumulator tile (05: R91). -/
def tileWords (abase n rows : Nat) : Nat × Nat := (abyte abase n / 8, 8 * rows)

/-- MMUL (13: R269). -/
def execMmul (pr : BitVec 6) (set : BitVec 1) (fmt : BitVec 3) (tm : BitVec 4) (bank : BitVec 1) (acc : BitVec 2)
    (s : State) : Out :=
  .next (s.onTile fun k => s.leased k [0] fun s => s.pair pr.toNat fun tab box s =>
    let c := s.core k
    let code := fmt.toNat
    let reg := c.fmtReg code
    let t : TMap := Tab.get 0 c.tms tm.toNat
    match matFmt code reg with
    | none => s.trap { code := cFORMAT_UNSUPPORTED }
    | some f =>
      let kk := classK (matClass code)
      if !t.fits (pitch f.w) kk true then s.trap { code := cTMAP_INVALID }
      else s.scaleTable k tab (16 * (kk / 32)) fun tb seen s =>
        match mmulCheck ((s.core k).bank bank.toNat) code with
        | some x => seen.trap { code := x }
        | none =>
          let ws := tileWords c.abase.toNat acc.toNat t.nr
          s.dispatch k { instr := .mmul pr set fmt tm bank acc, engs := [0], tm := t, fmts := [reg], scal := [box],
                         tabl := tb, reads := if set = 1#1 then [] else [ws], writes := [ws] } seen)

/-- MREAM (13: R274). -/
def execMream (pr : BitVec 6) (fmt : BitVec 3) (tm : BitVec 4) (q cb : BitVec 1) (s : State) : Out :=
  .next (s.onTile fun k => s.leased k [1] fun s => s.pair pr.toNat fun tab box s =>
    let c := s.core k
    let reg := c.fmtReg fmt.toNat
    let t : TMap := Tab.get 0 c.tms tm.toNat
    if !(decide (3 ≤ fmt.toNat) && reamFmt reg) then s.trap { code := cFORMAT_UNSUPPORTED }
    else if !t.fits 4 512 true then s.trap { code := cTMAP_INVALID }
    else s.scaleTable k tab 16 fun tb seen s =>
      let c := s.core k
      let d := c.counter cb.toNat
      match mreamCheck (c.bank (2 + q.toNat)) d reg tb (d.owes (s.charged k 1) t.nk) with
      | some x => seen.trap { code := x }
      | none =>
        s.dispatch k { instr := .mream pr fmt tm q cb, engs := [1], tm := t, fmts := [reg], scal := [box], tabl := tb } seen)

/-- MRMRG (13: R275). -/
def execMrmrg (src dst : BitVec 1) (s : State) : Out :=
  .next (s.onTile fun k => s.leased k [1] fun s =>
    let c := s.core k
    let a := c.counter src.toNat
    let d := c.counter dst.toNat
    s.checked (mergeCheck d a) fun s => s.dispatch k { instr := .mrmrg src dst, engs := [1] })

/-- MDRAIN (13: R276). -/
def execMdrain (ra : BitVec 6) (set : BitVec 1) (acc : BitVec 2) (cb : BitVec 1) (s : State) : Out :=
  .next (s.onTile fun k => s.leased k [1] fun s => s.sources false .d [ra.toNat] fun s =>
    let a := s.reg ra.toNat
    s.absmaxOk k a fun s =>
      let ws := tileWords (s.core k).abase.toNat acc.toNat 16
      s.dispatch k { instr := .mdrain ra set acc cb, engs := [1], scal := [a],
                     reads := if set = 1#1 then [] else [ws], writes := [ws] })

/-- The words of a tile from a byte on that an MSTORE reads: those that hold an element inside the tensor (13: R277). -/
def TMap.storeReads (t : TMap) (q : List Int) (byte : Nat) : List (Nat × Nat) :=
  let inside (i j : Nat) : Bool := decide (j < t.nk) && decide (t.place q (i * t.nk + j) ≠ .fill)
  (span 0 t.nr).flatMap fun i => (span 0 8).filterMap fun w =>
    if inside i (2 * w) || inside i (2 * w + 1) then some (byte / 8 + 8 * i + w, 1) else none

/-- MSTORE (13: R277). -/
def execMstore (pr : BitVec 6) (fmt : BitVec 3) (tm : BitVec 4) (acc : BitVec 2) (s : State) : Out :=
  .next (s.onTile fun k => s.leased k [0] fun s => s.pair pr.toNat fun a box s =>
    let c := s.core k
    let reg := c.fmtReg fmt.toNat
    let t : TMap := Tab.get 0 c.tms tm.toNat
    match matFmt fmt.toNat reg with
    | none => s.trap { code := cFORMAT_UNSUPPORTED }
    | some f =>
      if !t.fits (pitch f.w) 16 false then s.trap { code := cTMAP_INVALID }
      else s.absmaxOk k a fun s =>
        s.dispatch k { instr := .mstore pr fmt tm acc, engs := [0], tm := t, fmts := [reg], scal := [box, a],
                       reads := t.storeReads (boxOf box ++ [0]) (abyte c.abase.toNat acc.toNat) })

/-- MCLR (13: R279). -/
def execMclr (tgt : BitVec 3) (s : State) : Out :=
  .next (s.onTile fun k =>
    let t := tgt.toNat
    let engs := if t < 4 then [0] else if t < 6 then [1] else [0, 1]
    s.leased k engs fun s =>
      let b := (s.core k).abase.toNat
      let ws := if t < 4 then [tileWords b t 16] else if t < 6 then [] else [tileWords b 0 64]
      s.dispatch k { instr := .mclr tgt, engs := engs, writes := ws })

/-- MSTAT (13: R280). -/
def execMstat (rd : Reg) (s : State) : Out :=
  .next (s.onTile fun k => s.destination rd.toNat fun s =>
    let c := s.core k
    let mx := c.leaseHeld 0
    let rm := c.leaseHeld 1
    let wv (b : Nat) := b2n (mx && (c.bank b).loaded)
    let wf (b : Nat) := if mx && (c.bank b).loaded then (c.bank b).code % 8 else 0
    let qv (b : Nat) := b2n (rm && (c.bank b).loaded)
    let qf (b : Nat) := if rm && (c.bank b).loaded then (c.bank b).code % 8 else 0
    let bd (b : Nat) := b2n (rm && (c.counter b).bound)
    let dp (b : Nat) := if rm then (c.counter b).depth % 65536 else 0
    s.finish 4 rd.toNat (fields [(0, b2n mx), (1, b2n rm), (8, wv 0), (9, wf 0), (12, wv 1), (13, wf 1),
      (16, qv 2), (17, qf 2), (20, qv 3), (21, qf 3), (28, bd 0), (29, bd 1), (32, dp 0), (48, dp 1)]) 0)

/-! ### Execution -/

def Cluster.wbank (c : Cluster) (b : Nat) : WBank := Tab.get {} c.wbanks b
def Cluster.cbank (c : Cluster) (b : Nat) : CBank := Tab.get {} c.cbanks b
def State.setWBank (s : State) (p b : Nat) (x : WBank) : State :=
  let c := s.cluster p
  s.setCluster p { c with wbanks := Tab.put c.wbanks b x }
def State.setCBank (s : State) (p b : Nat) (x : CBank) : State :=
  let c := s.cluster p
  s.setCluster p { c with cbanks := Tab.put c.cbanks b x }

/-- The box start of a matrix operation. -/
def EngOp.box (op : EngOp) : List Int := boxOf (nth 0 op.scal 0) ++ [0]

/-- Row x of the operand that a map names. -/
def State.matRow (s : State) (k : Nat) (op : EngOp) (x : Nat) : Except (Nat × Word) (List Nat) :=
  let t : TMap := op.tm
  s.elemsRead k t op.box (x * t.nk) t.nk op.early

/-- The corrected errors that reading it meets are counted (10: R190). -/
def State.countRow (s : State) (k : Nat) (op : EngOp) (x : Nat) : State :=
  s.countElems k op.tm op.box (x * TMap.nk op.tm) (TMap.nk op.tm)

/-- MLDW at the engine (13: R268). -/
def State.runMldw (s : State) (k : Nat) (op : EngOp) (code wb : Nat) (limit : Option Nat) : OpEnd :=
  let p := corePos k
  let s := s.setWBank p wb {}
  runWhole limit s op fun s =>
    match (span 0 (TMap.nr op.tm)).mapM fun j => s.matRow k op j with
    | .error (c, a) => .fault s c a
    | .ok rows =>
      let s := (span 0 (TMap.nr op.tm)).foldl (fun s j => s.countRow k op j) s
      .ok (s.setWBank p wb { info := op.bankInfo code wb, elems := rows }) op

/-- An element of a tile as an operation read it. -/
def EngOp.acc (op : EngOp) (n i j : Nat) : Nat := op.num (abyte op.abase n + 64 * i + 4 * (j / 2 * 2)) 8 / 2 ^ (32 * (j % 2)) % 2 ^ 32

/-- Row i of a tile written: 16 codes of 32 bits in 8 words, full (13: R269). -/
def State.putRow (s : State) (k : Nat) (op : EngOp) (n i : Nat) (vs : List Nat) : State :=
  s.putWords k ((abyte op.abase n + 64 * i) / 8) (wordsOfNat (pack 32 vs) 8)

/-- MMUL at the engine (13: R269). -/
def State.runMmul (s : State) (k : Nat) (op : EngOp) (set : Bool) (code bank acc : Nat) (limit : Option Nat) : OpEnd :=
  let w := (s.cluster (corePos k)).wbank bank
  match mmulCheck w.info code with
  | some c => ⟨s, { op with prog := 0 }, .faulted c 0⟩
  | none =>
    let fa := (matFmt code (nth 0 op.fmts 0)).getD .f32
    let fb := (matFmt w.info.code w.info.fmt).getD .f32
    let nb := classK (matClass code) / 32
    runUnits (fun s op i =>
      match s.matRow k op i with
      | .error (c, a) => .fault s c a
      | .ok xs =>
        let out := (span 0 16).map fun j =>
          let col := nth [] w.elems j
          let terms := xs.zipIdx.map fun x =>
            product [fa.real x.1, fb.real (nth 0 col x.2), scaleAt op.tabl nb i (x.2 / 32),
              Fmt.ue8m4.real (nth 0x7F0 (nth [] w.info.scales j) (x.2 / 32))]
          let terms := if set then terms else terms ++ [(Fmt.f32.real (op.acc acc i j), Flags.none)]
          sumTo .f32 0 terms
        .ok ((s.countRow k op i).putRow k op acc i (out.map Prod.fst))
          { op with flags := out.foldl (fun f r => f ||| r.2) op.flags }) limit (TMap.nr op.tm - op.prog) op.prog s op

/-- Magnitude index of a ream code (13: R271). -/
def reamIndex (fmt : BitVec 32) (code : Nat) : Nat :=
  if fmt = 0x00028031#32 then (sextNat code 4).natAbs else code % 8
/-- The magnitude of an index in units of 2^−3, so that a product of two is in units of 2^−6 (13: R271, R272). -/
def reamMag (fmt : BitVec 32) (i : Nat) : Nat :=
  if fmt = 0x00020023#32 then 4 * i
  else if fmt = 0x00020095#32 then nth 0 [0, 4, 8, 12, 16, 24, 32, 48] i
  else if fmt = 0x00020187#32 then nth 0 [0, 2, 4, 8, 16, 32, 64, 128] i
  else 8 * i

/-- Counter of a product (13: R272); none where an element is zero. -/
def reamClass (fa fb : BitVec 32) (a b : Nat) : Option Nat :=
  let ia := reamIndex fa a
  let ib := reamIndex fb b
  if ia = 0 || ib = 0 then none else some (64 * ((a / 8 % 2 + b / 8 % 2) % 2) + 8 * (ia - 1) + (ib - 1))

/-- Counts of one row against a Q bank (13: R274). -/
def CBank.countRow (b : CBank) (q : WBank) (fa : BitVec 32) (i : Nat) (xs : List Nat) : CBank :=
  (span 0 16).foldl (fun (b : CBank) j =>
    let col := nth [] q.elems j
    xs.zipIdx.foldl (fun (b : CBank) x =>
      match reamClass fa q.info.fmt x.1 (nth 0 col x.2) with
      | none => b
      | some c =>
        let key := 128 * (16 * i + j) + c
        { b with counts := Tab.put b.counts key (Tab.get 0 b.counts key + 1) }) b) b

/-- MREAM at the engine (13: R274). DEPTH is charged once, unless the bank was cleared since (13: R273). -/
def State.runMream (s : State) (k : Nat) (op : EngOp) (q cb : Nat) (limit : Option Nat) : OpEnd :=
  let p := corePos k
  let bank := (s.cluster p).wbank (2 + q)
  let cnt := (s.cluster p).cbank cb
  let fa := nth 0 op.fmts 0
  let t : TMap := op.tm
  match mreamCheck bank.info cnt.info fa op.tabl (cnt.info.owes op.begun t.nk) with
  | some c => ⟨s, { op with prog := 0 }, .faulted c 0⟩
  | none =>
    let s := if op.begun && cnt.info.bound then s
      else s.setCBank p cb { cnt with info := cnt.info.charge bank.info fa op.tabl t.nk }
    runUnits (fun s op i =>
      match s.matRow k op i with
      | .error (c, a) => .fault s c a
      | .ok xs => .ok ((s.countRow k op i).setCBank p cb (((s.cluster p).cbank cb).countRow bank fa i xs)) op)
      limit (t.nr - op.prog) op.prog s { op with begun := true }

/-- MRMRG at the engine (13: R275). -/
def State.runMrmrg (s : State) (k : Nat) (op : EngOp) (src dst : Nat) (limit : Option Nat) : OpEnd :=
  let p := corePos k
  let a := (s.cluster p).cbank src
  let d := (s.cluster p).cbank dst
  runWhole limit s op fun s =>
    match mergeCheck d.info a.info with
    | some c => .fault s c 0
    | none =>
      if !a.info.bound then .ok s op
      else
        let counts := if d.info.bound then a.counts.foldl (fun t e => Tab.put t e.1 (Tab.get 0 t e.1 + e.2)) d.counts else a.counts
        .ok ((s.setCBank p dst { info := d.info.merge a.info, counts := counts }).setCBank p src {}) op

/-- The exact value that a counter bank's output drains to (13: R272, R276). -/
def CBank.drained (b : CBank) (i j : Nat) : Val × Flags :=
  let n : Int := (span 0 128).foldl (fun (a : Int) c =>
    let cnt := Tab.get 0 b.counts (128 * (16 * i + j) + c)
    let m := reamMag b.info.fa (c % 64 / 8 + 1) * reamMag b.info.fb (c % 8 + 1)
    if c < 64 then a + (cnt * m : Nat) else a - (cnt * m : Nat)) 0
  let rs := Fmt.ue8m4.real (if b.info.bound then nth 0x7F0 b.info.rs i else 0x7F0)
  let cs := Fmt.ue8m4.real (if b.info.bound then nth 0x7F0 b.info.cs j else 0x7F0)
  let x : Val := .fin (n < 0) n.natAbs (-6)
  if rs.isNan || cs.isNan then (.nan false, Flags.none)
  else if n = 0 || !b.info.bound || rs.isZero || cs.isZero then (.fin false 0 0, Flags.none)
  else product [x, rs, cs]

/-- The absmax merge: FMAXABS of m into the word; host memory does not carry it (13: R278; 15: R322). -/
def State.absmax (s : State) (k : Nat) (a : Word) (m : Nat) : Except (Nat × Word) State :=
  match s.engineHomes k .atomic [(a.toNat, 4)] with
  | .error x => .error x
  | .ok hs =>
    let h := (hs.head?.map Prod.fst).getD 0
    if hostHome h then .error (cBAD_ADDRESS, a)
    else if s.badAt h 4 then .error (cUNCORR_ECC, a)
    else
      let r := ((s.countEcc (regionOf (corePos k)) h 4).clean h 4).atomicAt h { kind := 5, op := 1, n := 4, d1 := BitVec.ofNat 64 m }
      .ok (r.2.accessed k .atomic a 4)

/-- The merge as unit 16 of an operation whose rows are done (13: R266, R278). -/
def State.finalMerge (r : OpEnd) (k : Nat) (a : Word) (limit : Option Nat) : OpEnd :=
  match r.how with
  | .complete =>
    if a = 0#64 then r
    else if limit.isSome then ⟨r.s, { r.op with prog := 16 }, .stopped⟩
    else match r.s.absmax k a r.op.carry with
      | .ok s => ⟨s, r.op, .complete⟩
      | .error (c, x) => ⟨r.s, { r.op with prog := 16 }, .of c x⟩
  | _ => r

/-- The largest magnitude so far with the magnitudes of a row (13: R278). -/
def rowMax (m : Nat) (vs : List Nat) : Nat := vs.foldl maxAbs m

/-- MDRAIN at the engine (13: R276). -/
def State.runMdrain (s : State) (k : Nat) (op : EngOp) (set : Bool) (acc cb : Nat) (limit : Option Nat) : OpEnd :=
  let p := corePos k
  let b := (s.cluster p).cbank cb
  let tile := (span 0 256).map fun e => ofBytes ((s.core k).reg.bytes (abyte op.abase acc + 4 * e) 4)
  let op := if op.prog = 16 && op.carry = 0 then { op with carry := rowMax 0 tile } else op
  let r := runUnits (fun s op i =>
    let out := (span 0 16).map fun j =>
      let t := [b.drained i j]
      sumTo .f32 0 (if set then t else t ++ [(Fmt.f32.real (op.acc acc i j), Flags.none)])
    let vs := out.map Prod.fst
    .ok (s.putRow k op acc i vs) { op with flags := out.foldl (fun f r => f ||| r.2) op.flags, carry := rowMax op.carry vs })
    limit (16 - op.prog) op.prog s op
  let r := match r.how with
    | .complete => { r with s := r.s.setCBank p cb {} }
    | _ => r
  State.finalMerge r k (nth 0 op.scal 0) limit

/-- MSTORE at the engine (13: R277). `begun` says that some element has been written. -/
def State.runMstore (s : State) (k : Nat) (op : EngOp) (code acc : Nat) (limit : Option Nat) : OpEnd :=
  let t : TMap := op.tm
  let f := (matFmt code (nth 0 op.fmts 0)).getD .f32
  let rows := (span 0 t.nr).map fun i => (span 0 t.nk).map fun j => op.acc acc i j
  let inside := fun i j => t.place op.box (i * t.nk + j) ≠ .fill
  let r := runUnits (fun s op i =>
    let vs := nth [] rows i
    let codes := vs.map fun v => if code = 0 then (v, Flags.none) else f.encode op.rm (Fmt.f32.real v)
    match s.layPieces op.hits k (byAddress (t.layout op.box (i * t.nk) (codes.map Prod.fst))) with
    | (some (c, a), hits, s') => .fault s' c a hits
    | (none, hits, s') =>
      let fl := codes.zipIdx.foldl (fun g r => if inside i r.2 then g ||| r.1.2 else g) op.flags
      .ok s' { op with flags := fl, hits := hits }) limit (t.nr - op.prog) op.prog s op
  let written := (rows.zipIdx.flatMap fun row => (row.1.zipIdx.filter fun v => inside row.2 v.2).map Prod.fst)
  let r := { r with op := { r.op with carry := rowMax 0 written } }
  State.finalMerge r k (if written.isEmpty then 0 else nth 0 op.scal 1) limit

/-- MCLR at the engine or engines: its effect, VALID among it, comes in one step (13: R266, R279). -/
def State.runMclr (s : State) (k : Nat) (op : EngOp) (tgt : Nat) (limit : Option Nat) : OpEnd :=
  let p := corePos k
  runWhole limit s op fun s =>
    let s := op.writes.foldl (fun s w => s.putWords k w.1 (List.replicate w.2 0)) s
    let s := s.setCore k ((s.core k).clearStopped tgt)
    let s := if tgt = 4 || tgt = 6 then s.setCBank p 0 {} else s
    .ok (if tgt = 5 || tgt = 6 then s.setCBank p 1 {} else s) op

end Sys2Proof.Machine
end

