-- ==== Sys2Proof/Machine/Special.lean ====
section
/-! DEFINITION. One lane of a special function (14: R295): special values, exact cases, and for every other operand the
codes within the rule's bound, among which a free value picks (log 12). -/

namespace Sys2Proof.Machine

/-! ### What the rule fixes -/

/-- 2^n as a value; huge exponents are kept out. -/
def pow2 (n : Int) : Option Val := if n.natAbs ≤ 300 then some (.fin false 1 n) else none

/-- A power of two ± 2^n. -/
def Val.log2Exact : Val → Option Int
  | .fin _ m e => if m ≠ 0 && 2 ^ m.log2 = m then some (m.log2 + e) else none
  | _ => none

/-- Value of an exact case (14: R295). -/
def sfExact (sel : Nat) (x : Val) : Option Val :=
  match sel with
  | 0 => if x.isZero then some (.fin false 1 0) else none
  | 1 => if x.isZero then some (.fin false 1 0)
         else if x.isInteger && decide (x.ilog2 < 12) then pow2 (x.toInt 1).1 else none
  | 2 => if x.sign then none else x.log2Exact.map Val.ofInt
  | 3 => if x.sign then none
         else match x.log2Exact with
           | some n => if n % 2 = 0 then pow2 (-(n / 2)) else none
           | none => none
  | 4 => match x.log2Exact with
    | some n => (pow2 (-n)).map fun v => if x.sign then v.neg else v
    | none => none
  | 5 => if x.isZero then some x else none
  | _ => if x.isZero then some (.fin false 1 (-1)) else none

/-- Special values (14: R295): the result and its flags. -/
def sfSpecial (sel : Nat) (f : Fmt) (x : Val) : Option (Nat × Flags) :=
  let inf := f.infCode false
  let one := (f.encode 0 (.fin false 1 0)).1
  let nan : Nat × Flags := (f.nanCode, Flags.nv)
  match x with
  | .nan sig => some (f.nanCode, if sig then Flags.nv else Flags.none)
  | .inf neg =>
    match sel with
    | 0 | 1 => some (if neg then 0 else inf, Flags.none)
    | 2 => some (if neg then nan else (inf, Flags.none))
    | 3 => some (if neg then nan else (0, Flags.none))
    | 4 => some (f.signed neg 0, Flags.none)
    | 5 => some (f.signed neg one, Flags.none)
    | _ => some (if neg then 0 else one, Flags.none)
  | .fin neg m _ =>
    match sel with
    | 2 => if m = 0 then some (f.infCode true, Flags.dz) else if neg then some nan else none
    | 3 => if m = 0 then some (f.infCode neg, Flags.dz) else if neg then some nan else none
    | 4 => if m = 0 then some (f.infCode neg, Flags.dz) else none
    | _ => none

/-! ### The functions to far more places than a lane holds: fixed point of 128 places -/

/-- 2^t for a fraction t, by the series of e^(t·ln 2): `term` is its term of number `i`. -/
def exp2Series (y : Nat) : Nat → Nat → Nat → Nat → Nat
  | 0, _, _, acc => acc
  | n + 1, i, term, acc =>
    let term := term * y / 2 ^ 128 / i
    exp2Series y n (i + 1) term (acc + term)

/-- ln 2 and log2 e to 128 places. -/
def ln2Fix : Nat := 235865763225513294137944142764154484399
def log2eFix : Nat := 490923683258796565746369346286093237521

/-- A signed value in fixed point. -/
def fixOf : Val → Int
  | .fin neg m e =>
    let v : Nat := if 0 ≤ e + 128 then m * 2 ^ (e + 128).toNat else m / 2 ^ (-(e + 128)).toNat
    if neg then -(v : Int) else v
  | _ => 0

/-- 2^z for z in fixed point: a mantissa of 128 places and an exponent. -/
def exp2Fix (z : Int) : Nat × Int :=
  let t := (z % 2 ^ 128).toNat
  (exp2Series (t * ln2Fix / 2 ^ 128) 40 1 (2 ^ 128) (2 ^ 128), z / 2 ^ 128)

/-- e^z in fixed point, for z in fixed point and not below 0. -/
def expFix (z : Nat) : Nat :=
  let r := exp2Fix (z * log2eFix / 2 ^ 128 : Nat)
  r.1 * 2 ^ r.2.toNat

/-- Bits of the fraction of log2 u, for u from 1 to 2 in fixed point, highest first: a squaring for each. -/
def log2Bits : Nat → Nat → Nat → Nat
  | 0, _, acc => acc
  | n + 1, u, acc =>
    let u := u * u / 2 ^ 128
    if 2 ^ 129 ≤ u then log2Bits n (u / 2) (2 * acc + 1) else log2Bits n u (2 * acc)

/-- The integer square root: its bits from bit `b − 1` down. -/
def isqrtBits (n : Nat) : Nat → Nat → Nat
  | 0, r => r
  | b + 1, r => isqrtBits n b (if (r + 2 ^ b) * (r + 2 ^ b) ≤ n then r + 2 ^ b else r)

/-- 1 + x for a small x. -/
def onePlus : Val → Val
  | .fin neg m e => .fin false (if neg then 2 ^ (-e).toNat - m else 2 ^ (-e).toNat + m) e
  | v => v

/-- f(x) for a finite operand that is no special value and no exact case, with an error far below a unit of any lane. What
lies next to a code, too close for 128 places, keeps its side of it. -/
def sfValue (sel : Nat) (x : Val) : Val :=
  match x with
  | .fin neg m e =>
    let huge := decide (13 < x.ilog2)
    let small := decide (x.ilog2 < -40)
    let pow (z : Int) : Val := let r := exp2Fix z; .fin false r.1 (r.2 - 128)
    match sel with
    | 0 =>
      if huge then (if neg then .fin false 0 0 else .inf false)
      else if small then onePlus x
      else pow (fixOf x * log2eFix / 2 ^ 128)
    | 1 =>
      if huge then (if neg then .fin false 0 0 else .inf false)
      else if small then onePlus (.fin neg (m * ln2Fix) (e - 128))
      else pow (fixOf x)
    | 2 =>
      let k : Int := m.log2 + e
      let v : Int := k * 2 ^ 110 + log2Bits 110 (m * 2 ^ 128 / 2 ^ m.log2) 0
      .fin (decide (v < 0)) v.natAbs (-110)
    | 3 =>
      let odd := e % 2
      .fin false (isqrtBits (2 ^ 200 / (m * 2 ^ odd.toNat)) 101 0) (-100 - e / 2)
    | 4 => .fin neg (2 ^ 128 / m) (-128 - e)
    | 5 =>
      if small then .fin neg (m * 2 ^ 60 - 1) (e - 60)
      else if 6 < x.ilog2 then .fin neg (2 ^ 200 - 1) (-200)
      else
        let E := expFix (2 * (fixOf x).natAbs)
        .fin neg ((E - 2 ^ 128) * 2 ^ 256 / (E + 2 ^ 128)) (-256)
    | _ =>
      if 8 < x.ilog2 then (if neg then .fin false 0 0 else .fin false (2 ^ 200 - 1) (-200))
      else if small then
        match onePlus (.fin neg m (e - 1)) with
        | .fin n m e => .fin n m (e - 1)
        | v => v
      else
        let E := expFix (fixOf x).natAbs
        .fin false ((if neg then 2 ^ 128 else E) * 2 ^ 1024 / (E + 2 ^ 128)) (-1024)
  | v => v

/-! ### Codes within the bound (14: R295) -/

/-- Bound in units in the last place: 2 or 1 for binary32 lanes, 1 for the others. -/
def sfBound (sel : Nat) (f : Fmt) : Nat := if f.w = 32 && sel ≠ 3 && sel ≠ 4 then 2 else 1

/-- Integer and exponent of the unit of a magnitude code; the infinity stands for the power of two that it begins at. -/
def Fmt.units (f : Fmt) (mag : Nat) : Nat × Int :=
  let e := mag / 2 ^ f.m
  let top := 2 ^ f.e - 1
  if e = 0 then (mag, 1 - f.bias - f.m)
  else if e = top then (2 ^ (f.m + 1), top - 1 - f.bias - f.m)
  else (2 ^ f.m + mag % 2 ^ f.m, e - f.bias - f.m)

/-- A magnitude code lies within `n` units in its last place of m · 2^e. -/
def Fmt.near (f : Fmt) (n mag m : Nat) (e : Int) : Bool :=
  let u := f.units mag
  let b := min u.2 e
  let unit := 2 ^ (u.2 - b).toNat
  let d : Int := (u.1 * unit : Nat) - (m * 2 ^ (e - b).toNat : Nat)
  decide (d.natAbs ≤ n * unit)

/-- The magnitude codes that the bound allows for a value; its own rounding is one of them, and the only one where it is
the infinity, an overflow. -/
def Fmt.within (f : Fmt) (n : Nat) (x : Val) : List Nat :=
  match x.abs with
  | .fin _ m e =>
    let c := (f.encode 0 (.fin false m e)).1
    if c = f.infCode false then [c]
    else c :: (span (c - (n + 1)) (2 * n + 3)).filter fun g =>
      decide (g ≠ c) && decide (g ≤ f.infCode false) && f.near n g m e
  | v => [(f.encode 0 v).1]

/-- One lane of a special function (14: R295): what the rule fixes, else a code within its bound, with the flags that
follow from it; a result that overflows is the infinity with OF and NX. -/
def sfLane (sel ty : Nat) (f : Fmt) (b : Nat) : Nat × Flags :=
  let x := f.real b
  match sfSpecial sel f x with
  | some r => r
  | none =>
    let exact := (sfExact sel x).map fun v => f.encode 0 v
    match exact.filter fun r => r.2 = Flags.none with
    | some r => r
    | none =>
      let y := sfValue sel x
      let cs := f.within (sfBound sel f) y
      let mag := nth 0 cs (Config.specialFunction sel ty b % cs.length)
      let tiny := mag < 2 ^ f.m
      (f.signed y.sign mag,
        Flags.nx ||| (if tiny then Flags.uf else Flags.none) ||| (if mag = f.infCode false then Flags.of else Flags.none))

end Sys2Proof.Machine
end

