-- ==== Sys2Proof/Machine/Vector.lean ====
section
/-! DEFINITION. The vector engine VX and the special functions SF (14: R283-R297). -/

namespace Sys2Proof.Machine

/-! ### Lanes (14: R283) -/

/-- Lane format of a type; integers are two's complement (14: R283). -/
def laneFmt (c : Core) (ty : Nat) : Option Fmt :=
  match ty with
  | 0 => some (Fmt.int 8)
  | 1 => some (Fmt.int 16)
  | 2 => some (Fmt.int 32)
  | 3 => some .f32
  | 4 => some .bf16
  | 5 => some .f16
  | 6 => Fmt.ofReg (Tab.get 0 c.fmts 0)
  | _ => Fmt.ofReg (Tab.get 0 c.fmts 1)

/-- Lane width of a format. -/
def laneW (f : Fmt) : Nat := pitch f.w

/-- Words of a vector register (05: R91). -/
def vWords (vbase n : Nat) : Nat × Nat := (vbyte vbase n / 8, 32)

/-- The lane format an operation carries: its number, then the others. -/
def EngOp.lane (op : EngOp) (ty i : Nat) : Fmt :=
  match ty with
  | 0 => Fmt.int 8
  | 1 => Fmt.int 16
  | 2 => Fmt.int 32
  | 3 => .f32
  | 4 => .bf16
  | 5 => .f16
  | _ => (Fmt.ofReg (nth 0 op.fmts i)).getD .f32

/-- Lanes of a vector register as the operation read it. -/
def EngOp.lanes (op : EngOp) (n w : Nat) : List Nat :=
  let v := op.num (vbyte op.vbase n) 256
  (span 0 (2048 / w)).map fun i => v / 2 ^ (w * i) % 2 ^ w

/-- The format registers of types 6 and 7. -/
def Core.vfmts (c : Core) (tys : List Nat) : List (BitVec 32) := tys.map fun t => if t = 6 then Tab.get 0 c.fmts 0 else Tab.get 0 c.fmts 1

/-- Issue of an operation on vector registers (07: R143; 14: R284): format types must describe formats; then `more`;
then the queue. Vector registers and scalars read, vector registers and scalars written. -/
def State.vissue (s : State) (k eng : Nat) (i : Instr) (tys vr sr vw sw : List Nat) (tm : BitVec 512 := 0)
    (more : Option Nat := none) : State :=
  s.leased k [eng] fun s =>
    let c := s.core k
    if tys.any fun t => (laneFmt c t).isNone then s.trap { code := cFORMAT_UNSUPPORTED }
    else s.checked more fun s =>
      let b := c.vbase.toNat
      s.dispatch k { instr := i, engs := [eng], tm := tm, fmts := c.vfmts tys,
                     reads := vr.map (vWords b) ++ sr.map (fun r => (r, 1)), writes := vw.map (vWords b) ++ sw.map (fun r => (r, 1)) }

def State.vx (s : State) (i : Instr) (tys vr sr vw sw : List Nat) (more : Nat → State → Option Nat := fun _ _ => none) : Out :=
  .next (s.onTile fun k => s.vissue k 2 i tys vr sr vw sw 0 (more k s))

def execVadd (ty : BitVec 3) (vb va vd : BitVec 5) (s : State) : Out :=
  s.vx (.vadd ty vb va vd) [ty.toNat] [va.toNat, vb.toNat] [] [vd.toNat] []
def execVsub (ty : BitVec 3) (vb va vd : BitVec 5) (s : State) : Out :=
  s.vx (.vsub ty vb va vd) [ty.toNat] [va.toNat, vb.toNat] [] [vd.toNat] []
def execVmul (ty : BitVec 3) (vb va vd : BitVec 5) (s : State) : Out :=
  s.vx (.vmul ty vb va vd) [ty.toNat] [va.toNat, vb.toNat] [] [vd.toNat] []
def execVfma (ty : BitVec 3) (vb va vd : BitVec 5) (s : State) : Out :=
  s.vx (.vfma ty vb va vd) [ty.toNat] [va.toNat, vb.toNat, vd.toNat] [] [vd.toNat] []
def execVmin (ty : BitVec 3) (vb va vd : BitVec 5) (s : State) : Out :=
  s.vx (.vmin ty vb va vd) [ty.toNat] [va.toNat, vb.toNat] [] [vd.toNat] []
def execVmax (ty : BitVec 3) (vb va vd : BitVec 5) (s : State) : Out :=
  s.vx (.vmax ty vb va vd) [ty.toNat] [va.toNat, vb.toNat] [] [vd.toNat] []
def execVabs (ty : BitVec 3) (va vd : BitVec 5) (s : State) : Out :=
  s.vx (.vabs ty va vd) [ty.toNat] [va.toNat] [] [vd.toNat] []
def execVneg (ty : BitVec 3) (va vd : BitVec 5) (s : State) : Out :=
  s.vx (.vneg ty va vd) [ty.toNat] [va.toNat] [] [vd.toNat] []
def execVand (vb va vd : BitVec 5) (s : State) : Out := s.vx (.vand vb va vd) [] [va.toNat, vb.toNat] [] [vd.toNat] []
def execVor (vb va vd : BitVec 5) (s : State) : Out := s.vx (.vor vb va vd) [] [va.toNat, vb.toNat] [] [vd.toNat] []
def execVxor (vb va vd : BitVec 5) (s : State) : Out := s.vx (.vxor vb va vd) [] [va.toNat, vb.toNat] [] [vd.toNat] []
def execVandn (vb va vd : BitVec 5) (s : State) : Out := s.vx (.vandn vb va vd) [] [va.toNat, vb.toNat] [] [vd.toNat] []
def execVnot (va vd : BitVec 5) (s : State) : Out := s.vx (.vnot va vd) [] [va.toNat] [] [vd.toNat] []
def execVshl (ty : BitVec 3) (vb va vd : BitVec 5) (s : State) : Out :=
  s.vx (.vshl ty vb va vd) [ty.toNat] [va.toNat, vb.toNat] [] [vd.toNat] []
def execVshr (ty : BitVec 3) (vb va vd : BitVec 5) (s : State) : Out :=
  s.vx (.vshr ty vb va vd) [ty.toNat] [va.toNat, vb.toNat] [] [vd.toNat] []
def execVsar (ty : BitVec 3) (vb va vd : BitVec 5) (s : State) : Out :=
  s.vx (.vsar ty vb va vd) [ty.toNat] [va.toNat, vb.toNat] [] [vd.toNat] []
def execVcmp (cond ty : BitVec 3) (vb va vd : BitVec 5) (s : State) : Out :=
  s.vx (.vcmp cond ty vb va vd) [ty.toNat] [va.toNat, vb.toNat] [] [vd.toNat] []
def execVsel (ty : BitVec 3) (vb va vd : BitVec 5) (s : State) : Out :=
  s.vx (.vsel ty vb va vd) [ty.toNat] [va.toNat, vb.toNat, vd.toNat] [] [vd.toNat] []

/-- A format type whose pitch is below 8 is ILLEGAL_OP for VPERMX (14: R289). -/
def execVpermx (ty : BitVec 3) (vb va vd : BitVec 5) (s : State) : Out :=
  s.vx (.vpermx ty vb va vd) [ty.toNat] [va.toNat, vb.toNat] [] [vd.toNat] [] fun k s =>
    match laneFmt (s.core k) ty.toNat with
    | some f => if laneW f < 8 then some cILLEGAL_OP else none
    | none => none

def execVbcast (ty : BitVec 3) (va vd : BitVec 5) (s : State) : Out :=
  s.vx (.vbcast ty va vd) [ty.toNat] [va.toNat] [] [vd.toNat] []
def execVslideup (ty : BitVec 3) (vb va vd : BitVec 5) (s : State) : Out :=
  s.vx (.vslideup ty vb va vd) [ty.toNat] [va.toNat] [vb.toNat] [vd.toNat] []
def execVslidedn (ty : BitVec 3) (vb va vd : BitVec 5) (s : State) : Out :=
  s.vx (.vslidedn ty vb va vd) [ty.toNat] [va.toNat] [vb.toNat] [vd.toNat] []
def execVzip (ty : BitVec 3) (vb va vd : BitVec 5) (s : State) : Out :=
  s.vx (.vzip ty vb va vd) [ty.toNat] [va.toNat, vb.toNat] [] [vd.toNat] []
def execVunzip (ty : BitVec 3) (va vd : BitVec 5) (s : State) : Out :=
  s.vx (.vunzip ty va vd) [ty.toNat] [va.toNat] [] [vd.toNat] []
def execViota (ty : BitVec 3) (vd : BitVec 5) (s : State) : Out := s.vx (.viota ty vd) [ty.toNat] [] [] [vd.toNat] []

/-- The ratio and part of a VCVT with a format type (14: R291). -/
def convOk (a b part : Nat) : Bool := decide (max a b ≤ 8 * min a b) && decide (part * min a b < max a b)

/-- A narrowing VCVT also reads its destination (14: R291). -/
def execVcvt (dst src part : BitVec 3) (mode : BitVec 2) (va vd : BitVec 5) (s : State) : Out :=
  .next (s.onTile fun k =>
    let c := s.core k
    let ls := (laneFmt c src.toNat).map fun f => 2048 / laneW f
    let ld := (laneFmt c dst.toNat).map fun f => 2048 / laneW f
    match ls, ld with
    | some a, some b =>
      s.vissue k 2 (.vcvt dst src part mode va vd) [src.toNat, dst.toNat]
        (if a < b then [va.toNat, vd.toNat] else [va.toNat]) [] [vd.toNat] [] 0
        (if convOk a b part.toNat then none else some cILLEGAL_OP)
    | _, _ => s.vissue k 2 (.vcvt dst src part mode va vd) [src.toNat, dst.toNat] [] [] [] [])

def execVred (op ty : BitVec 3) (va vd : BitVec 5) (s : State) : Out :=
  s.vx (.vred op ty va vd) [ty.toNat] [va.toNat] [] [] [vd.toNat]

def execVmovls (ty : BitVec 3) (vb va vd : BitVec 5) (s : State) : Out :=
  s.vx (.vmovls ty vb va vd) [ty.toNat] [va.toNat] [vb.toNat] [] [vd.toNat]

/-- VMOVSL: s(vb) is read at issue; only the word that holds the lane is owed (14: R290). -/
def execVmovsl (ty : BitVec 3) (vb va vd : BitVec 5) (s : State) : Out :=
  .next (s.onTile fun k => s.leased k [2] fun s =>
    match laneFmt (s.core k) ty.toNat with
    | none => s.trap { code := cFORMAT_UNSUPPORTED }
    | some f => s.sources false .d [vb.toNat] fun s =>
      let c := s.core k
      let w := laneW f
      let lane := (s.reg vb.toNat).toNat % (2048 / w)
      s.dispatch k { instr := .vmovsl ty vb va vd, engs := [2], fmts := c.vfmts [ty.toNat], scal := [BitVec.ofNat 64 lane],
                     reads := [(va.toNat, 1)], writes := [(vbyte c.vbase.toNat vd.toNat / 8 + lane * w / 64, 1)] })

/-! ### Lane results -/

/-- A comparison condition of VCMP (14: R288). -/
def vcond (cond w : Nat) (a b : Nat) : Bool :=
  let x := sextNat a w
  let y := sextNat b w
  match cond with
  | 0 => a = b
  | 1 => a ≠ b
  | 2 => decide (x < y)
  | 3 => decide (x ≤ y)
  | 4 => decide (y < x)
  | 5 => decide (y ≤ x)
  | 6 => decide (a < b)
  | _ => decide (a ≤ b)

/-- The same for floating lanes (14: R288; 06: R116). -/
def vfcond (f : Fmt) (cond a b : Nat) : Bool × Flags :=
  match cond with
  | 0 => fcompare f 0 a b
  | 1 => (!(fcompare f 0 a b).1, (fcompare f 0 a b).2)
  | 2 => fcompare f 1 a b
  | 3 => fcompare f 2 a b
  | 4 => fcompare f 1 b a
  | _ => fcompare f 2 b a

/-- Lane-wise arithmetic of VARITH: sub, format, rounding mode, d, a, b (14: R286). -/
def varith (sub : Nat) (isInt : Bool) (f : Fmt) (rm d a b : Nat) : Nat × Flags :=
  let w := f.w
  let plain (v : Nat) : Nat × Flags := (v % 2 ^ w, Flags.none)
  if isInt then
    match sub with
    | 0 => plain (a + b)
    | 1 => plain (a + 2 ^ w - b)
    | 2 => plain (a * b)
    | 3 => plain (d + a * b)
    | 4 => plain (if sextNat a w ≤ sextNat b w then a else b)
    | 5 => plain (if sextNat a w ≤ sextNat b w then b else a)
    | 6 => plain (if sextNat a w < 0 then 2 ^ w - a else a)
    | _ => plain (2 ^ w - a)
  else
    match sub with
    | 0 => fadd f rm a b
    | 1 => fsub f rm a b
    | 2 => fmul f rm a b
    | 3 => ffma f rm d a b
    | 4 => fminmax f false a b
    | 5 => fminmax f true a b
    | 6 => plain (a % 2 ^ (w - 1))
    | _ => plain ((a + 2 ^ (w - 1)) % 2 ^ w)

/-- A result written to a vector register: its first word and its words. -/
abbrev Put := Nat × List Word

/-- Lanes of width w written to register n. -/
def EngOp.put (op : EngOp) (n w : Nat) (vs : List Nat) : Put := (vbyte op.vbase n / 8, wordsOfNat (pack w vs) 32)

/-- Lanes with flags written to register n. -/
def EngOp.putF (op : EngOp) (n w : Nat) (rs : List (Nat × Flags)) : List Put × Flags :=
  ([op.put n w (rs.map Prod.fst)], rs.foldl (fun f r => f ||| r.2) Flags.none)

/-- VARITH (14: R286). -/
def EngOp.arith (op : EngOp) (sub : Nat) (ty : BitVec 3) (vb va vd : BitVec 5) : List Put × Flags :=
  let f := op.lane ty.toNat 0
  let w := laneW f
  let a := op.lanes va.toNat w
  let b := op.lanes vb.toNat w
  let d := op.lanes vd.toNat w
  op.putF vd.toNat w ((d.zip (a.zip b)).map fun x => varith sub (decide (ty.toNat < 3)) f op.rm x.1 x.2.1 x.2.2)

/-- A bitwise operation or a shift on two registers (14: R287). -/
def EngOp.bitwise (op : EngOp) (w : Nat) (vb va vd : BitVec 5) (f : Nat → Nat → Nat) : List Put × Flags :=
  ([op.put vd.toNat w (((op.lanes va.toNat w).zip (op.lanes vb.toNat w)).map fun x => f x.1 x.2 % 2 ^ w)], Flags.none)

/-- A permutation: lane k of the result from its number (14: R289). A moved code keeps its format's bits. -/
def EngOp.perm (op : EngOp) (ty : BitVec 3) (vd : BitVec 5) (g : Nat → Nat → Nat) : List Put × Flags :=
  let f := op.lane ty.toNat 0
  let w := laneW f
  ([op.put vd.toNat w ((span 0 (2048 / w)).map fun k => g w k % 2 ^ f.w)], Flags.none)

/-- The lowest lane holding the best value; NaN lanes are passed over (14: R292). -/
def argBest (better : Nat → Nat → Bool) (skip : Nat → Bool) : List Nat → Nat → Option (Nat × Nat) → Option Nat
  | [], _, b => b.map Prod.fst
  | x :: t, i, b =>
    if skip x then argBest better skip t (i + 1) b
    else match b with
      | none => argBest better skip t (i + 1) (some (i, x))
      | some (j, y) => argBest better skip t (i + 1) (if better x y then some (i, x) else some (j, y))

/-- x above y under R115 order. -/
def above (f : Fmt) (x y : Nat) : Bool :=
  let a := f.real x
  let b := f.real y
  b.lt a || (a.eq b && b.sign && !a.sign)

/-- VRED over integer lanes (14: R292). -/
def vredInt (op w : Nat) (xs : List Nat) : Word :=
  let z := xs.map fun x => sextNat x w
  let best (f : Int → Int → Bool) : Int := z.foldl (fun a x => if f x a then x else a) (nth 0 z 0)
  match op with
  | 0 => BitVec.ofInt 64 (z.foldl (· + ·) 0)
  | 1 => BitVec.ofInt 64 (best fun x a => decide (a < x))
  | 2 => BitVec.ofInt 64 (best fun x a => decide (x < a))
  | 3 => BitVec.ofNat 64 (z.foldl (fun a x => max a x.natAbs) 0)
  | 4 => BitVec.ofInt 64 (z.foldl (fun a x => a + x * x) 0)
  | 5 => BitVec.ofNat 64 ((argBest (fun x y => decide (sextNat y w < sextNat x w)) (fun _ => false) xs 0 none).getD 0)
  | 6 => BitVec.ofNat 64 ((argBest (fun x y => decide (sextNat x w < sextNat y w)) (fun _ => false) xs 0 none).getD 0)
  | _ => z.foldl (fun a x => a * BitVec.ofInt 64 x) 1

/-- A result with flags raised before. -/
def withFlags (fl : Flags) (r : Nat × Flags) : Nat × Flags := (r.1, fl ||| r.2)

/-- VRED over floating lanes (14: R292; 11: R227). -/
def vredFloat (op rm : Nat) (f : Fmt) (xs : List Nat) : Word × Flags :=
  let dec := xs.map fun x => if f = Fmt.f32 then (x, Flags.none) else convert f .f32 0 x
  let ys := dec.map Prod.fst
  let fl := dec.foldl (fun g r => g ||| r.2) Flags.none
  let out (r : Nat × Flags) : Word × Flags := (BitVec.ofNat 64 r.1, r.2 ||| fl)
  let tree (g : Nat → Nat → Nat × Flags) (l : List Nat) : Nat × Flags :=
    let t := treeFold g 9 l
    (nth 0 t.1 0, t.2)
  let fold (mx : Bool) : Nat × Flags :=
    match ys with
    | [] => (0, Flags.none)
    | y :: t => t.foldl (fun a x => withFlags a.2 (fminmax .f32 mx a.1 x)) (y, Flags.none)
  let snan := snanFlag (xs.map f.real)
  let arg (better : Nat → Nat → Bool) : Word × Flags :=
    match argBest better (fun x => (f.real x).isNan) xs 0 none with
    | some i => (BitVec.ofNat 64 i, snan)
    | none => (BitVec.allOnes 64, snan)
  match op with
  | 0 => out (tree (fadd .f32 rm) ys)
  | 1 => out (fold true)
  | 2 => out (fold false)
  | 3 => if ys.any fun y => (Fmt.f32.real y).isNan then (BitVec.ofNat 64 Fmt.f32.nanCode, snan)
         else (BitVec.ofNat 64 (ys.foldl (fun m y => max m (y % 2 ^ 31)) 0), Flags.none)
  | 4 =>
    let sq := ys.map fun y => fmul .f32 rm y y
    let t := tree (fadd .f32 rm) (sq.map Prod.fst)
    out (t.1, t.2 ||| sq.foldl (fun g r => g ||| r.2) Flags.none)
  | 5 => arg (above f)
  | 6 => arg fun x y => above f y x
  | _ => out (tree (fmul .f32 rm) ys)

/-- VCVT (14: R291). -/
def EngOp.convert (op : EngOp) (dst src part : BitVec 3) (mode : BitVec 2) (va vd : BitVec 5) : List Put × Flags :=
  let fs := op.lane src.toNat 0
  let fd := op.lane dst.toNat 1
  let ws := laneW fs
  let wd := laneW fd
  let ls := 2048 / ws
  let ld := 2048 / wd
  let rm := match mode.toNat with
    | 0 => 0
    | 1 => 1
    | 2 => 4
    | _ => op.rm
  let a := op.lanes va.toNat ws
  let n := min ls ld
  let from_ := fun k => if ls < ld then k else part.toNat * ld + k
  let rs := (span 0 n).map fun k => Machine.convert fs fd rm (nth 0 a (from_ k))
  if ls < ld then
    let d := op.lanes vd.toNat wd
    let lo := part.toNat * ls
    op.putF vd.toNat wd (d.zipIdx.map fun x =>
      if lo ≤ x.2 && x.2 < lo + n then nth (0, Flags.none) rs (x.2 - lo) else (x.1, Flags.none))
  else op.putF vd.toNat wd rs

/-! ### Special functions (14: R295, R296) -/

/-- ROWMAXSUB (14: R296). -/
def rowMaxSub (f : Fmt) (xs : List Nat) : List (Nat × Flags) :=
  (span 0 (xs.length / 16)).flatMap fun g =>
    let seg := (span (16 * g) 16).map fun i => nth 0 xs i
    let m := match seg with
      | [] => (0, Flags.none)
      | y :: t => t.foldl (fun (a : Nat × Flags) x => withFlags a.2 (fminmax f true a.1 x)) (y, Flags.none)
    seg.map fun x => withFlags m.2 (fsub f 0 x m.1)

def State.sf (s : State) (i : Instr) (ty : BitVec 3) (va vd : BitVec 5) : Out :=
  .next (s.onTile fun k => s.vissue k 3 i [ty.toNat] [va.toNat] [] [vd.toNat] [])

def execExp (ty : BitVec 3) (va vd : BitVec 5) (s : State) : Out := s.sf (.exp ty va vd) ty va vd
def execExp2 (ty : BitVec 3) (va vd : BitVec 5) (s : State) : Out := s.sf (.exp2 ty va vd) ty va vd
def execLog2 (ty : BitVec 3) (va vd : BitVec 5) (s : State) : Out := s.sf (.log2 ty va vd) ty va vd
def execRsqrt (ty : BitVec 3) (va vd : BitVec 5) (s : State) : Out := s.sf (.rsqrt ty va vd) ty va vd
def execRcp (ty : BitVec 3) (va vd : BitVec 5) (s : State) : Out := s.sf (.rcp ty va vd) ty va vd
def execTanh (ty : BitVec 3) (va vd : BitVec 5) (s : State) : Out := s.sf (.tanh ty va vd) ty va vd
def execSigmoid (ty : BitVec 3) (va vd : BitVec 5) (s : State) : Out := s.sf (.sigmoid ty va vd) ty va vd
def execRowmaxsub (ty : BitVec 3) (va vd : BitVec 5) (s : State) : Out := s.sf (.rowmaxsub ty va vd) ty va vd

/-- A special function over a register. -/
def EngOp.special (op : EngOp) (sel : Nat) (ty : BitVec 3) (va vd : BitVec 5) : List Put × Flags :=
  let f := op.lane ty.toNat 0
  op.putF vd.toNat f.w ((op.lanes va.toNat f.w).map (sfLane sel ty.toNat f))

/-! ### Sorting registers (14: R298, R299) -/

/-- The order of keys: type 1, 2 signed integers, type 3 encodings of binary32 (14: R298). -/
def keyLt (ty a b : Nat) : Bool :=
  if ty = 3 then
    let t := fun x => if x / 2 ^ 31 % 2 = 1 then 2 ^ 32 - 1 - x else x + 2 ^ 31
    decide (t a < t b)
  else
    let w := if ty = 1 then 16 else 32
    decide (sextNat a w < sextNat b w)

/-- Insertion behind every key not above it, for a stable order. -/
def insertKey (ty : Nat) (x : Nat × Nat) : List (Nat × Nat) → List (Nat × Nat)
  | [] => [x]
  | y :: t => if keyLt ty x.1 y.1 then x :: y :: t else y :: insertKey ty x t

/-- Stable ascending order of keys with their lane numbers. -/
def sortKeys (ty : Nat) (xs : List Nat) : List (Nat × Nat) := xs.zipIdx.foldl (fun l x => insertKey ty x l) []

def execSmsort (ty : BitVec 3) (va vd : BitVec 5) (s : State) : Out :=
  .next (s.onTile fun k => s.vissue k 4 (.smsort ty va vd) [] [va.toNat] [] [vd.toNat, vd.toNat + 1] [])

/-! ### The register-only operations at their engines (14: R285) -/

/-- What a register-only operation writes to whole words, with its flags; none for any other operation. -/
def EngOp.result (op : EngOp) : Option (List Put × Flags) :=
  match op.instr with
  | .vadd ty vb va vd => some (op.arith 0 ty vb va vd)
  | .vsub ty vb va vd => some (op.arith 1 ty vb va vd)
  | .vmul ty vb va vd => some (op.arith 2 ty vb va vd)
  | .vfma ty vb va vd => some (op.arith 3 ty vb va vd)
  | .vmin ty vb va vd => some (op.arith 4 ty vb va vd)
  | .vmax ty vb va vd => some (op.arith 5 ty vb va vd)
  | .vabs ty va vd => some (op.arith 6 ty va va vd)
  | .vneg ty va vd => some (op.arith 7 ty va va vd)
  | .vand vb va vd => some (op.bitwise 64 vb va vd fun a b => a &&& b)
  | .vor vb va vd => some (op.bitwise 64 vb va vd fun a b => a ||| b)
  | .vxor vb va vd => some (op.bitwise 64 vb va vd fun a b => a ^^^ b)
  | .vandn vb va vd => some (op.bitwise 64 vb va vd fun a b => a &&& (2 ^ 64 - 1 - b))
  | .vnot va vd => some (op.bitwise 64 va va vd fun a _ => 2 ^ 64 - 1 - a)
  | .vshl ty vb va vd =>
    let w := (op.lane ty.toNat 0).w
    some (op.bitwise w vb va vd fun a b => a * 2 ^ (b % w))
  | .vshr ty vb va vd =>
    let w := (op.lane ty.toNat 0).w
    some (op.bitwise w vb va vd fun a b => a / 2 ^ (b % w))
  | .vsar ty vb va vd =>
    let w := (op.lane ty.toNat 0).w
    some (op.bitwise w vb va vd fun a b => ((sextNat a w / 2 ^ (b % w)) % 2 ^ w).toNat)
  | .vcmp cond ty vb va vd =>
    let f := op.lane ty.toNat 0
    let w := f.w
    some (op.putF vd.toNat w (((op.lanes va.toNat w).zip (op.lanes vb.toNat w)).map fun x =>
      let r := if ty.toNat < 3 then (vcond cond.toNat w x.1 x.2, Flags.none) else vfcond f cond.toNat x.1 x.2
      (if r.1 then 2 ^ w - 1 else 0, r.2)))
  | .vsel ty vb va vd =>
    some (op.perm ty vd fun w k =>
      if nth 0 (op.lanes vd.toNat w) k ≠ 0 then nth 0 (op.lanes va.toNat w) k else nth 0 (op.lanes vb.toNat w) k)
  | .vpermx ty vb va vd => some (op.perm ty vd fun w k => nth 0 (op.lanes va.toNat w) (nth 0 (op.lanes vb.toNat w) k % (2048 / w)))
  | .vbcast ty va vd => some (op.perm ty vd fun w _ => nth 0 (op.lanes va.toNat w) 0)
  | .vslideup ty vb va vd =>
    let n := (op.word vb.toNat).toNat
    some (op.perm ty vd fun w k => if n ≤ k then nth 0 (op.lanes va.toNat w) (k - n) else 0)
  | .vslidedn ty vb va vd =>
    let n := (op.word vb.toNat).toNat
    some (op.perm ty vd fun w k => if k + n < 2048 / w then nth 0 (op.lanes va.toNat w) (k + n) else 0)
  | .vzip ty vb va vd =>
    some (op.perm ty vd fun w k => nth 0 (op.lanes (if k % 2 = 0 then va else vb).toNat w) (k / 2))
  | .vunzip ty va vd =>
    some (op.perm ty vd fun w k =>
      let l := 2048 / w
      nth 0 (op.lanes va.toNat w) (if k < l / 2 then 2 * k else 2 * (k - l / 2) + 1))
  | .viota ty vd => some (op.perm ty vd fun _ k => k)
  | .vcvt dst src part mode va vd => some (op.convert dst src part mode va vd)
  | .vred sub ty va vd =>
    let f := op.lane ty.toNat 0
    let xs := op.lanes va.toNat f.w
    let r := if ty.toNat < 3 then (vredInt sub.toNat f.w xs, Flags.none) else vredFloat sub.toNat op.rm f xs
    some ([(vd.toNat, [r.1])], r.2)
  | .vmovls ty vb va vd =>
    let f := op.lane ty.toNat 0
    let w := laneW f
    let v := nth 0 (op.lanes va.toNat w) ((op.word vb.toNat).toNat % (2048 / w))
    some ([(vd.toNat, [if ty.toNat < 3 then sextWord v w else BitVec.ofNat 64 (v % 2 ^ f.w)])], Flags.none)
  | .exp ty va vd => some (op.special 0 ty va vd)
  | .exp2 ty va vd => some (op.special 1 ty va vd)
  | .log2 ty va vd => some (op.special 2 ty va vd)
  | .rsqrt ty va vd => some (op.special 3 ty va vd)
  | .rcp ty va vd => some (op.special 4 ty va vd)
  | .tanh ty va vd => some (op.special 5 ty va vd)
  | .sigmoid ty va vd => some (op.special 6 ty va vd)
  | .rowmaxsub ty va vd =>
    let f := op.lane ty.toNat 0
    some (op.putF vd.toNat f.w (rowMaxSub f (op.lanes va.toNat f.w)))
  | .smsort ty va vd =>
    let w := if ty.toNat = 1 then 16 else 32
    let r := sortKeys ty.toNat (op.lanes va.toNat w)
    some ([op.put vd.toNat w (r.map Prod.fst), op.put (vd.toNat + 1) w (r.map Prod.snd)], Flags.none)
  | _ => none

/-- VMOVSL: one lane of the destination (14: R290). -/
def State.setLane (s : State) (k : Nat) (op : EngOp) (ty vd : Nat) (v : Nat) : State :=
  let f := op.lane ty 0
  let w := laneW f
  let lane := (nth 0 op.scal 0).toNat
  let at_ := vbyte op.vbase vd / 8 + lane * w / 64
  let lo := lane * w % 64
  let c := s.core k
  let mask := maskOf lo w
  s.setCore k { c with reg := c.reg.put at_ ((c.reg.word at_ &&& ~~~mask) ||| BitVec.ofNat 64 (v % 2 ^ f.w * 2 ^ lo)) }

/-- A register-only operation at its engine: everything in one step (14: R285). -/
def State.runRegs (s : State) (k : Nat) (op : EngOp) (limit : Option Nat) : OpEnd :=
  runWhole limit s op fun s =>
    match op.instr, op.result with
    | .vmovsl ty _ va vd, _ => .ok (s.setLane k op ty.toNat vd.toNat (op.word va.toNat).toNat) op
    | _, some r =>
      let s := r.1.foldl (fun s p => s.putWords k p.1 p.2) s
      let c := s.cluster (corePos k)
      .ok (if op.engs = [3] then s.setCluster (corePos k) { c with sfBuilt := true } else s) { op with flags := r.2 }
    | _, none => .ok s op

/-! ### Vector memory access (14: R293, R294) -/

/-- The map of an LDTM or STTM (14: R293). -/
def tmLaneOk (t : TMap) (w : Nat) (store : Bool) : Bool :=
  t.valid && t.width = w && decide (t.packed ≤ 256) && !(store && t.win)

/-- LDTM and STTM at issue. -/
def State.vtm (s : State) (i : Instr) (store : Bool) (ty : BitVec 3) (vb : BitVec 5) (tm : BitVec 4) (vd : BitVec 5) : Out :=
  .next (s.onTile fun k => s.leased k [2] fun s =>
    let c := s.core k
    let t : TMap := Tab.get 0 c.tms tm.toNat
    match laneFmt c ty.toNat with
    | none => s.trap { code := cFORMAT_UNSUPPORTED }
    | some f =>
      if !tmLaneOk t (laneW f) store then s.trap { code := cTMAP_INVALID }
      else s.vissue k 2 i [ty.toNat] (if store then [vd.toNat] else []) (if vb = 0#5 then [] else [vb.toNat])
        (if store then [] else [vd.toNat]) [] t)

def execLdtm (ty : BitVec 3) (vb : BitVec 5) (tm : BitVec 4) (vd : BitVec 5) (s : State) : Out :=
  s.vtm (.ldtm ty vb tm vd) false ty vb tm vd
def execSttm (ty : BitVec 3) (vb : BitVec 5) (tm : BitVec 4) (vd : BitVec 5) (s : State) : Out :=
  s.vtm (.sttm ty vb tm vd) true ty vb tm vd

/-- Strided and indexed accesses need lanes of at least 8 bits (14: R293). -/
def wideLanes (k : Nat) (ty : BitVec 3) (s : State) : Option Nat :=
  match laneFmt (s.core k) ty.toNat with
  | some f => if laneW f < 8 then some cILLEGAL_OP else none
  | none => none

def execLdstr (ty : BitVec 3) (vb va vd : BitVec 5) (s : State) : Out :=
  s.vx (.ldstr ty vb va vd) [ty.toNat] [] [va.toNat, vb.toNat] [vd.toNat] [] fun k s => wideLanes k ty s
def execStstr (ty : BitVec 3) (vb va vd : BitVec 5) (s : State) : Out :=
  s.vx (.ststr ty vb va vd) [ty.toNat] [vd.toNat] [va.toNat, vb.toNat] [] [] fun k s => wideLanes k ty s
def execLdgi (ty : BitVec 3) (vb va vd : BitVec 5) (s : State) : Out :=
  s.vx (.ldgi ty vb va vd) [ty.toNat] [va.toNat] [vb.toNat] [vd.toNat] [] fun k s => wideLanes k ty s
def execStsi (ty : BitVec 3) (vb va vd : BitVec 5) (s : State) : Out :=
  s.vx (.stsi ty vb va vd) [ty.toNat] [va.toNat, vd.toNat] [vb.toNat] [] [] fun k s => wideLanes k ty s
def execLdfe (va vd : BitVec 5) (s : State) : Out := s.vx (.ldfe va vd) [] [] [va.toNat] [vd.toNat] []

/-- Home of an element of n bytes, or the cause (14: R294). -/
def State.vhome (s : State) (k : Nat) (a : Word) (n align : Nat) : Except Nat Nat :=
  let o := s.own (corePos k) a
  if a.toNat % align ≠ 0 then .error cMISALIGNED
  else if !ownRange o n || o.toNat < 0x800 then .error cBAD_ADDRESS
  else .ok (ownHome k o)

/-- Lane i of the `m` lanes of a destination written; its word is full once the last lane in it is (05: R94). -/
def State.landLane (s : State) (k byte w m i v : Nat) : State :=
  let c := s.core k
  let at_ := byte / 8 + i * w / 64
  let lo := i * w % 64
  let mask := maskOf lo w
  let x := (c.reg.word at_ &&& ~~~mask) ||| BitVec.ofNat 64 (v * 2 ^ lo)
  if lo + w = 64 || i + 1 = m then s.setCore k { c with reg := c.reg.put at_ x }
  else s.setCore k { c with reg := { c.reg with words := Tab.put c.reg.words at_ x } }

/-- Where lane i of an operation lies (14: R293). -/
def EngOp.lanePlace (op : EngOp) (w i : Nat) : Place :=
  match op.instr with
  | .ldtm _ vb _ _ | .sttm _ vb _ _ =>
    let t : TMap := op.tm
    if t.count ≤ i then .fill else t.place (boxOf (if vb = 0#5 then 0 else op.word vb.toNat) ++ [0]) i
  | .ldstr _ vb va _ | .ststr _ vb va _ => .at_ (op.word va.toNat + BitVec.ofNat 64 i * op.word vb.toNat) 0
  | .ldgi _ vb va _ | .stsi _ vb va _ =>
    .at_ (op.word vb.toNat + BitVec.ofInt 64 (sextNat (nth 0 (op.lanes va.toNat w) i) w * (w / 8 : Nat))) 0
  | _ => .fill

/-- A lane outside the tensor takes FILL, a lane beyond the box 0 (14: R293). -/
def EngOp.laneFill (op : EngOp) (i : Nat) : Nat :=
  let t : TMap := op.tm
  if t.count ≤ i then 0 else t.fillCode

/-- The loads of VTM, lane by lane (14: R293, R294). -/
def State.runLoad (s : State) (k : Nat) (op : EngOp) (ty vd : Nat) (limit : Option Nat) : OpEnd :=
  let f := op.lane ty 0
  let w := laneW f
  let n := max 1 (w / 8)
  runUnits (fun s op i =>
    match op.lanePlace w i with
    | .fill => .ok (s.landLane k (vbyte op.vbase vd) w (2048 / w) i (op.laneFill i % 2 ^ f.w)) op
    | .at_ a b =>
      match s.vhome k a n n with
      | .error c => .fault s c a
      | .ok h =>
        if s.badAt h n then .fault s cUNCORR_ECC a
        else .ok ((s.countEcc (regionOf (corePos k)) h n).landLane k (vbyte op.vbase vd) w (2048 / w) i
          ((s.fetched op.early i).readMem h n / 2 ^ b % 2 ^ f.w)) op)
    limit (2048 / w - op.prog) op.prog s op

/-- The stores of VTM, in lane order: a lane's container with its high bits 0 (11: R220; 14: R293, R294). -/
def State.runStore (s : State) (k : Nat) (op : EngOp) (ty vd : Nat) (limit : Option Nat) : OpEnd :=
  let f := op.lane ty 0
  let w := laneW f
  let n := max 1 (w / 8)
  let vs := op.lanes vd w
  runUnits (fun s op i =>
    match op.lanePlace w i with
    | .fill => .ok s op
    | .at_ a b =>
      match s.vhome k a n n with
      | .error c => .fault s c a
      | .ok h =>
        let v := nth 0 vs i % 2 ^ f.w
        let old := (Mem.read s.mem h).toNat
        let m := (2 ^ w - 1) * 2 ^ b
        let r := s.opWrite op.hits h (if 8 ≤ w then toBytes n v else [BitVec.ofNat 8 ((old &&& (255 - m)) + v * 2 ^ b)])
        .ok r.1 { op with hits := r.2 })
    limit (2048 / w - op.prog) op.prog s op

/-- LDFE: 32 words that are full (14: R294). -/
def State.runLdfe (s : State) (k : Nat) (op : EngOp) (va vd : Nat) (limit : Option Nat) : OpEnd :=
  runUnits (fun s op i =>
    let a := op.word va + BitVec.ofNat 64 (8 * i)
    match s.vhome k a 8 8 with
    | .error c => .fault s c a
    | .ok h =>
      if s.badAt h 8 then .fault s cUNCORR_ECC a
      else if s.memIsEmpty h then .wait
      else .ok ((s.countEcc (regionOf (corePos k)) h 8).putWords k (vbyte op.vbase vd / 8 + i) [s.readWord h]) op)
    limit (32 - op.prog) op.prog s op

end Sys2Proof.Machine
end

