-- ==== Sys2Proof/Machine/Streams.lean ====
section
/-! DEFINITION. Sort and merge SM (14: R298-R300), gather, scatter and bins GX (12: R254-R259), decompression ZD
(14: R301-R305) and reduction in the router RD (14: R306-R308). -/

namespace Sys2Proof.Machine

/-- A group of four scalars: its number is a multiple of 4 from 4 to 28 (12: R254; 14: R299, R303). -/
def groupOk (vb : BitVec 5) : Bool := vb.toNat % 4 = 0 && decide (4 ≤ vb.toNat) && decide (vb.toNat ≤ 28)

/-- The scalars of a group as read at acceptance. -/
def EngOp.group (op : EngOp) (vb : BitVec 5) (i : Nat) : Word := op.word (vb.toNat + i)

/-- Where SM and ZD may write: TCM at or above 0x0800, the own scratchpad, a cluster scratchpad (14: R300, R303). -/
def State.outHome (s : State) (k : Nat) (a : Word) : Except Nat Nat :=
  match s.window (corePos k) a with
  | some (.tcm o) => if o < 0x800 then .error cBAD_ADDRESS else .ok (tcmHome k + o)
  | some (.spad o) => .ok (spadHome (corePos k) + o)
  | some (.cluster q o) => match s.lostTo (corePos k) (.cluster q o) with
    | some (c, _) => .error c
    | none => .ok (spadHome q + o)
  | _ => .error cBAD_ADDRESS

/-- Bytes written at an output address as an engine write of an operation that has counted `hits`. -/
def State.outWrite (s : State) (hits : List (Nat × Nat)) (k : Nat) (a : Word) (bs : List Byte) :
    Except (Nat × Word) (State × List (Nat × Nat)) :=
  match s.outHome k a, s.outHome k (a + BitVec.ofNat 64 (bs.length - 1)) with
  | .ok h, .ok e => if e = h + (bs.length - 1) then .ok (s.opWrite hits h bs) else .error (cBAD_ADDRESS, a)
  | .error c, _ => .error (c, a)
  | _, .error c => .error (c, a + BitVec.ofNat 64 (bs.length - 1))

/-! ### SM -/

/-- Issue of an SM memory operation: the group's number is checked at step 3 (14: R299). -/
def State.smIssue (s : State) (k : Nat) (i : Instr) (vb : BitVec 5) (sw : List Nat) : State :=
  s.vissue k 4 i [] [] ((span 0 4).map fun j => vb.toNat + j) [] sw 0 (if groupOk vb then none else some cILLEGAL_OP)

def execSmpath (ty : BitVec 3) (vb vd : BitVec 5) (s : State) : Out :=
  .next (s.onTile fun k => s.smIssue k (.smpath ty vb vd) vb [vd.toNat])
def execSmerge (ty : BitVec 3) (vb : BitVec 5) (s : State) : Out :=
  .next (s.onTile fun k => s.smIssue k (.smerge ty vb) vb [])
def execSmkv (ty : BitVec 3) (vb : BitVec 5) (s : State) : Out :=
  .next (s.onTile fun k => s.smIssue k (.smkv ty vb) vb [])

/-- An element of a run: its bytes as a number (14: R300). -/
def State.smElem (s : State) (k : Nat) (a : Word) (size i : Nat) : Except (Nat × Word) Nat :=
  let x := a + BitVec.ofNat 64 (size * i)
  if x.toNat % size ≠ 0 then .error (cMISALIGNED, x)
  else match s.engineRead k x size with
    | .ok bs => .ok (ofBytes bs)
    | .error e => .error e

/-- The runs of an SM operation: addresses, lengths, element size, key width. -/
structure Runs where
  a : Word
  b : Word
  na : Nat
  nb : Nat
  ty : Nat
  size : Nat

def EngOp.runs (op : EngOp) (ty : BitVec 3) (vb : BitVec 5) (pairs : Bool) : Runs :=
  let ctl := op.group vb 2
  ⟨op.group vb 0, op.group vb 1, bits ctl 0 24, bits ctl 24 24, ty.toNat,
    if pairs then 8 else if ty.toNat = 1 then 2 else 4⟩

/-- Key of an element. -/
def Runs.key (r : Runs) (x : Nat) : Nat := x % 2 ^ (if r.ty = 1 then 16 else 32)

/-- An output before the others. -/
def consRun (x : Nat × Bool) (t : List (Nat × Bool) × Option (Nat × Word)) : List (Nat × Bool) × Option (Nat × Word) :=
  (x :: t.1, t.2)

/-- The outputs i, i + 1, … of the merge from positions (ia, ib), with A's count before each, until a read fails
(14: R298). -/
def State.mergeRuns (s : State) (k : Nat) (r : Runs) : Nat → Nat → Nat → List (Nat × Bool) × Option (Nat × Word)
  | 0, _, _ => ([], none)
  | n + 1, ia, ib =>
    let takeA (x : Nat) := consRun (x, true) (s.mergeRuns k r n (ia + 1) ib)
    let takeB (x : Nat) := consRun (x, false) (s.mergeRuns k r n ia (ib + 1))
    if r.na ≤ ia then
      if r.nb ≤ ib then ([], none)
      else match s.smElem k r.b r.size ib with
        | .ok y => takeB y
        | .error e => ([], some e)
    else match s.smElem k r.a r.size ia with
      | .error e => ([], some e)
      | .ok x =>
        if r.nb ≤ ib then takeA x
        else match s.smElem k r.b r.size ib with
          | .error e => ([], some e)
          | .ok y => if keyLt r.ty (r.key y) (r.key x) then takeB y else takeA x

/-- The corrected errors in the element that output i takes are counted (10: R190). -/
def State.countTaken (s : State) (k : Nat) (r : Runs) (out : List (Nat × Bool)) (i : Nat) : State :=
  if s.eccSoft.isEmpty && !s.fabric.joined then s
  else
    let ia := ((takeN i out).filter Prod.snd).length
    if (nth (0, true) out i).2 then s.countRead k (r.a + BitVec.ofNat 64 (r.size * ia)) r.size
    else s.countRead k (r.b + BitVec.ofNat 64 (r.size * (i - ia))) r.size

/-- A run ascends. -/
def ascending (ty : Nat) : List Nat → Bool
  | a :: b :: t => !keyLt ty b a && ascending ty (b :: t)
  | _ => true

/-- The free value of an SMPATH whose runs do not ascend, a function of its operands: the type, the lengths, d, the keys
(11: R228; 14: R299; log 2). -/
def Runs.unsorted (r : Runs) (d : Nat) (xs ys : List Nat) : Word :=
  Config.freeWord 27 ((xs ++ ys).foldl (fun n x => n * 2 ^ 32 + r.key x)
    (((d * 2 ^ 24 + r.na) * 2 ^ 24 + r.nb) * 8 + r.ty))

/-- SMPATH (14: R299): with runs that are not in order, any number the spec allows (log 2). -/
def State.runSmpath (s : State) (k : Nat) (op : EngOp) (ty : BitVec 3) (vb vd : BitVec 5) (limit : Option Nat) : OpEnd :=
  runWhole limit s op fun s =>
    if bits (op.group vb 2) 48 16 ≠ 0 then .fault s cILLEGAL_OP 0
    else
      let r := op.runs ty vb false
      let d := min (op.group vb 3).toNat (r.na + r.nb)
      let all (a : Word) (n : Nat) := (span 0 n).mapM fun i => s.smElem k a r.size i
      match s.mergeRuns k r d 0 0 with
      | (_, some (c, a)) => .fault s c a
      | (out, none) =>
        let s := (span 0 d).foldl (fun s i => s.countTaken k r out i) s
        match all r.a (min d r.na), all r.b (min d r.nb) with
        | .ok xs, .ok ys =>
          if ascending r.ty (xs.map r.key) && ascending r.ty (ys.map r.key) then
            .ok (s.putWords k vd.toNat [BitVec.ofNat 64 (out.filter Prod.snd).length]) op
          else
            let lo := d - r.nb
            let i := lo + (r.unsorted (op.group vb 3).toNat xs ys).toNat % (min d r.na - lo + 1)
            .ok (s.putWords k vd.toNat [BitVec.ofNat 64 i]) op
        | .error (c, a), _ => .fault s c a
        | _, .error (c, a) => .fault s c a

/-- SMERGE and SMKV (14: R299, R300). -/
def State.runMerge (s : State) (k : Nat) (op : EngOp) (r : Runs) (ctl out : Word) (limit : Option Nat) : OpEnd :=
  if bits ctl 48 16 ≠ 0 then ⟨s, { op with prog := 0 }, .faulted cILLEGAL_OP 0⟩
  else
    let m := s.mergeRuns k r (r.na + r.nb) 0 0
    runUnits (fun s op i =>
      match m.1[i]? with
      | none => match m.2 with
        | some (c, a) => .fault s c a
        | none => .fault s cBAD_ADDRESS out
      | some x =>
        let a := out + BitVec.ofNat 64 (r.size * i)
        if a.toNat % r.size ≠ 0 then .fault s cMISALIGNED a
        else match (s.countTaken k r m.1 i).outWrite op.hits k a (toBytes r.size x.1) with
          | .ok t => .ok t.1 { op with hits := t.2 }
          | .error (c, a) => .fault s c a) limit (r.na + r.nb - op.prog) op.prog s op

/-! ### GX -/

/-- Issue of a GX operation (12: R254): the type first, as a check of the encoding (14: R284; log 132); group, control
word and packed address under step 3 of R143. -/
def State.gxIssue (s : State) (k : Nat) (i : Instr) (ty : BitVec 3) (vb va : BitVec 5) (maxN : Nat) (vd : Option (BitVec 5)) :
    State :=
  if ty ≠ 1#3 && ty ≠ 2#3 then s.illegal
  else s.leased k [5] fun s =>
    if !groupOk vb then s.illegal
    else s.sources false .d [vb.toNat, vb.toNat + 2] fun s =>
      let c := s.core k
      let p := s.reg vb.toNat
      let ctl := s.reg (vb.toNat + 2)
      let n := bits ctl 0 16
      let row := 8 * bits ctl 16 16
      let lanes := if ty.toNat = 1 then 128 else 64
      if n = 0 || decide (min lanes maxN < n) || bits ctl 40 24 ≠ 0 then s.illegal
      else if p.toNat % 8 ≠ 0 then s.trap { code := cMISALIGNED, addr := p }
      else if !ownRange (s.own (corePos k) p) (n * row) then s.trap { code := cBAD_ADDRESS, addr := p }
      else
        let b := c.vbase.toNat
        s.dispatch k { instr := i, engs := [5], reads := [vWords b va.toNat, (vb.toNat, 3)],
                       writes := match vd with
                         | some d => [(vbyte b d.toNat / 8, (n + 1) / 2)]
                         | none => [] }

def execGxgather (ty : BitVec 3) (vb va : BitVec 5) (s : State) : Out :=
  .next (s.onTile fun k => s.gxIssue k (.gxgather ty vb va) ty vb va 128 none)
def execGxscat (ty : BitVec 3) (vb va : BitVec 5) (s : State) : Out :=
  .next (s.onTile fun k => s.gxIssue k (.gxscat ty vb va) ty vb va 128 none)
def execGxbins (ty : BitVec 3) (vb va vd : BitVec 5) (s : State) : Out :=
  .next (s.onTile fun k => s.gxIssue k (.gxbins ty vb va vd) ty vb va 64 (some vd))
def execGxstat (vd : BitVec 5) (s : State) : Out :=
  .next (s.onTile fun k => s.vissue k 5 (.gxstat vd) [] [] [] [] [vd.toNat])

/-- Token k's index, sign-extended (12: R254). -/
def EngOp.token (op : EngOp) (ty : BitVec 3) (va : BitVec 5) (i : Nat) : Int :=
  let w := if ty.toNat = 1 then 16 else 32
  sextNat (nth 0 (op.lanes va.toNat w) i) w

/-- Bytes of a range copied to another by an operation of core `k` that has counted `hits`. -/
def State.copyRow (s : State) (hits : List (Nat × Nat)) (k : Nat) (src dst : Word) (n : Nat) :
    Except (Nat × Word) (State × List (Nat × Nat)) :=
  match s.engineRead k src n with
  | .error e => .error e
  | .ok bs => (s.countRead k src n).engineStore hits k dst bs

/-- GXGATHER and GXSCAT, token by token (12: R255). -/
def State.runRows (s : State) (k : Nat) (op : EngOp) (ty : BitVec 3) (vb va : BitVec 5) (gather : Bool)
    (limit : Option Nat) : OpEnd :=
  let ctl := op.group vb 2
  let row := 8 * bits ctl 16 16
  runUnits (fun s op i =>
    let x := op.token ty va i
    let p := op.group vb 0 + BitVec.ofNat 64 (i * row)
    let q := op.group vb 1 + BitVec.ofInt 64 (x * row)
    if x = -1 then .ok s op
    else if x < 0 then .fault s cBAD_ADDRESS q
    else match s.copyRow op.hits k (if gather then q else p) (if gather then p else q) row with
      | .ok r => .ok r.1 { op with hits := r.2 }
      | .error (c, a) => .fault s c a) limit (bits ctl 0 16 - op.prog) op.prog s op

/-- Home of `n` bytes of a bin table (12: R256). -/
def State.binHome (s : State) (k : Nat) (a : Word) (n : Nat) : Except (Nat × Word) Nat :=
  match s.engineHomes k .atomic [(a.toNat, n)] with
  | .error e => .error e
  | .ok hs =>
    let h := (hs.head?.map Prod.fst).getD 0
    if s.badAt h n then .error (cUNCORR_ECC, a) else .ok h

/-- A relaxed increment by an engine of core `k` at an address and its home (12: R257). -/
def State.bump (s : State) (k : Nat) (a : Word) (h n : Nat) : Nat × State :=
  let r := ((s.countEcc (regionOf (corePos k)) h n).clean h n).atomicAt h { kind := 3, op := 0, n := n, d1 := 1 }
  (r.1, r.2.accessed k .atomic a n)

/-- A word of a bin table has been read by an engine of core `k` (10: R190; 17: R370). -/
def State.binRead (s : State) (k : Nat) (a : Word) (h n : Nat) : State :=
  (s.countEcc (regionOf (corePos k)) h n).accessed k .read a n

/-- The homes of DROPS, and of the two words of a bin. -/
def State.binWords (s : State) (k : Nat) (t : Word) (b : Nat) : Except (Nat × Word) (Nat × Nat) :=
  match s.binHome k (t + BitVec.ofNat 64 (16 + 16 * b)) 8, s.binHome k (t + BitVec.ofNat 64 (24 + 16 * b)) 8 with
  | .ok x, .ok y => .ok (x, y)
  | .error e, _ => .error e
  | _, .error e => .error e

/-- The bumps of one token (12: R257): its lane's outcome, what it counts as, the state. -/
def State.bumps (s : State) (k : Nat) (t : Word) (nb : Nat) (b : Int) : Except (Nat × Word) (Nat × Nat × State) :=
  if b = -1 then .ok (0xFFFFFFFE, 0, s)
  else match s.binHome k t 8, s.binHome k (t + 8) 8 with
    | .error e, _ => .error e
    | _, .error e => .error e
    | .ok w0, .ok dr =>
      let hdr := s.readWord w0
      let cap (h : Nat) : Nat := min (s.readMem h 4) (2 ^ 24)
      let at_ (i n : Nat) : Word := t + BitVec.ofNat 64 (24 + 16 * i + n)
      let lost (s : State) : State := (s.bump k (t + 8) dr 8).2
      let s := s.binRead k t w0 8
      if b < 0 || (nb : Int) ≤ b then .ok (0xFFFFFFFF, 2 ^ 48, lost s)
      else
        let i := b.toNat
        let o := bits hdr 0 8
        match s.binWords k t i with
        | .error e => .error e
        | .ok (_, own) =>
          let r := (s.binRead k (at_ i 0) own 4).bump k (at_ i 4) (own + 4) 4
          if r.1 < cap own then .ok (i * 2 ^ 24 + r.1, 1, r.2)
          else if bit hdr 8 then
            match s.binWords k t o with
            | .error e => .error e
            | .ok (_, spill) =>
              let r2 := (r.2.binRead k (at_ o 0) spill 4).bump k (at_ o 4) (spill + 4) 4
              if r2.1 < cap spill then .ok (o * 2 ^ 24 + r2.1, 2 ^ 32, r2.2)
              else .ok (0xFFFFFFFF, 2 ^ 48, lost r2.2)
          else .ok (0xFFFFFFFF, 2 ^ 48, lost r.2)

/-- A token with this count has a place in a bin: its own, or that of the overflow bin (12: R257). -/
def placed (n : Nat) : Nat := b2n (n = 1 || n = 2 ^ 32)

/-- GXBINS: unit 2k is token k's bumps, unit 2k + 1 its row (12: R257, R259). What it carries is the word of GXSTAT, and
above it whether the last token has a place, and its outcome. -/
def State.runBins (s : State) (k : Nat) (op : EngOp) (ty : BitVec 3) (vb va vd : BitVec 5) (limit : Option Nat) : OpEnd :=
  let ctl := op.group vb 2
  let row := 8 * bits ctl 16 16
  let t := op.group vb 1
  let byte := vbyte op.vbase vd.toNat
  let r := if t.toNat % 8 ≠ 0 then ⟨s, { op with prog := op.prog }, .faulted cMISALIGNED t⟩
    else runUnits (fun s op u =>
      let i := u / 2
      if u % 2 = 0 then
        match s.bumps k t (bits ctl 32 8 + 1) (op.token ty va i) with
        | .error (c, a) => .fault s c a
        | .ok (o, n, s) => .ok (s.landLane k byte 32 (bits ctl 0 16) i o) { op with
            carry := op.carry % 2 ^ 64 + n + (placed n + 2 * o) * 2 ^ 64 }
      else
        let o := op.carry / 2 ^ 65
        if op.carry / 2 ^ 64 % 2 = 0 then .ok s op
        else match s.binHome k (t + BitVec.ofNat 64 (16 + 16 * (o / 2 ^ 24))) 8 with
          | .error (c, a) => .fault s c a
          | .ok h =>
            match (s.binRead k (t + BitVec.ofNat 64 (16 + 16 * (o / 2 ^ 24))) h 8).copyRow op.hits k (op.group vb 0 + BitVec.ofNat 64 (i * row))
                (s.readWord h + BitVec.ofNat 64 (o % 2 ^ 24 * row)) row with
            | .ok r => .ok r.1 { op with hits := r.2 }
            | .error (c, a) => .fault s c a) limit (2 * bits ctl 0 16 - op.prog) op.prog s op
  match r.how with
  | .complete =>
    let c := r.s.cluster (corePos k)
    { r with s := r.s.setCluster (corePos k) { c with gxStat := setNth c.gxStat (coreNo k) (BitVec.ofNat 64 r.op.carry) } }
  | _ => r

/-- GXSTAT (12: R258). -/
def State.runGxstat (s : State) (k : Nat) (op : EngOp) (vd : BitVec 5) (limit : Option Nat) : OpEnd :=
  runWhole limit s op fun s => .ok (s.putWords k vd.toNat [nth 0 (s.cluster (corePos k)).gxStat (coreNo k)]) op

/-! ### ZD -/

def execZdgo (vb : BitVec 5) (s : State) : Out :=
  .next (s.onTile fun k => s.vissue k 6 (.zdgo vb) [] [] ((span 0 3).map fun j => vb.toNat + j) [] [])
def execZdwait (vd : BitVec 5) (s : State) : Out :=
  .next (s.onTile fun k => s.vissue k 6 (.zdwait vd) [] [] [] [] [vd.toNat])

/-- Result word of a job (14: R304). -/
def zdResult (status cause inb outb : Nat) : Word := fields [(0, outb), (24, inb), (55, cause), (62, status)]

def up8 (n : Nat) : Nat := (n + 7) / 8 * 8

/-- Elements of a SPARSE block: groups of 64, each with a mask and the indices of its set bits (14: R302): the indices
by element, none for a zero, or corrupt. Also the bytes taken. -/
def sparseGroups (b : Nat) : Nat → Nat → List Byte → Option (List (Option Nat) × Nat)
  | 0, _, _ => some ([], 0)
  | g + 1, n, bs =>
    let m := min n 64
    let mask := ofBytes (takeN 8 bs)
    let set := (span 0 64).filter fun i => mask / 2 ^ i % 2 = 1
    if 2 ^ m ≤ mask then none
    else
      let len := up8 ((set.length * b + 7) / 8)
      let ix := unpack b (takeN len (dropN 8 bs)) set.length
      let els := (span 0 m).map fun i =>
        if mask / 2 ^ i % 2 = 1 then some (nth 0 ix (set.filter (fun j => decide (j < i))).length) else none
      match sparseGroups b g (n - m) (dropN (8 + len) bs) with
      | none => none
      | some (t, used) => some (els ++ t, 8 + len + used)

/-- What a block produces (14: R302): new dictionary, or output; none where it is corrupt. -/
def zdBlock (z : ZdState) (h : Word) (body : List Byte) : Option (ZdState × List Byte) :=
  let kind := bits h 0 4
  let inlen := bits h 40 24
  let outlen := bits h 16 24
  let b := bits h 4 4 + 1
  let esz := 2 ^ bits h 8 2
  let n := outlen / z.esz
  let dictOk := z.has && outlen % z.esz = 0
  let entry := fun i => nth [] z.dict i
  if bits h 10 6 ≠ 0 || decide (4 < kind) then none
  else if kind ≠ 1 && (bits h 4 4 ≠ 0 || bits h 8 2 ≠ 0) then none
  else match kind with
    | 0 => if inlen ≠ up8 outlen then none else some (z, takeN outlen body)
    | 1 =>
      if bits h 8 2 = 3 || outlen ≠ 0 || decide (8 < b) || inlen ≠ up8 (2 ^ b * esz) then none
      else
        let dict := (span 0 (2 ^ b)).map fun i => takeN esz (dropN (i * esz) body)
        some ({ z with has := true, ibits := b, esz := esz, dict := dict }, [])
    | 2 =>
      if !dictOk || inlen ≠ up8 ((n * z.ibits + 7) / 8) then none
      else some (z, (unpack z.ibits body n).flatMap entry)
    | 3 =>
      if !dictOk then none
      else match sparseGroups z.ibits ((n + 63) / 64) n body with
        | none => none
        | some (els, used) =>
          if inlen ≠ used then none
          else some (z, els.flatMap fun e => match e with
            | some i => entry i
            | none => List.replicate z.esz 0)
    | _ => if inlen ≠ 0 || outlen ≠ 0 then none else some (z, [])

/-- Bytes that the whole blocks of a job have taken and produced: what a ZDGO carries (14: R304). -/
def EngOp.zdIn (op : EngOp) : Nat := op.carry % 2 ^ 24
def EngOp.zdOut (op : EngOp) : Nat := op.carry / 2 ^ 24
def EngOp.zdAt (op : EngOp) (inb outb : Nat) : EngOp := { op with carry := inb + outb * 2 ^ 24 }

/-- One block of a ZD job (14: R302, R303): the job's end with its status and cause, or the next block. -/
inductive ZdStep where
  | fault (cause : Nat) (addr : Word)
  | ended (s : State) (op : EngOp) (status cause : Nat)
  | next (s : State) (op : EngOp)

def State.zdStep (s : State) (k : Nat) (op : EngOp) (vb : BitVec 5) : ZdStep :=
  let p := corePos k
  let z := (s.cluster p).zd
  let ctl := op.group vb 2
  let src := op.group vb 0 + BitVec.ofNat 64 op.zdIn
  if bits ctl 48 16 ≠ 0 then .fault cILLEGAL_OP 0
  else if bits ctl 0 24 < op.zdIn + 8 then .ended s op 2 0
  else match s.engineRead k src 8 with
    | .error (c, a) => .fault c a
    | .ok hb =>
      let h : Word := BitVec.ofNat 64 (ofBytes hb)
      let kind := bits h 0 4
      let inlen := bits h 40 24
      let outlen := bits h 16 24
      if decide (kind ≤ 4) && (decide (bits ctl 0 24 < op.zdIn + 8 + inlen) || decide (bits ctl 24 24 < op.zdOut + outlen)) then
        .ended s op 2 0
      else
        let n := if kind ≤ 4 then inlen else 0
        match s.engineRead k (src + 8) n with
        | .error (c, a) => .fault c a
        | .ok body =>
          let s := s.countRead k src (8 + n)
          match zdBlock z h body with
          | none => .ended s op 3 cSTREAM_CORRUPT
          | some (z', out) =>
            match (if out.isEmpty then .ok (s, op.hits)
                else s.outWrite op.hits k (op.group vb 1 + BitVec.ofNat 64 op.zdOut) out) with
            | .error (c, a) => .fault c a
            | .ok (s, hits) =>
              let s := s.setCluster p { s.cluster p with zd := z' }
              let op := { op.zdAt (op.zdIn + 8 + inlen) (op.zdOut + out.length) with hits := hits }
              if kind = 4 then .ended s op 1 0 else .next s op

/-- The result word of a job that has ended or failed (14: R304). -/
def State.zdEnd (s : State) (k : Nat) (op : EngOp) (status cause : Nat) : State :=
  let cl := s.cluster (corePos k)
  s.setCluster (corePos k) { cl with zd := { cl.zd with result := zdResult status cause op.zdIn op.zdOut } }

/-- The job from its current block; each block takes 8 bytes of INMAX, which bounds them (14: R303-R305). A fault fails
the job: so it stands unless the job resumes and ends otherwise. -/
def State.zdBlocks (s : State) (k : Nat) (op : EngOp) (vb : BitVec 5) (limit : Option Nat) : Nat → Nat → OpEnd
  | 0, i => ⟨s, { op with prog := i }, .complete⟩
  | n + 1, i =>
    if limit = some i then ⟨s, { op with prog := i }, .stopped⟩
    else match s.zdStep k op vb with
      | .fault c a => ⟨if c = cQUIET then s else s.zdEnd k op 3 c, { op with prog := i }, .of c a⟩
      | .next s op => s.zdBlocks k op vb limit n (i + 1)
      | .ended s op st c => ⟨s.zdEnd k op st c, { op with prog := i }, .complete⟩

/-- ZDGO at the engine. -/
def State.runZdgo (s : State) (k : Nat) (op : EngOp) (vb : BitVec 5) (limit : Option Nat) : OpEnd :=
  s.zdBlocks k op vb limit (bits (op.group vb 2) 0 24 / 8 + 2) op.prog

/-- ZDWAIT (14: R304). -/
def State.runZdwait (s : State) (k : Nat) (op : EngOp) (vd : BitVec 5) (limit : Option Nat) : OpEnd :=
  runWhole limit s op fun s => .ok (s.putWords k vd.toNat [(s.cluster (corePos k)).zd.result]) op

/-! ### RD -/

def execRdjoin (vb : BitVec 5) (s : State) : Out :=
  .next (s.onTile fun k => s.vissue k 7 (.rdjoin vb) [] [] [vb.toNat, vb.toNat + 1] [] [])
def execRdsum (ty : BitVec 3) (vb va : BitVec 5) (s : State) : Out :=
  .next (s.onTile fun k => s.vissue k 7 (.rdsum ty vb va) [] [va.toNat] [vb.toNat] [] [])
def execRdmax (ty : BitVec 3) (vb va : BitVec 5) (s : State) : Out :=
  .next (s.onTile fun k => s.vissue k 7 (.rdmax ty vb va) [] [va.toNat] [vb.toNat] [] [])

/-- RDJOIN arms or frees a slot (14: R306). -/
def State.runRdjoin (s : State) (k : Nat) (op : EngOp) (vb : BitVec 5) (limit : Option Nat) : OpEnd :=
  runWhole limit s op fun s =>
    let w := op.word vb.toNat
    let parent := op.word (vb.toNat + 1)
    let ty := bits w 28 3
    if bits w 32 32 ≠ 0 || decide (bits w 2 3 < 5) || decide (ty < 2) || decide (4 < ty) then .fault s cILLEGAL_OP 0
    else if badHeader parent true then .fault s cBAD_HEADER 0
    else
      let c := s.cluster (corePos k)
      let slot : RdSlot := { armed := bits w 12 16 ≠ 0, ctl := w, parent := parent }
      .ok (s.setCluster (corePos k) { c with rd := Tab.put c.rd (bits w 0 2) slot }) op

/-- A message of RD to a destination header, with its descriptor (14: R307, R308). -/
def rdMsg (h d : Word) (v : List Byte) : Msg :=
  { vc := bits h 16 3, w0 := (h &&& ~~~(0xFFFF#64 <<< 24)) ||| (264#64 <<< 24), body := toBytes 8 d.toNat ++ v }

/-- RDSUM and RDMAX send their vector from the core, once the local router port has room (14: R307). -/
def State.runRdsend (s : State) (k : Nat) (op : EngOp) (ty : BitVec 3) (isMax : Bool) (vb va : BitVec 5) (limit : Option Nat) : OpEnd :=
  runWhole limit s op fun s =>
    let h := op.word vb.toNat
    if badHeader h true then .fault s cBAD_HEADER 0
    else
      let d : Word := fields [(0, ty.toNat), (3, b2n isMax)]
      let m := rdMsg h d (toBytes 256 (op.num (vbyte op.vbase va.toNat) 256))
      if (s.core k).sendWaits (corePos k) { hdr := h, seq := op.seq } || !s.portRoom (corePos k) m then .wait
      else .ok (s.enterCore k m) op

/-- The descriptor word of a slot (14: R307, R308). -/
def RdSlot.descr (x : RdSlot) : Word := fields [(0, bits x.ctl 28 3), (3, bits x.ctl 31 1)]

/-- Two contributions combined lane by lane (14: R308). -/
def rdCombine (ctl : Word) (a b : List Byte) : List Byte :=
  let ty := bits ctl 28 3
  let w := if ty = 4 then 16 else 32
  let f := if ty = 4 then Fmt.bf16 else Fmt.f32
  let g (x y : Nat) : Nat :=
    if bit ctl 31 then
      (if ty = 2 then (if sextNat x 32 ≤ sextNat y 32 then y else x) else (fminmax f true x y).1)
    else if ty = 2 then (x + y) % 2 ^ 32 else (fadd f 0 x y).1
  toBytes 256 (pack w (((unpack w a (2048 / w)).zip (unpack w b (2048 / w))).map fun x => g x.1 x.2))

/-- RD_CONTRIBUTION: the head of a VC's queue that matches an armed slot is combined into its round. The last of a round
is taken when the local router port has room for the result; until then it waits, and what stands behind it in its VC
(14: R308). -/
def execRdContribution (pos vc : Nat) (s : State) : Out :=
  .next (match s.inq pos vc with
    | [] => s
    | m :: rest =>
      match (s.cluster pos).rdMatch m with
      | none => s
      | some i =>
        let t := s
        let s := s.setInq pos vc rest
        let c := s.cluster pos
        let x : RdSlot := Tab.get {} c.rd i
        if !m.prel.isEmpty || m.body.length ≠ 264 || ofBytes (takeN 8 m.body) % 16 ≠ x.descr.toNat then
          s.report pos (regionOf pos) cRD_MISMATCH 0 0 m.w0 m.w1
        else
          let v := dropN 8 m.body
          let acc := if x.count = 0 then v else rdCombine x.ctl x.acc v
          if x.count + 1 = bits x.ctl 12 16 then
            let m := rdMsg x.parent x.descr acc
            if !s.portRoom pos m then t
            else (s.setCluster pos { c with rd := Tab.put c.rd i { x with count := 0, acc := [] } }).enterCore
              (4 * pos + bits x.ctl 10 2) m
          else s.setCluster pos { c with rd := Tab.put c.rd i { x with count := x.count + 1, acc := acc } })

end Sys2Proof.Machine
end

