-- ==== Sys2Proof/Machine/EngineEnds.lean ====
section
/-! DEFINITION. The ends of engine operations: completion, fault, forced eviction (05: R94, R96; 07: R156, R157;
13: R266). -/

namespace Sys2Proof.Machine

/-- An accepted operation of core `k` at its engine, from its index up to a limit. -/
def State.runAt (s : State) (k : Nat) (op : EngOp) (limit : Option Nat) : OpEnd :=
  match op.instr with
  | .mldw _ fmt _ wb => s.runMldw k op fmt.toNat wb.toNat limit
  | .mmul _ set fmt _ bank acc => s.runMmul k op (set = 1#1) fmt.toNat bank.toNat acc.toNat limit
  | .mream _ _ _ q cb => s.runMream k op q.toNat cb.toNat limit
  | .mrmrg src dst => s.runMrmrg k op src.toNat dst.toNat limit
  | .mdrain _ set acc cb => s.runMdrain k op (set = 1#1) acc.toNat cb.toNat limit
  | .mstore _ fmt _ acc => s.runMstore k op fmt.toNat acc.toNat limit
  | .mclr tgt => s.runMclr k op tgt.toNat limit
  | .ldtm ty _ _ vd => s.runLoad k op ty.toNat vd.toNat limit
  | .ldstr ty _ _ vd => s.runLoad k op ty.toNat vd.toNat limit
  | .ldgi ty _ _ vd => s.runLoad k op ty.toNat vd.toNat limit
  | .sttm ty _ _ vd => s.runStore k op ty.toNat vd.toNat limit
  | .ststr ty _ _ vd => s.runStore k op ty.toNat vd.toNat limit
  | .stsi ty _ _ vd => s.runStore k op ty.toNat vd.toNat limit
  | .ldfe va vd => s.runLdfe k op va.toNat vd.toNat limit
  | .smpath ty vb vd => s.runSmpath k op ty vb vd limit
  | .smerge ty vb => s.runMerge k op (op.runs ty vb false) (op.group vb 2) (op.group vb 3) limit
  | .smkv ty vb => s.runMerge k op (op.runs ty vb true) (op.group vb 2) (op.group vb 3) limit
  | .gxgather ty vb va => s.runRows k op ty vb va true limit
  | .gxscat ty vb va => s.runRows k op ty vb va false limit
  | .gxbins ty vb va vd => s.runBins k op ty vb va vd limit
  | .gxstat vd => s.runGxstat k op vd limit
  | .zdgo vb => s.runZdgo k op vb limit
  | .zdwait vd => s.runZdwait k op vd limit
  | .rdjoin vb => s.runRdjoin k op vb limit
  | .rdsum ty vb va => s.runRdsend k op ty false vb va limit
  | .rdmax ty vb va => s.runRdsend k op ty true vb va limit
  | _ => s.runRegs k op limit

/-- The same; what it has drawn of the free values stays behind it (20: R388). -/
def State.runOp (s : State) (k : Nat) (op : EngOp) (limit : Option Nat) : OpEnd :=
  let r := s.runAt k op limit
  if op.early.isSome then { r with s := { r.s with free := r.s.free + 1 } } else r

/-- The head operation of an engine ends complete, where it can; one that must wait keeps what it has done (14: R294);
one that keeps an index is paused while
its core is stopped (17: R361). -/
def State.endOp (s : State) (pos eng : Nat) (job : Bool) : State :=
  match s.running pos eng with
  | none => s
  | some (k, op) =>
    if isZdgo op.instr ≠ job || ((s.core k).stopped ≠ 0 && longOp op.instr) then s
    else
      let r := s.runOp k op none
      match r.how with
      | .complete => r.s.completeOp pos eng k r.op
      | .stopped => r.s.advanceOp pos eng r.op
      | .faulted _ _ => s

/-- ENGINE_OP_COMPLETE (05: R94). -/
def execEngineOpComplete (pos eng : Nat) (s : State) : Out := .next (s.endOp pos eng false)

/-- ZD_JOB_END: at END, at a limit or at a corrupt block (14: R303). -/
def execZdJobEnd (pos : Nat) (s : State) : Out := .next (s.endOp pos 6 true)

/-- ENGINE_FAULT (13: R266). -/
def execEngineFault (pos eng : Nat) (s : State) : Out :=
  .next (match s.running pos eng with
    | none => s
    | some (k, op) =>
      let r := s.runOp k op none
      if (s.core k).stopped ≠ 0 && longOp op.instr then s
      else match r.how with
      | .faulted c a => r.s.faultOp pos eng k r.op c a
      | _ => s)

/-- How far an operation in flight came when it is stopped: at most `progress` units, and never past a fault. -/
def State.cutOp (k progress : Nat) (s : State) (op : EngOp) : OpEnd := s.runOp k op (some (max progress op.prog))

/-- The eviction of R157: the operation in flight stops at its index, those behind it are removed, the engine's state
is lost, its units are freed. The engine is then as a released one is, warm (23: R394). -/
def State.evict (s : State) (k e progress : Nat) (st : LeaseState) : State :=
  let p := corePos k
  let r := s.stopEngine k e (State.cutOp k progress)
  let s := r.2
  let c := s.cluster p
  let c := c.scrub e
  let s := s.setCluster p { c with
    engs := Tab.put c.engs e { c.eng e with power := .warm, released := c.stamp }, stamp := c.stamp + 1,
    demand := if c.demand.any (fun d => d.eng = e && d.core = coreNo k) then none else c.demand }
  let d := (s.core k).forget e
  let s := s.setCore k { d with leases := Tab.put d.leases e { d.lease e with st := st } }
  let s : State := match r.1 with
    | some op =>
      let d := s.core k
      s.setCore k { d with due := d.due ++ [{ kind := 3, cause := cLEASE_LOST, pc := op.pc, unit := e, op := op }] }
    | none => s
  (s.bayScan p).mirror k

/-- GRACE_EXPIRY: the window ends with the lease unreleased (07: R156, R157). A yielding core gets 2 (R152). -/
def execGraceExpiry (pos eng progress : Nat) (s : State) : Out :=
  .next (match ((s.cluster pos).eng eng).power with
    | .held kc =>
      let k := 4 * pos + kc
      let l := (s.core k).lease eng
      if l.st != .grace || (s.core k).stopped ≠ 0 then s
      else
        let s := s.evict k eng progress (if l.yielding then .none else .lost)
        if l.yielding then
          s.setLease k eng { (s.core k).lease eng with yielding := false, yieldDone := some 2 }
        else s
    | _ => s)

end Sys2Proof.Machine
end

