-- ==== Sys2Proof/Machine/Maps.lean ====
section
/-! DEFINITION. The answer of QTILE from the maps, and the instructions QTILE, QCAP and QPWR (03: R56, R57; 08: R168). -/

namespace Sys2Proof.Machine

/-! ### QTILE, QCAP, QPWR -/

/-- The position of a logical coordinate within a partition (03: R56). -/
def State.lookup (s : State) (tag lx ly : Nat) : Option Nat :=
  match s.physical lx ly with
  | some p => if (s.region (8 * (ly / 16) + lx / 16)).tag = tag then some p else none
  | none => none

/-- The answer of a QTILE (03: R56); the operands are packed as the request carries them (log 28). -/
def State.tileAnswer (s : State) (tag : Nat) (q : Word) : Word :=
  match s.lookup tag (bits q 0 7) (bits q 7 7) with
  | none => fields [(14, 3), (16, 3), (32, 0x3FF)]
  | some p =>
    let dist := match s.lookup tag (bits q 14 7) (bits q 21 7) with
      | none => 0x3FF
      | some d => s.routeHops (bits q 28 3) p d
    fields [(0, posX p), (7, posY p), (14, s.mapEntry p % 4096), (32, dist)]

/-- QTILE: a request to the own island through a reply slot (03: R56; 09: R184). It is no access of memory: no
ordering instruction waits for it. -/
def execQtile (rb ra rd : Reg) (s : State) : Out :=
  .next (s.onTile fun k => s.sources false .a [ra.toNat, rb.toNat] fun s => s.destination rd.toNat fun s =>
    match (s.core k).freeSlot with
    | none => s.block .slot
    | some i =>
      let q := bits (s.reg ra.toNat) 0 14 + 2 ^ 14 * bits (s.reg rb.toNat) 0 17
      let x : Access := { kind := 8, addr := BitVec.ofNat 64 q, n := 8 }
      let l : Slot := { acc := x, pc := (s.core k).pc, home := 99, dst := 8 * rd.toNat, len := 8 }
      (s.request k i l (.virt 0)).retire 4)

/-- QCAP reads the copy in the cluster (03: R57). -/
def execQcap (rd : Reg) (s : State) : Out :=
  .next (s.onTile fun k => s.destination rd.toNat fun s =>
    s.finish 4 rd.toNat (s.cluster (corePos k)).qcap 0)

/-- QPWR reads the copy in the cluster; OPP is the executing core's (08: R168). -/
def execQpwr (rd : Reg) (s : State) : Out :=
  .next (s.onTile fun k => s.destination rd.toNat fun s =>
    let c := s.cluster (corePos k)
    let v := c.qpwr ||| fields [(26, nth 0 c.qopp (coreNo k))]
    s.finish 4 rd.toNat v 0)

end Sys2Proof.Machine
end

