-- ==== Sys2Proof/Machine/Network.lean ====
section
/-! DEFINITION. The mesh and the memory sides (03: R48, R58, R63, R66, R398; 09: R181-R187; 10: R196-R202; 15: R312,
R314; 17: R370, R372; 18: R382, R383): forwarding a message, serving a request, translating and forwarding it, sinking
its reply, filling the code cache. -/

namespace Sys2Proof.Machine

/-! ### Drops (09: R187) -/

/-- A router's report to the island of a message's source (09: R187; 16: R337), with SEQ and SCORE 0 (log 107). -/
def State.dropReport (s : State) (p cause : Nat) (m : Msg) : State :=
  s.send { at_ := p, vc := 0, w0 := header0 (islandPos (regionOf (srcPos m.w1))) 0 0 0 32 0, w1 := header1 p 0 0 0xFF,
           body := bytesOf [fields [(0, cause), (7, posX p), (14, posY p)], m.w0, m.w1, 0] }

/-- A message is dropped whole at a router; for a request the source's island sends the error reply (03: R63,
R66). -/
def State.drop (s : State) (p cause : Nat) (m : Msg) : State :=
  let s := s.dropReport p cause m
  if m.vc = 2 then s.send (reply m (islandPos (regionOf (srcPos m.w1))) 0xFF 2 cause m.w2 []) else s

/-! ### ROUTER_FORWARD -/

/-- The hub writes a trace record into its ring (17: R373). -/
def State.traceRing (s : State) (r : Nat) (bs : List Byte) : State :=
  let base := sramHome r
  let n := s.readMem (base + 0xF02000) 4
  (s.writeMem (base + 0xF40000 + 32 * (n % 8192)) (takeN 32 bs)).writeMem (base + 0xF02000) (toBytes 4 ((n + 1) % 2 ^ 32))

/-- Requests that an island has taken: they stand in its input or in its wait store, those that ride a walk among them
(09: R185; 10: R200). -/
def Region.stored (g : Region) : Nat :=
  (Tab.get [] g.inq 2).length + g.waiting.length + (g.walks.map fun w => w.reqs.length).sum

/-- A message reaches the local port of its destination, or it waits there for room (03: R48, R53; 09: R173, R177,
R185). What leaves by that port is counted; what is dropped before it is not, nor a block that no pattern has taken
(17: R372). -/
def State.deliver (s : State) (p : Nat) (m : Msg) : Option State :=
  let m := { m with ran := false }
  let out := s.countSent p 4 m.vc m.flits
  if isIsland p then
    let r := regionOf p
    let g := s.region r
    if 4 ≤ m.vc then some (s.drop p cPROTECT_DROP m)
    else if m.vc = 1 then some (out.traceRing r m.body)
    else if m.vc = 2 && decide (1024 ≤ g.stored) then none
    else some (out.setRegion r { g with inq := Tab.put g.inq m.vc (Tab.get [] g.inq m.vc ++ [m]) })
  else if s.isRetired p then some (s.drop p cDEST_RETIRED m)
  else
    let c := s.cluster p
    match m.vc with
    | 2 => if 64 ≤ c.reqq.length then none else some (out.setCluster p { c with reqq := c.reqq ++ [m] })
    | 4 => some s
    | 3 => some (out.setInq p 3 (s.inq p 3 ++ [m]))
    | vc =>
      if roomFor (s.inq p vc) m then
        some (out.setCluster p { c with inq := Tab.put c.inq vc (s.inq p vc ++ [{ m with no := c.came }]), came := c.came + 1 })
      else none

/-- A region load leaves its core only once every earlier region load of the core has been performed (15: R314,
step 4). -/
def State.loadHeld (s : State) (m : Msg) : Bool :=
  let c := s.core (4 * srcPos m.w1 + srcCore m.w1)
  m.vc = 2 && m.dir = 5 && !bit m.w3 3 &&
    match nth none c.slots (bits m.w3 0 3) with
    | none => false
    | some l => l.isLoad && decide (l.home ≤ 3) &&
        c.accesses.any fun e => e.isLoad && decide (e.home ≤ 3) && decide (e.seq < l.seq) && !e.performed

/-- The pattern that takes a block in a cluster (12: R252): its edge (0 west, 1 east, told by the source column) and
register. -/
def State.pattern (s : State) (p : Nat) (m : Msg) : Option Word :=
  let edge := if posX (srcPos m.w1) < 64 then 0 else 1
  let w := Tab.get 0 (s.cluster p).hb edge
  let b := bits m.w1 16 16 + 65536 * bits m.w1 40 16
  if !isIsland p && !s.isRetired p && bit w 0 && b % (bits w 1 4 + 1) = bits w 5 4 then some w else none

/-- The border check of R66 at the router that a message enters. -/
def State.admits (s : State) (q : Nat) (m : Msg) : Bool :=
  let tag := bits m.w1 32 8
  let here := (s.region (regionOf q)).tag
  tag = 0xFF || (if m.vc = 4 then regionOf (destPos m.w0) ≠ regionOf q || tag = here else decide (2 ≤ m.vc) && tag = here)

/-- Two messages come from one core. -/
def sameSource (a b : Msg) : Bool := srcPos a.w1 = srcPos b.w1 && srcCore a.w1 = srcCore b.w1

/-- An earlier message of the same VC stands at the same input port, or, before the local port, comes from the same core
and is not held itself (09: R173, R174; 15: R314). -/
def State.behind (s : State) (i : Nat) (m : Msg) : Bool :=
  (takeN i s.net).any fun e =>
    e.at_ = m.at_ && e.vc = m.vc && e.dir = m.dir && (m.dir ≠ 5 || (sameSource e m && !s.loadHeld e))

/-- Message number i may leave the place where it stands: it is the first of its VC there, no earlier load holds it, no
pattern has still to take it. -/
def State.ripe (s : State) (i : Nat) (m : Msg) : Bool :=
  decide (i < s.net.length) && !s.behind i m && !s.loadHeld m &&
    !(m.vc = 4 && m.dir ≠ 5 && (s.pattern m.at_ m).isSome && !m.ran)

/-- The downstream buffer of a direction has a credit for the message (09: R173). -/
def State.credit (s : State) (p dir : Nat) (m : Msg) : Bool :=
  match nextPos p dir with
  | none => false
  | some q => roomFor (s.net.filter fun e => e.at_ = q && e.vc = m.vc && e.dir = opposite dir) m

/-- Message number i has a flit and a credit for the link of a direction of a router (09: R173). -/
def State.asks (s : State) (p dir i : Nat) : Bool :=
  let m := nth {} s.net i
  m.at_ = p && m.dir ≠ 5 && destPos m.w0 ≠ p && s.portTo m.vc p (destPos m.w0) = dir && s.ripe i m && s.credit p dir m

/-- The VC that the link of a direction takes next: VC0, then VC1, then VC2-VC7 in round-robin (09: R173). -/
def State.linkTurn (s : State) (p dir : Nat) : Option Nat :=
  let vcs := ((span 0 s.net.length).filter (s.asks p dir)).map fun i => (nth {} s.net i : Msg).vc
  let last := Tab.get 7 (s.router p).last dir
  ([0, 1] ++ (span 0 6).map fun i => 2 + (last - 1 + i) % 6).find? vcs.contains

/-- The link of a direction has served a VC (09: R173). -/
def State.served (s : State) (p dir vc : Nat) : State :=
  if vc < 2 then s else s.setRouter p { s.router p with last := Tab.put (s.router p).last dir vc }

/-- Message number i of the mesh enters the local port, moves one hop, is delivered or dropped; where it cannot, nothing
changes. -/
def State.forward (s : State) (i : Nat) : State :=
  let m := nth {} s.net i
  let p := m.at_
  if !s.ripe i m then s
  else
    let t := { s with net := dropNth s.net i }
    let d := destPos m.w0
    if m.dir = 5 then (if s.portRoom p m then t.enter m else s)
    else if d = p then
      (t.deliver p m).getD s
    else
      let dir := s.portTo m.vc p d
      match nextPos p dir with
      | none => t.drop p cLINK_LOST m
      | some q =>
        if (s.router p).broken.contains dir then t.drop p cLINK_LOST m
        else if !s.credit p dir m || s.linkTurn p dir ≠ some m.vc then s
        else
          let t := (t.countSent p dir m.vc m.flits).served p dir m.vc
          if regionOf q ≠ regionOf p && !s.admits q m then t.drop q cPROTECT_DROP m
          else t.send { m with at_ := q, dir := opposite dir, ran := false }

def execRouterForward (i : Nat) (s : State) : Out := .next (s.forward i)

/-- ROUTER_COUNTER_WRITE (17: R372). How long flits waited is no part of the model: STALL grows by free values
(log 29). -/
def execRouterCounterWrite (pos : Nat) (s : State) : Out :=
  let grow := fun (t : Tab Nat) i => Tab.put t i ((Tab.get 0 t i + (Config.freeWord 29 (64 * s.free + i)).toNat) % 2 ^ 32)
  .next (
    let r := s.router pos
    let r := { r with stall := (span 0 40).foldl grow r.stall, interval := (r.interval + 1) % 2 ^ 32 }
    let base := sramHome (regionOf pos) + 0xFA0000 + 512 * localIndex pos
    let w (s : State) (i : Nat) (v : Word) : State := s.writeWord (base + 8 * i) v
    let n : Word := BitVec.ofNat 64 r.interval
    let s := w ({ s with free := s.free + 1 }.setRouter pos r) 0 n
    let s := (span 0 40).foldl (fun s i => w s (1 + i) (fields [(0, Tab.get 0 r.sent i), (32, Tab.get 0 r.stall i)])) s
    w s 63 n)

/-! ### Requests at their home (09: R182, R183, R185) -/

def Msg.kind (m : Msg) : Nat := bits m.w0 19 5
/-- Bytes of an access by its SIZE (09: R182); 64 of a FILL (DESIGN CHOICE; unsafe; log 146). -/
def Msg.size (m : Msg) : Nat := if bits m.w3 8 3 = 7 then (if m.kind = 9 then 64 else 128) else 2 ^ bits m.w3 8 3

/-- The access that a request carries. -/
def Msg.access (m : Msg) : Access :=
  { kind := m.kind, addr := m.w2, n := m.size, op := bits m.w3 11 3, ord := bits m.w3 14 2, scope := bits m.w3 16 4
    d1 := BitVec.ofNat 64 (ofBytes (takeN 8 m.body)), d2 := BitVec.ofNat 64 (ofBytes (dropN 8 m.body)) }

/-- The requester's slot holds a performed load or atomic (15: R312). -/
def State.perform (s : State) (m : Msg) : State :=
  let k := 4 * srcPos m.w1 + srcCore m.w1
  let c := s.core k
  if bit m.w3 3 then s
  else match nth none c.slots (bits m.w3 0 3) with
    | some l => s.setCore k { c with slots := setNth c.slots (bits m.w3 0 3) (some { l with performed := !l.store }) }
    | none => s

/-! ### Links to other wafers (15: R329; 18: R382) -/

/-- A flit: bytes as 512 bits. -/
def flitOf (bs : List Byte) : BitVec 512 := BitVec.ofNat 512 (ofBytes (takeN 64 bs))

/-- The bytes of a request or reply (09: R171). -/
def Msg.bytes (m : Msg) : List Byte := bytesOf [m.w0, m.w1, m.w2, m.w3] ++ m.body

/-- The five beats of a frame; none for the flit of a control-only frame (18: R382). -/
def beats (lseq ack vc : Nat) (flit : Option (BitVec 512)) : List (BitVec 128) :=
  let x := flit.getD 0
  let ctl := fields [(0, lseq % 4096), (12, ack % 4096), (24, vc % 8), (27, b2n flit.isSome)]
  ((span 0 4).map fun i => BitVec.ofNat 128 (x.toNat / 2 ^ (128 * i))) ++
    [BitVec.ofNat 128 (ctl.toNat + 2 ^ 64 * (Config.crc64 x ctl).toNat)]

/-- A frame leaves, new or again, with the number of the last frame received in order (18: R382). -/
def Link.emit (l : Link) (f : Frame) : Link := { l with wire := l.wire ++ [beats f.lseq l.rx f.vc (some f.flit)] }

/-- A control-only frame leaves (18: R382; log 137). -/
def Link.control (l : Link) : Link := { l with wire := l.wire ++ [beats l.tx l.rx 0 none] }

/-- A frame leaves by a link, and is kept until it is acknowledged (18: R382). -/
def Link.push (l : Link) (vc : Nat) (flit : BitVec 512) : Link :=
  let f : Frame := { lseq := l.tx, vc := vc, flit := flit }
  { l.emit f with tx := (l.tx + 1) % 4096, unacked := l.unacked ++ [f] }

/-- The link has room for the frames of a message. -/
def Link.room (l : Link) (m : Msg) : Bool := l.up && decide (l.unacked.length + m.flits ≤ 2048)

/-- The first link in service toward a wafer that has room for the frames of a request (15: R329; 18: R382). -/
def State.freeLink (s : State) (avoid : Option Nat) (wafer : Nat) (m : Msg) : Option Nat :=
  (span 0 96).find? fun i =>
    let l : Link := Tab.get {} s.links i
    some i ≠ avoid && l.toward.contains wafer && l.room m

/-- A message leaves by a port, a frame for each flit. -/
def State.sendLink (s : State) (port : Nat) (m : Msg) : State :=
  let l : Link := Tab.get {} s.links port
  let l := (span 0 m.flits).foldl (fun l i => l.push m.vc (flitOf (dropN (64 * i) m.bytes))) l
  { s with links := Tab.put s.links port l }

/-- Replies that wait for a port leave by it in their order, as long as it has room (18: R382). -/
def State.sendReplies (s : State) (port : Nat) : Nat → State
  | 0 => s
  | n + 1 =>
    let f := s.fabric
    match f.replies.findIdx? fun e => e.1 = port with
    | none => s
    | some i =>
      let m := (nth (0, {}) f.replies i).2
      if (Tab.get {} s.links port : Link).room m then
        (({ s with fabric := { f with replies := dropNth f.replies i } }).sendLink port m).sendReplies port n
      else s

/-- A reply to another wafer goes by the port that the request came by, unless that has left service (18: R382). -/
def State.replyAway (s : State) (port : Nat) (m : Msg) : State :=
  if (Tab.get {} s.links port : Link).up then
    let f := { s.fabric with replies := s.fabric.replies ++ [(port, m)] }
    { s with fabric := f }.sendReplies port f.replies.length
  else s

/-- A reply goes to the source, or by the fabric endpoint that the request came by (18: R383). -/
def State.answer (s : State) (m : Msg) (p tag kind cause : Nat) (addr : Word) (bs : List Byte) : State :=
  match m.port with
  | some port => s.replyAway port (reply { m with w1 := m.origin } p tag kind cause addr bs)
  | none => s.send (reply m p tag kind cause addr bs)

/-- A request performed at a home address by a server at position `p` whose replies carry `tag` (09: R183, R185;
15: R312, R321). The 16 words of an LDR are read in one step (10: R194; DESIGN CHOICE; unsafe; log 145). -/
def State.serveAt (s : State) (m : Msg) (h p tag : Nat) : State :=
  let x := m.access
  if 10 ≤ x.kind || x.kind = 8 then s.answer m p tag 2 cBAD_ADDRESS m.w2 []
  else if x.kind = 1 || x.kind = 7 then ((s.clean h x.n).writeMem h (takeN x.n m.body)).answer m p tag 1 0 0 []
  else if s.badAt h x.n then s.answer m p tag 2 cUNCORR_ECC m.w2 []
  else
    let s := (s.countEcc (regionOf p) h x.n).perform m
    if 3 ≤ x.kind && x.kind ≤ 5 then
      let r := (s.clean h x.n).atomicAt h x
      r.2.answer m p tag 0 0 0 (toBytes 8 r.1)
    else (s.clean h x.n).answer m p tag 0 0 0 (Mem.readBytes s.mem h x.n)

/-- Watches of a cluster on an access that its request queue served (17: R370). An LDR of the own scratchpad is a core
load. -/
def State.watchServed (s : State) (p off : Nat) (m : Msg) : State :=
  let n := m.size
  if m.kind = 2 && srcPos m.w1 = p then
    s.watch p 0 0 (spadHome p) off n [55] 0 (fields [(14, srcCore m.w1)]) m.w2 (some (4 * p + srcCore m.w1))
  else if 3 ≤ m.kind && m.kind ≤ 5 then s.watch p 0 0 (spadHome p) off n [57, 58] 5 m.w1 m.w2 none
  else if m.kind = 1 || m.kind = 7 then s.watch p 0 0 (spadHome p) off n [57] 3 m.w1 m.w2 none
  else s.watch p 0 0 (spadHome p) off n [57] 2 m.w1 m.w2 none

/-- A cluster's request queue serves its head (09: R185). -/
def State.serveCluster (s : State) (p : Nat) : State :=
  let c := s.cluster p
  match c.reqq with
  | [] => s
  | m :: rest =>
    let off := bits m.w2 0 20
    let s := s.setCluster p { c with reqq := rest }
    let bad := s.badAt (spadHome p + off) m.size && m.kind ≠ 1 && m.kind ≠ 7
    let s := s.serveAt m (spadHome p + off) p (s.region (regionOf p)).tag
    if bad || 8 ≤ m.kind then s else s.watchServed p off m

/-- A request for the SRAM of the island's own region. -/
def Msg.toSram (m : Msg) : Bool := m.kind ≠ 8 && decide (0x20000000000 ≤ m.w2.toNat) && decide (m.w2.toNat < 0x20040000000)

/-- The first message of an island's request input that a test picks, and the state without it. -/
def State.takeRequest (s : State) (r : Nat) (f : Msg → Bool) : Option (Msg × State) :=
  let g := s.region r
  let q := Tab.get [] g.inq 2
  match q.findIdx? f with
  | none => none
  | some i => some (nth {} q i, s.setRegion r { g with inq := Tab.put g.inq 2 (dropNth q i) })

def State.serveSram (s : State) (r : Nat) : State :=
  match s.takeRequest r Msg.toSram with
  | none => s
  | some (m, s) => s.serveAt m (sramHome r + bits m.w2 0 24) (islandPos r) 0xFF

/-- A bridge or a host port serves its head, which it may complete with an error (10: R196; 15: R328). `q` is 0-15 for
a stack, 16-19 for a host port. -/
def State.serveBridge (s : State) (q : Nat) : State :=
  match Tab.get [] s.bridges q with
  | [] => s
  | m :: rest =>
    let s := { s with bridges := Tab.put s.bridges q rest }
    let f := s.fresh 30
    let pa := bits m.w2 0 52
    let at_ := islandPos (regionOf (srcPos m.w1))
    if q < 16 then s.serveAt m pa at_ 0xFF
    else if bit f.1 0 then f.2.answer m at_ 0xFF 2 cHOST_ABORT m.w2 []
    else
      let s := f.2.serveAt m pa at_ 0xFF
      if (m.kind = 1 || m.kind = 7) && m.port.isNone then
        let k := 4 * srcPos m.w1 + srcCore m.w1
        let c := s.core k
        s.setCore k { c with hostPorts := if c.hostPorts.contains (q - 16) then c.hostPorts else c.hostPorts ++ [q - 16] }
      else s

def execRequestServe (u : ServeAt) (s : State) : Out :=
  .next (match u with
    | .cluster p => s.serveCluster p
    | .sram r => s.serveSram r
    | .stack n => s.serveBridge n
    | .host n => s.serveBridge (16 + n))

/-- ISLAND_QTILE: the first QTILE request of the island is answered from one version of the maps (03: R56). -/
def execIslandQtile (region : Nat) (s : State) : Out :=
  .next (match s.takeRequest region fun m => m.kind = 8 with
    | none => s
    | some (m, s) =>
      let s := s.perform m
      s.answer m (islandPos region) 0xFF 0 0 0 (toBytes 8 (s.tileAnswer (s.region region).tag m.w2).toNat))

/-! ### Requests to the fabric window (15: R329, R330; 18: R383) -/

/-- What becomes of a request to the fabric window: it waits, fails, or leaves. -/
def State.fabricSend (s : State) (m : Msg) (pa : Nat) : Option (Except Nat State) :=
  let f := s.fabric
  let w := waferOf pa
  if !s.reaches pa || (3 ≤ m.kind && m.kind ≤ 5) then some (.error cBAD_ADDRESS)
  else
    let isFlag := m.kind = 7 && decide (7 ≤ bits m.w3 16 4)
    match s.freeLink none w m with
    | none => none
    | some port =>
      let q := (Tab.get 0 f.flagNo w + 1) % 2 ^ 32
      let f := { f with
        out := f.out ++ [{ msg := m, wafer := w, port := port, flag := if isFlag then some q else none }],
        flagNo := if isFlag then Tab.put f.flagNo w q else f.flagNo }
      some (.ok ({ s with fabric := f }.sendLink port m))

/-! ### The island's MMU (10: R196-R202) -/

/-- What a request asks of its page (10: R199). -/
def Msg.want (m : Msg) : Want :=
  if m.kind = 1 || m.kind = 7 then .write else if 3 ≤ m.kind && m.kind ≤ 5 then .atomic
  else if m.kind = 9 then .fetch else .read

/-- An ERROR reply from an island, with the translated address (10: R199). -/
def State.refuse (s : State) (r : Nat) (m : Msg) (cause : Nat) : State := s.answer m (islandPos r) 0xFF 2 cause m.w2 []

/-- A translated request goes to its bridge, host port or the fabric, with its physical address and tag 0xFF; none
where it has to wait (09: R181; 10: R196; 15: R322). -/
def State.forwardTo (s : State) (r : Nat) (m : Msg) (pa : Nat) : Option State :=
  let m' := { m with w2 := BitVec.ofNat 64 pa, w1 := (m.w1 &&& ~~~(0xFF#64 <<< 32)) ||| (0xFF#64 <<< 32) }
  let atom := decide (3 ≤ m.kind) && decide (m.kind ≤ 5)
  if pa < 0x18000000000 then
    let q := pa / 4096 % 16
    some { s with bridges := Tab.put s.bridges q (Tab.get [] s.bridges q ++ [m']) }
  else if 0x8000000000000 ≤ pa && pa < 0x10000000000000 then
    if atom && !(m.kind = 4 || (m.kind = 3 && bits m.w3 11 3 = 0)) then some (s.refuse r m cBAD_ADDRESS)
    else
      let q := 16 + pa / 2 ^ 49 % 4
      some { s with bridges := Tab.put s.bridges q (Tab.get [] s.bridges q ++ [m']) }
  else if awayHome pa then
    match s.fabricSend m' pa with
    | none => none
    | some (.error c) => some (s.refuse r m c)
    | some (.ok t) => some t
  else some (s.refuse r m cBAD_ADDRESS)

/-- A request whose page is known (10: R199). -/
def State.proceed (s : State) (r : Nat) (m : Msg) (g : Page) : Option State :=
  if !g.allows m.want then some (s.refuse r m cPAGE_PERM)
  else s.forwardTo r m (g.pa + bits m.w2 0 48 % 2 ^ g.size)

/-- ASID of the context of a region's partition (10: R197). -/
def State.asid (s : State) (r : Nat) : Nat := (s.partOf r).asid

/-- The page that the TLB holds for an address. -/
def Region.tlbFind (g : Region) (asid va : Nat) : Option Page :=
  (g.tlb.find? fun e => e.asid = asid && e.va = va / 2 ^ e.size * 2 ^ e.size).map fun e => ⟨e.pa, e.size, e.perm⟩

/-- A request meets the MMU: it hits, joins a walk, starts one, or waits (10: R200, R201). None where it must wait: a hit
too waits while an earlier request of its core to its 4 KiB page rides a walk or waits (R201). An entry that the TLB has
replaced misses: a free value says whether (log 19). -/
def State.meetMmu (s : State) (r : Nat) (m : Msg) : Option State :=
  let g := s.region r
  let asid := s.asid r
  let va := bits m.w2 0 48
  let page := va / 4096
  let i := g.walks.findIdx? fun w => w.asid = asid && w.page = page
  if g.waiting.any fun e => sameSource e m && bits e.w2 12 36 = page then none
  else
    let f := s.fresh 31
    match (if bit f.1 0 then none else g.tlbFind asid va), i with
    | some pg, some j => if (nth {} g.walks j : Walk).reqs.any (sameSource m) then none else f.2.proceed r m pg
    | some pg, none => f.2.proceed r m pg
    | none, some j =>
      let w := nth {} g.walks j
      if 512 ≤ w.reqs.length then none
      else some (f.2.setRegion r { g with walks := setNth g.walks j { w with reqs := w.reqs ++ [m] } })
    | none, none =>
      if 64 ≤ g.walks.length then none
      else some (f.2.setRegion r { g with walks := g.walks ++ [{ asid := asid, page := page, reqs := [m] }] })

/-- ISLAND_FORWARD: the first request for translated space meets the MMU, or goes to the wait store (09: R185;
10: R200). -/
def execIslandForward (region : Nat) (s : State) : Out :=
  .next (match s.takeRequest region fun m => m.kind ≠ 8 && !m.toSram with
    | none => s
    | some (m, t) =>
      if !isTranslated m.w2 || 10 ≤ m.kind then t.refuse region m cBAD_ADDRESS
      else match t.meetMmu region m with
        | some u => u
        | none =>
          let g := t.region region
          t.setRegion region { g with waiting := g.waiting ++ [m] })

/-- Waiting requests retry in arrival order (10: R200); `keep` those that go on waiting. -/
def State.retryWaiting (s : State) (r : Nat) : List Msg → List Msg → State
  | keep, [] => let g := s.region r
                s.setRegion r { g with waiting := keep }
  | keep, m :: t =>
    let g := s.region r
    match (s.setRegion r { g with waiting := keep }).meetMmu r m with
    | some u => u.retryWaiting r keep t
    | none => s.retryWaiting r (keep ++ [m]) t

/-- The outcome of a walk for one of its requests; one that finds no room on its way waits, and with it those of its
core that follow (10: R200, R201). -/
def State.endWalk (r : Nat) (res : Except Nat Page) (b : List Msg × State) (m : Msg) : List Msg × State :=
  match res with
  | .error c => (b.1, b.2.refuse r m c)
  | .ok g =>
    if b.1.any (sameSource m) then (b.1 ++ [m], b.2)
    else match b.2.proceed r m g with
      | some t => (b.1, t)
      | none => (b.1 ++ [m], b.2)

/-- WALK_COMPLETE: walk number i of a region ends (10: R199, R200). -/
def execWalkComplete (region i : Nat) (s : State) : Out :=
  .next (
    let g := s.region region
    if g.walks.length ≤ i then s
    else
      let w := nth {} g.walks i
      let res := s.walk (s.partOf region).root (w.page * 4096)
      let tlb := match res with
        | .ok pg => takeN 32768 ({ asid := w.asid, va := w.page * 4096 / 2 ^ pg.size * 2 ^ pg.size, size := pg.size,
                                   pa := pg.pa, perm := pg.perm } :: g.tlb)
        | .error _ => g.tlb
      let s := (s.setRegion region { g with walks := dropNth g.walks i, tlb := tlb }).countWalk region (w.page * 4096)
      let b := w.reqs.foldl (State.endWalk region res) ([], s)
      b.2.retryWaiting region [] (b.1 ++ (b.2.region region).waiting))

/-! ### Replies (09: R183, R184, R186; 04: R68) -/

/-- The first reply at a cluster with FILLS as given, and the state without it. -/
def State.takeReply (s : State) (p : Nat) (fills : Bool) : Option (Msg × State) :=
  match (s.inq p 3).findIdx? fun m => bit m.w2 3 = fills with
  | none => none
  | some i => some (nth {} (s.inq p 3) i, s.setInq p 3 (dropNth (s.inq p 3) i))

/-- The value of a reply written to its destination, and full (05: R94; 09: R184). -/
def State.sinkData (s : State) (k : Nat) (l : Slot) (bs : List Byte) : State :=
  if l.len = 0 then s
  else if l.len = 8 then
    let c := s.core k
    s.setCore k { c with reg := c.reg.put (l.dst / 8) (extend l.signed l.acc.n (ofBytes (takeN l.acc.n bs))) }
  else s.putWords k (l.dst / 8) (wordsOf bs (l.len / 8))

/-- The buffered form of a store whose reply was ERROR (15: R331). -/
def Slot.failed (l : Slot) : Buffered :=
  { acc := l.acc, pc := l.pc, word := l.acc.addr &&& ~~~7
    mask := maskOf (8 * (l.acc.addr.toNat % 8)) (8 * l.acc.n), data := l.acc.d1 <<< (8 * (l.acc.addr.toNat % 8))
    home := l.home, dest := l.dest, seq := l.seq, rel := if l.acc.kind = 7 then some l.acc.scope else none }

/-- REPLY_SINK: a reply frees its slot; DATA is written, ERROR makes a D cause due that names the slot's access, a failed
store holds the store buffer (09: R184, R186; 15: R331). -/
def execReplySink (pos : Nat) (s : State) : Out :=
  .next (match s.takeReply pos false with
    | none => s
    | some (m, s) =>
      let k := 4 * pos + bits m.w0 14 2
      let n := bits m.w2 0 3
      let c := s.core k
      match nth none c.slots n with
      | none => s
      | some l =>
        let s := s.setCore k { c with slots := setNth c.slots n none }
        let s := if m.kind = 0 then s.sinkData k l m.body
          else if m.kind = 2 then
            let c := s.core k
            s.setCore k { c with
              due := c.due ++ [{ kind := 1, cause := bits m.w2 8 7, pc := l.pc, addr := l.acc.addr, slotNo := n, slot := l }],
              sbHeld := if l.store then some l.failed else c.sbHeld }
          else s
        s.mirror k)

/-- CODE_CACHE_FILL: a fill reply places its line, or leaves its cause for the fetch that reaches it (04: R68,
R69). -/
def execCodeCacheFill (pos : Nat) (s : State) : Out :=
  .next (match s.takeReply pos true with
    | none => s
    | some (m, s) =>
      let n := bits m.w2 0 3
      let c := s.cluster pos
      match nth none c.fills n with
      | none => s
      | some f =>
        if f.stale then s.setCluster pos { c with fills := setNth c.fills n none }
        else if m.kind = 2 then s.setCluster pos { c with fills := setNth c.fills n (some { f with fault := some (bits m.w2 8 7, m.w3) }) }
        else (s.setCluster pos { c with fills := setNth c.fills n none }).fillCode pos f.line.toNat
          (BitVec.ofNat 512 (ofBytes m.body)))

end Sys2Proof.Machine
end

