-- ==== Sys2Proof/Machine/Events.lean ====
section
/-! DEFINITION. What goes to the host (02: R34; 18: R375, R380): writes through a partition's context, MSI-X messages,
event records. -/

namespace Sys2Proof.Machine

/-- The partition of a tag (03: R65). -/
def State.part (s : State) (tag : Nat) : Partition := Tab.get {} s.parts tag
def State.setPart (s : State) (tag : Nat) (x : Partition) : State := { s with parts := Tab.put s.parts tag x }

/-! ### Island DMA through a context (10: R197; 02: R30) -/

/-- Home of a byte of a partition's translated space, or the cause (10: R199). -/
def State.ctxHome (s : State) (tag : Nat) (a : Word) (w : Want) : Except Nat Nat :=
  if !isTranslated a then .error cBAD_ADDRESS
  else match s.translate (s.part tag).root (bits a 0 48) w with
    | .error c => .error c
    | .ok pa => s.pageHome pa w

/-- The homes of pieces of a range, or the first fault and its address. -/
def State.ctxHomes (s : State) (tag : Nat) (w : Want) : List (Nat × Nat) → Except (Nat × Word) (List (Nat × Nat))
  | [] => .ok []
  | (a, m) :: t =>
    let aw : Word := BitVec.ofNat 64 a
    match s.ctxHome tag aw w with
    | .error c => .error (c, aw)
    | .ok h =>
      if w == .read && s.badAt h m then .error (cUNCORR_ECC, aw)
      else match s.ctxHomes tag w t with
        | .ok hs => .ok ((h, m) :: hs)
        | .error x => .error x

/-- Bytes read through a partition's context. -/
def State.ctxRead (s : State) (tag : Nat) (a : Word) (n : Nat) : Except (Nat × Word) (List Byte) :=
  match s.ctxHomes tag .read (pieces a.toNat n (n / 4096 + 2)) with
  | .ok hs => .ok (hs.flatMap fun h => s.bytesAt h.1 h.2)
  | .error x => .error x

/-- The page tables have been read for a range by the lead island (10: R190). -/
def State.ctxWalks (s : State) (tag : Nat) (a : Word) (n : Nat) : State :=
  let x := s.part tag
  (pieces a.toNat n (n / 4096 + 2)).foldl (fun s y => s.countRoot x.lead x.root (y.1 % 2 ^ 48)) s

/-- Such a read has been made by the lead island (10: R190). -/
def State.countCtx (s : State) (tag : Nat) (a : Word) (n : Nat) : State :=
  match s.ctxHomes tag .read (pieces a.toNat n (n / 4096 + 2)) with
  | .ok hs => (s.ctxWalks tag a n).countHomes (s.part tag).lead hs
  | .error _ => s

/-- Bytes laid at homes in turn. -/
def State.lay (s : State) : List (Nat × Nat) → List Byte → State
  | [], _ => s
  | (h, m) :: t, bs =>
    (if awayHome h then s.storeAway h (takeN m bs) else (s.clean h m).writeMem h (takeN m bs)).lay t (dropN m bs)

/-- Bytes written through a partition's context. -/
def State.ctxWrite (s : State) (tag : Nat) (a : Word) (bs : List Byte) : Except (Nat × Word) State :=
  match s.ctxHomes tag .write (pieces a.toNat bs.length (bs.length / 4096 + 2)) with
  | .ok hs => .ok ((s.ctxWalks tag a bs.length).lay hs bs)
  | .error x => .error x

/-- A ring record written; where the context maps nothing, none is (log 35). -/
def State.ringWrite (s : State) (tag : Nat) (a : Word) (bs : List Byte) : State :=
  match s.ctxWrite tag a bs with
  | .ok t => t
  | .error _ => s

/-! ### MSI-X (18: R380) -/

def State.hostPort (s : State) (port : Nat) : HostPort := Tab.get {} s.hostPorts port
def State.setHostPort (s : State) (port : Nat) (h : HostPort) : State := { s with hostPorts := Tab.put s.hostPorts port h }

/-- A byte of BAR 2; the mask bits are set until they are written (log 36). -/
def HostPort.bar2Byte (h : HostPort) (a : Nat) : Byte := Tab.get (if a % 16 = 12 && a < 32768 then 1 else 0) h.bar2 a

def HostPort.masked (h : HostPort) (v : Nat) : Bool := bit (h.bar2Byte (16 * v + 12)) 0

/-- A message on a vector while it is unmasked, for a word that has changed since the last one: whether it went. -/
def State.interrupt (s : State) (vec : Option (Nat × Nat)) (word sent : Nat) : Bool × State :=
  match vec with
  | none => (false, s)
  | some (port, v) =>
    let h := s.hostPort port
    if word = sent || h.masked v then (false, s)
    else (true, s.setHostPort port { h with sent := h.sent ++ [v] })

/-! ### Events (18: R375) -/

/-- The VC0 channel of an event to the island OS (log 22). -/
def chEvent : Nat := 3

/-- A message that the device puts into an island's VC0 input. -/
def State.tellIsland (s : State) (r ch : Nat) (ws : List Word) : State :=
  let g := s.region r
  let m : Msg := { at_ := islandPos r, vc := 0, w0 := header0 (islandPos r) 0 0 ch (8 * ws.length) 0,
                   w1 := header1 (islandPos r) 0 0 0xFF, body := bytesOf ws }
  s.setRegion r { g with inq := Tab.put g.inq 0 (Tab.get [] g.inq 0 ++ [m]) }

/-- The partition's event vector (18: R380). -/
def State.eventVector (s : State) (tag : Nat) : State :=
  let x := s.part tag
  let r := s.interrupt x.vector x.epos x.sent
  if r.1 then r.2.setPart tag { x with sent := x.epos } else r.2

/-- An event of a partition: to its ring while it has room, and to its island OS (18: R375). -/
def State.postEvent (s : State) (tag kind : Nat) (w1 w2 w3 : Word) : State :=
  let x := s.part tag
  let q := (x.eseq + 1) % 2 ^ 32
  let ws := [fields [(0, q), (32, kind), (36, tag)], w1, w2, w3]
  let s := s.setPart tag { x with eseq := q }
  let s := if (q + 2 ^ 32 - x.ehead) % 2 ^ 32 < 2 ^ x.ringLog then
      let s := s.ringWrite tag (x.ringBase + BitVec.ofNat 64 (32 * (q % 2 ^ x.ringLog))) (bytesOf ws)
      (s.setPart tag { s.part tag with epos := q }).eventVector tag
    else s
  s.tellIsland x.lead chEvent ws

end Sys2Proof.Machine
end

