-- ==== Sys2Proof/Machine/Fabric.lean ====
section
/-! DEFINITION. The fabric endpoints and the Phoba Link ports (15: R329, R330; 18: R382, R383). -/

namespace Sys2Proof.Machine

/-- Region whose island runs a link port: three to a region on the north and south edges, four on the others
(log 32). -/
def portRegion (port : Nat) : Nat :=
  let j := port % 24
  match port / 24 with
  | 0 => j / 3
  | 1 => 8 * (j / 4) + 7
  | 2 => 40 + j / 3
  | _ => 8 * (j / 4)

/-! ### Release flags (15: R330) -/

/-- Where a flag's number stands to H: above it, within the window and how far below, or older. -/
inductive FlagPlace where
  | above
  | window
  | older
  deriving DecidableEq, Repr

def flagPlace (high q : Nat) : FlagPlace :=
  let d := (q + 2 ^ 32 - high) % 2 ^ 32
  if 1 ≤ d && d < 2 ^ 31 then .above
  else if (high + 2 ^ 32 - q) % 2 ^ 32 ≤ 65535 then .window
  else .older

/-! ### What an endpoint receives (18: R383) -/

/-- The flits of the first VC2 message of a port leave it: its first flit, if it came as flits. -/
def State.takeFlits (s : State) (port : Nat) : Option (BitVec 512) × State :=
  let l : Link := Tab.get {} s.links port
  let mine := l.flits.filter fun f => f.1 = 2
  match mine with
  | [] => (none, s)
  | f :: _ =>
    let rest := (l.flits.filter fun f => f.1 ≠ 2) ++ dropN ((32 + bits f.2 24 16 + 63) / 64) mine
    (some f.2, { s with links := Tab.put s.links port { l with flits := rest } })

/-- An incoming request as the island passes it on; its reply names the requester and slot of its first flit. -/
def arrived (port kind addr : Nat) (data : List Byte) (flit : Option (BitVec 512)) : Msg :=
  let at_ := islandPos (portRegion port)
  let n := data.length
  let store := kind = 1 || kind = 7
  let w (i : Nat) : Word := BitVec.ofNat 64 (bits (flit.getD 0) (64 * i) 64)
  { at_ := at_, vc := 2, w0 := header0 at_ 0 2 kind (if store then n else 0) 0, w1 := header1 at_ 0 0 0xFF,
    w2 := BitVec.ofNat 64 (addr % 2 ^ 41), w3 := fields [(0, bits (w 3) 0 4), (8, sizeCode n)],
    body := if store then data else [], port := some port, origin := w 1 }

/-- The check of an incoming request of `n` bytes by its source wafer and partition; where it fails, the state after the
drop or the ERROR reply (18: R383). -/
def State.turnedAway (s : State) (m : Msg) (wafer srcTag n : Nat) : Option State :=
  let a := m.w2.toNat
  match s.fabric.pairings.find? fun p => p.1 = wafer && p.2.1 = srcTag with
  | none => some (s.tellIsland (regionOf m.at_) 0 [fields [(0, cPROTECT_DROP), (7, posX m.at_), (14, posY m.at_)], m.w0, m.w1, 0])
  | some (_, _, tag) =>
    if !(s.fabric.grants.any fun g => g.1 = tag && decide (g.2.1 ≤ a) && decide (a + n ≤ g.2.1 + g.2.2)) then
      some (s.answer m m.at_ 0xFF 2 cPROTECT_DROP m.w2 [])
    else if (3 ≤ m.kind && m.kind ≤ 5) || m.kind = 8 || 10 ≤ m.kind || n = 0 || 0x18000000000 < a + n then
      some (s.answer m m.at_ 0xFF 2 cBAD_ADDRESS m.w2 [])
    else none

/-- A flag that comes again while the first still stands before its bridge is answered by the port it came by last; none
where none stands there. -/
def State.rejoin (s : State) (m : Msg) : Option State :=
  let q := m.w2.toNat / 4096 % 16
  let same (e : Msg) : Bool := e.port.isSome && e.origin = m.origin && e.w2 = m.w2 && e.w3 = m.w3 && e.kind = 7
  let b := Tab.get [] s.bridges q
  if b.any same then
    some { s with bridges := Tab.put s.bridges q (b.map fun e => if same e then { e with port := m.port } else e) }
  else none

/-- FABRIC_FLAG_ARRIVE: a release flag of a source wafer is checked as any request, then by its number; it is performed at
its bridge, and the reply acknowledges it (15: R330; 18: R383). -/
def execFabricFlagArrive (source : FlagSource) (seq addr : Nat) (data : List (BitVec 8)) (s : State) : Out :=
  .next (
    let wafer := source.wafer
    let t := s.takeFlits source.port
    let s := t.2
    let m := arrived source.port 7 addr data t.1
    let f := s.fabric
    let q := seq % 2 ^ 32
    let high := Tab.get 0 f.high wafer
    let done := Tab.get [] f.done wafer
    let go (f : Fabric) : State := ({ s with fabric := f }.forwardTo (portRegion source.port) m (addr % 2 ^ 41)).getD s
    match s.turnedAway m wafer source.tag data.length with
    | some u => u
    | none => match flagPlace high q with
      | .above =>
        let keep := done.filter fun n => decide ((q + 2 ^ 32 - n) % 2 ^ 32 ≤ 65535)
        go { f with high := Tab.put f.high wafer q, done := Tab.put f.done wafer (q :: keep) }
      | .window =>
        if done.contains q then match s.rejoin m with
          | some u => u
          | none => { s with fabric := { f with acks := f.acks ++ [(wafer, q)] } }.answer m m.at_ 0xFF 1 0 0 []
        else go { f with done := Tab.put f.done wafer (q :: done) }
      | .older => { s with fabric := { f with errors := f.errors + 1 } })

/-- FABRIC_RESEND (15: R329): request number i that lost its path goes by another port, with the same number. -/
def execFabricResend (i : Nat) (s : State) : Out :=
  .next (
    let f := s.fabric
    let r := nth {} f.out i
    if f.out.length ≤ i || !r.lost then s
    else match s.freeLink (some r.port) r.wafer r.msg with
      | none => s
      | some port =>
        let s := { s with fabric := { f with out := setNth f.out i { r with port := port, lost := false } } }
        s.sendLink port r.msg)

/-! ### Links (18: R382) -/

/-- Frames that a received ACK covers leave the list. -/
def Link.acked (l : Link) (ack : Nat) : Link :=
  { l with unacked := l.unacked.filter fun f => !decide ((ack + 4096 - f.lseq) % 4096 < 2048) }

/-- The first whole reply among the flits of VC3, and the flits without it. -/
def Link.reply (l : Link) : Option (Msg × Link) :=
  let mine := l.flits.filter fun f => f.1 = 3
  match mine with
  | [] => none
  | f :: _ =>
    let w (i : Nat) : Word := BitVec.ofNat 64 (bits f.2 (64 * i) 64)
    let len := bits (w 0) 24 16
    let n := (32 + len + 63) / 64
    if mine.length < n then none
    else
      let bs := (takeN n mine).flatMap fun f => toBytes 64 f.2.toNat
      some ({ vc := 3, w0 := w 0, w1 := w 1, w2 := w 2, w3 := w 3, body := takeN len (dropN 32 bs) },
        { l with flits := (l.flits.filter fun f => f.1 ≠ 3) ++ dropN n mine })

/-- A reply from the fabric reaches the requester, if the request is still out (15: R329); an ERROR leaves the access
unperformed (15: R312). -/
def State.fabricReply (s : State) (m : Msg) : State :=
  let f := s.fabric
  let d := destPos m.w0
  match f.out.findIdx? fun r => srcPos r.msg.w1 = d && srcCore r.msg.w1 = bits m.w0 14 2 &&
      bits r.msg.w3 0 4 = bits m.w2 0 4 with
  | none => s
  | some i =>
    let r := nth {} f.out i
    let s := { s with fabric := { f with out := dropNth f.out i } }
    let s := if m.kind = 2 then s else s.perform r.msg
    s.send { m with at_ := islandPos (regionOf d), w1 := header1 (islandPos (regionOf d)) 0 0 0xFF }

/-- LINK_FRAME_RECEIVE (18: R382): a frame whose CRC fails is discarded; its ACK counts, and lets waiting replies leave;
a flit is taken only in order, and only on VC2 and VC3; a frame that carries a flit is answered by a frame, a control-only
one where no other leaves (log 137). -/
def execLinkFrameReceive (link lseq ack : Nat) (crc : Bool) (flit : Option (BitVec 3 × BitVec 512)) (s : State) : Out :=
  .next (
    let l : Link := Tab.get {} s.links link
    if !l.up || !crc then s
    else
      let l := l.acked (ack % 4096)
      let sent := l.wire.length
      let l := match flit with
        | some (vc, x) =>
          if lseq % 4096 = (l.rx + 1) % 4096 then
            { l with rx := lseq % 4096, flits := if vc = 2 || vc = 3 then l.flits ++ [(vc.toNat, x)] else l.flits }
          else l
        | none => l
      let s := match l.reply with
        | some (m, l) => { s with links := Tab.put s.links link l }.fabricReply m
        | none => { s with links := Tab.put s.links link l }
      let s := s.sendReplies link s.fabric.replies.length
      let l : Link := Tab.get {} s.links link
      if flit.isSome && l.wire.length = sent then { s with links := Tab.put s.links link l.control } else s)

/-- LINK_REPLAY (18: R382): every unacknowledged frame goes again, the oldest first; the sixteenth time without an answer
the port leaves service, and what it carried has lost its path. -/
def execLinkReplay (link : Nat) (s : State) : Out :=
  .next (
    let l : Link := Tab.get {} s.links link
    if !l.up then s
    else if l.unacked.any fun f => decide (16 ≤ f.replays) then
      { s with links := Tab.put s.links link { l with up := false, unacked := [], flits := [] },
               fabric := { s.fabric with
                 out := s.fabric.out.map fun r => if r.port = link then { r with lost := true } else r
                 replies := s.fabric.replies.filter fun e => e.1 ≠ link } }
    else
      let l := l.unacked.foldl Link.emit l
      { s with links := Tab.put s.links link { l with unacked := l.unacked.map fun f => { f with replays := f.replays + 1 } } })

/-- FABRIC_REQUEST_RECEIVE (18: R383). A request is known by its source wafer and source partition, kind, address and
bytes; for a load, the list has as many bytes as are asked for (log 11). -/
def execFabricRequestReceive (port wafer srcTag kind addr : Nat) (data : List (BitVec 8)) (s : State) : Out :=
  .next (
    let t := s.takeFlits port
    let s := t.2
    let m := arrived port kind addr data t.1
    match s.turnedAway m wafer srcTag data.length with
    | some u => u
    | none => (s.forwardTo (portRegion port) m (addr % 2 ^ 41)).getD s)

end Sys2Proof.Machine
end

