-- ==== Sys2Proof/Machine/PowerCtl.lean ====
section
/-! DEFINITION. Power, heat and rails (08: R160-R167). -/

namespace Sys2Proof.Machine

/-- LDO output of an operating point in mV (08: R160). -/
def ldo (point : Nat) : Nat :=
  match point with
  | 0 => 550
  | 1 => 575
  | 2 => 610
  | 3 => 650
  | _ => 800

/-- Positions of a region (00: R1). -/
def regionPositions (r : Nat) : List Nat :=
  (span 0 256).map fun i => posOf (16 * (r % 8) + i % 16) (16 * (r / 8) + i / 16)

/-- Clusters of a region. -/
def regionClusters (r : Nat) : List Nat := (regionPositions r).filter fun p => !isIsland p

def State.rail (s : State) (k : Nat) : Rail := Tab.get {} s.rails k
def State.setRail (s : State) (k : Nat) (x : Rail) : State := { s with rails := Tab.put s.rails k x }

/-! ### The chest (08: R162, R163, R168) -/

/-- Energy of an interval in µJ for a power in mW: 2^14 router cycles of 1.5 GHz (08: R162); what is left below 1 µJ is
dropped (log 117). -/
def intervalEnergy (mw : Nat) : Nat := mw * 16384 / 1500000

/-- The bucket after an evaluation, in µJ (08: R162). -/
def chestAfter (e mw : Nat) : Nat :=
  if mw < 750000 then min 90000000 (e + intervalEnergy (750000 - mw)) else e - intervalEnergy (mw - 750000)

/-- BOOST after an evaluation (08: R163). -/
def boostAfter (boost : Bool) (e : Nat) : Bool := if boost then decide (e ≠ 0) else decide (9000000 ≤ e)

/-- A set condition of HOLD (08: R163). -/
def holdCondition (e mw degrees : Nat) : Bool :=
  decide (900000 < mw) || (e = 0 && decide (750000 < mw)) || decide (95 ≤ degrees)

/-- HOLD after an evaluation (08: R163). -/
def holdAfter (hold : Bool) (e mw degrees : Nat) : Bool :=
  holdCondition e mw degrees || (hold && !(decide (mw ≤ 850000) && decide (degrees ≤ 90)))

/-- The copy for QPWR, but for OPP, which stands apart for each core (08: R168). -/
def powerWord (g : Region) (rail : Nat) : Word :=
  fields [(0, min (g.milliwatts / 1000) 2047), (15, g.chest / 250000), (24, b2n g.boost), (25, b2n g.hold),
    (29, rail % 2048), (40, min g.degrees 255), (48, g.evaluation % 65536)]

/-- POWER_EVALUATION (08: R162-R164): `milliwatts` is the power measured, `degrees` the hottest sensor (log 11).
The first evaluation has number 1 (DEDUCED; unsafe; log 147). -/
def execPowerEvaluation (region milliwatts degrees : Nat) (s : State) : Out :=
  .next (
    let g := s.region region
    let e := chestAfter g.chest milliwatts
    let g' : Region := { g with
      chest := e, boost := boostAfter g.boost e, hold := holdAfter g.hold e milliwatts degrees,
      milliwatts := milliwatts, degrees := degrees, evaluation := (g.evaluation + 1) % 65536 }
    let s := s.setRegion region g'
    let w := powerWord g' (s.rail (region / 2)).mv
    (regionClusters region).foldl (fun s p =>
      let s := s.setCluster p { s.cluster p with qpwr := w, qopp := (span (4 * p) 4).map fun k => (s.core k).opp }
      if g'.boost = g.boost then s else s.bayScan p) s)

/-! ### Operating points (08: R160, R165) -/

/-- Voltage that an operating point needs at the rail. -/
def voteOf (point : Nat) : Nat := (ldo point + 250 + 4) / 5 * 5

/-- The queue is torn down, or drains for it (02: R45, R46). -/
def Queue.torn (x : Queue) : Bool := x.st = 4 || (x.st = 3 && x.cmd = 1)

/-- The tag of the partition that exits from a region, its vote withdrawn or not: a queue of it is torn down and none is
left that would go on, or all have been closed since; or it has gone with its vote still standing (02: R45, R46;
08: R166; log 118). -/
def State.leaver (s : State) (r : Nat) : Option Nat :=
  let g := s.region r
  let qs := (s.queues.map Prod.snd).filter fun x => x.tag = g.tag && x.st ≠ 0
  if g.tag = 0 then (if g.exit.isNone && decide (850 < g.vote) then some 0 else g.exit)
  else if qs.isEmpty then g.exit.filter (· = g.tag)
  else if qs.all Queue.torn then some g.tag else none

/-- A partition exits from the region (08: R166). -/
def State.exits (s : State) (r : Nat) : Bool := (s.leaver r).isSome


/-- A region's vote (08: R165): of the points its cores have or are changing to; once withdrawn, 850. What a partition
that has gone voted stands until it is withdrawn (08: R166). -/
def State.voteNow (s : State) (r : Nat) : Nat :=
  let g := s.region r
  if g.withdrawn then 850
  else if g.tag = 0 then max 850 g.vote
  else ((regionClusters r).filter fun p => !s.isRetired p).foldl (fun v p =>
    (span (4 * p) 4).foldl (fun v k =>
      let c := s.core k
      max v (max (voteOf c.opp) (voteOf (c.oppNew.getD c.opp)))) v) 0

/-- The region votes anew, for as long as its partition exits under a withdrawal; a vote that rises ends a slew of its
rail at once (08: R165, R166). -/
def State.revote (s : State) (r : Nat) : State :=
  let s := s.setRegion r { s.region r with withdrawn := (s.region r).withdrawn && s.exits r, exit := s.leaver r }
  let v := s.voteNow r
  let t := s.setRegion r { s.region r with vote := v }
  if (s.region r).vote < v && (s.rail (r / 2)).slewing then t.setRail (r / 2) { s.rail (r / 2) with slewing := false } else t

/-- The point that the controller applies: the highest one at or below the partition's target. The region votes for it
first, and the rail meets its votes, so that none at or below the target is one that the rail does not come to allow
(08: R160, R165; log 116). -/
def State.pointFor (s : State) (r : Nat) : Nat := min 4 (s.partOf r).target

/-- OPERATING_POINT_CHANGE: on an idle core, to the point that its partition's target gives (08: R160). -/
def execOperatingPointChange (k point : Nat) (s : State) : Out :=
  .next (
    let c := s.core k
    let r := regionOf (corePos k)
    if c.ch.isSome || c.oppNew.isSome || point ≠ s.pointFor r then s
    else (s.setCore k { c with oppNew := some point }).revote r)

/-- OPERATING_POINT_DONE: once the rail stands at the vote of the new point (08: R160, R165). -/
def execOperatingPointDone (k : Nat) (s : State) : Out :=
  .next (
    let c := s.core k
    let r := regionOf (corePos k)
    match c.oppNew with
    | none => s
    | some p => if (s.rail (r / 2)).mv < voteOf p then s else (s.setCore k { c with opp := p, oppNew := none }).revote r)

/-! ### Rails (08: R165, R166) -/

/-- RAIL_EVALUATION: the two regions' votes as they stand; the rail meets a higher vote; it slews down 50 mV in 10 µs, from
the evaluation after the withdrawal and the acknowledgement (08: R166). A vote that falls with no partition's exit needs
no acknowledgement (log 118). -/
def execRailEvaluation (rail : Nat) (s : State) : Out :=
  .next (
    let s := (s.revote (2 * rail)).revote (2 * rail + 1)
    let x := s.rail rail
    let v := max (s.region (2 * rail)).vote (s.region (2 * rail + 1)).vote
    s.setRail rail (
      if x.mv ≤ v then { x with mv := v, slewing := false }
      else if x.asked && !x.acked then { x with slewing := false }
      else if x.slewing then
        let mv := max v (x.mv - 50)
        if mv = v then { mv := mv, slewing := false, asked := false, acked := false } else { x with mv := mv }
      else { x with slewing := true }))

/-- VOTE_WITHDRAW: a partition exits from the region, no activation runs in the region any more, and the vote is not
withdrawn yet (08: R166). -/
def execVoteWithdraw (region : Nat) (s : State) : Out :=
  .next (
    if (s.region region).withdrawn || !s.exits region || (regionClusters region).any fun p => (span (4 * p) 4).any fun k => (s.core k).ch.isSome then s
    else
      let s := s.setRegion region { s.region region with vote := 850, withdrawn := true, exit := s.leaver region }
      let k := region / 2
      s.setRail k { s.rail k with asked := true, acked := false })

def execLdoAcknowledge (rail : Nat) (s : State) : Out :=
  .next (
    let x := s.rail rail
    if x.asked then s.setRail rail { x with acked := true } else s)

/-! ### Edge-memory heat (08: R167) -/

/-- A change of a stack posts an event to every partition with a share of it (08: R167; 18: R375), its
share cut to whole GB/s (DESIGN CHOICE; unsafe; log 131). -/
def State.stackEvent (s : State) (stack : Nat) : State :=
  let x : Stack := Tab.get {} s.edgeStacks stack
  (Tab.keys s.parts).foldl (fun s tag =>
    let share := Tab.get 0 (s.part tag).shares stack
    if share = 0 then s
    else s.postEvent tag 2 (fields [(0, stack), (4, b2n x.throttled)]) (BitVec.ofNat 64 (share * x.deliverable / 3000)) 0) s

/-- STACK_THROTTLE: what a throttled stack delivers is a free value (log 34). -/
def execStackThrottle (stack degrees : Nat) (s : State) : Out :=
  .next (
    let x : Stack := Tab.get {} s.edgeStacks stack
    if degrees < 85 || x.throttled then s
    else
      let f := s.fresh 32
      { f.2 with edgeStacks := Tab.put f.2.edgeStacks stack { x with throttled := true, deliverable := f.1.toNat % 3001 } }.stackEvent stack)

def execStackRestore (stack degrees : Nat) (s : State) : Out :=
  .next (
    let x : Stack := Tab.get {} s.edgeStacks stack
    if 80 < degrees || !x.throttled then s
    else { s with edgeStacks := Tab.put s.edgeStacks stack { trained := x.trained } }.stackEvent stack)

end Sys2Proof.Machine
end

