-- ==== Sys2Proof/Machine/Headbox.lean ====
section
/-! DEFINITION. Headbox ports and distributor patterns (12: R250-R253). Port `2·row + edge`, edge 0 west, 1 east. -/

namespace Sys2Proof.Machine

def State.hbPort (s : State) (port : Nat) : HbPort := Tab.get {} s.hbPorts port
def State.setHbPort (s : State) (port : Nat) (x : HbPort) : State := { s with hbPorts := Tab.put s.hbPorts port x }

/-- The region whose island runs a port (12: R250). -/
def hbRegion (port : Nat) : Nat := 8 * (port / 2 / 16) + 7 * (port % 2)
/-- The router at a port. -/
def hbRouter (port : Nat) : Nat := posOf (127 * (port % 2)) (port / 2)
/-- Home of the burst ring of a port (12: R250). -/
def hbRing (port : Nat) : Nat := sramHome (hbRegion port) + 0xEF0000 + 1024 * (port / 2 % 16)

/-- The VC0 channel of a burst's failure (log 22). -/
def chBurst : Nat := 4

/-- A burst finishes, or fails with a cause: HEAD rises (12: R250). -/
def State.finishBurst (s : State) (port : Nat) (cause : Option Nat) : State :=
  let a := hbRing port + 0x208
  let head := (s.readMem a 4 + 1) % 2 ^ 32
  let s := (s.writeMem a (toBytes 4 head)).setHbPort port { s.hbPort port with burst := none }
  match cause with
  | some c => (s.writeMem (a + 4) (toBytes 1 c)).tellIsland (hbRegion port) chBurst [BitVec.ofNat 64 c, BitVec.ofNat 64 port]
  | none => s

/-- A port that may act: granted to a partition that is not pre-empted (12: R250; 16: R341). -/
def State.hbActive (s : State) (port : Nat) : Option Nat :=
  match (s.hbPort port).grant with
  | some tag => if s.ctxState tag = 0 then some tag else none
  | none => none

/-- BURST_START: descriptor HEAD mod 16 while HEAD ≠ TAIL (12: R250, R251). One with an uncorrectable error fails; while HEAD
or TAIL has one, no burst starts (10: R190; log 104). -/
def execBurstStart (port : Nat) (s : State) : Out :=
  .next (
    let ring := hbRing port
    let head := s.readMem (ring + 0x208) 4
    if (s.hbActive port).isNone || (s.hbPort port).burst.isSome || s.badAt (ring + 0x200) 12 || head = s.readMem (ring + 0x200) 4 then s
    else if s.badAt (ring + 32 * (head % 16)) 32 then s.finishBurst port (some cUNCORR_ECC)
    else
      let s := ([(0x200, 4), (0x208, 4), (32 * (head % 16), 32)] : List (Nat × Nat)).foldl (fun s x =>
        s.countEcc (hbRegion port) (ring + x.1) x.2) s
      let d := wordsOf (Mem.readBytes s.mem (ring + 32 * (head % 16)) 32) 4
      let w0 := nth 0 d 0
      let w1 := nth 0 d 1
      let w2 := nth 0 d 2
      let blk := bits w1 32 16
      if bits w0 48 16 ≠ 0 || bits w1 48 16 ≠ 0 || bits w2 7 57 ≠ 0 || nth 0 d 3 ≠ 0#64 || blk % 64 ≠ 0 ||
          blk < 64 || 65472 < blk then s.finishBurst port (some cBAD_RECORD)
      else if bits w1 0 32 = 0 then s.finishBurst port none
      else s.setHbPort port { s.hbPort port with
        burst := some { src := w0, len := bits w1 0 32, blk := blk, far := bits w2 0 7, next := 0 } })

/-- HEADBOX_BLOCK_SEND: the next block as one VC4 message, read at SRC, a translated address (12: R251). -/
def execHeadboxBlockSend (port : Nat) (s : State) : Out :=
  .next (match s.hbActive port, (s.hbPort port).burst with
    | some tag, some b =>
      let off := b.next * b.blk
      let n := min b.blk (b.len - off)
      match s.ctxRead tag (BitVec.ofNat 64 (2 ^ 48 + (b.src.toNat + off) % 2 ^ 48)) n with
      | .error (c, _) => s.finishBurst port (some c)
      | .ok bs =>
        let s := s.countCtx tag (BitVec.ofNat 64 (2 ^ 48 + (b.src.toNat + off) % 2 ^ 48)) n
        let p := hbRouter port
        let w1 := header1 p 0 b.next tag ||| fields [(40, b.next / 65536 % 65536)]
        let s := s.send { at_ := p, vc := 4, w0 := header0 (posOf b.far (posY p)) 0 4 0 n 0, w1 := w1, body := bs }
        if b.len ≤ off + n then s.finishBurst port none
        else s.setHbPort port { s.hbPort port with burst := some { b with next := b.next + 1 } }
    | _, _ => s)

/-- Fields of a pattern (12: R253). -/
def patDoff (w : Word) : Nat := bits w 12 20
def patSlots (w : Word) : Nat := bits w 48 16 + 1
def patStride (w : Word) : Nat := 64 * bits w 32 16

/-- HEADBOX_BLOCK_TAKE: the pattern takes block number i of the mesh as it passes, by the local port, as an engine write
(12: R252; 17: R372). -/
def execHeadboxBlockTake (pos i : Nat) (s : State) : Out :=
  .next (
    let m := nth {} s.net i
    if s.net.length ≤ i || m.at_ ≠ pos || m.vc ≠ 4 || m.dir = 5 || m.ran || s.behind i m then s
    else match s.pattern pos m with
      | none => s
      | some w =>
        let s := { s with net := setNth s.net i { m with ran := true } }.countSent pos 4 4 m.flits
        let b := bits m.w1 16 16 + 65536 * bits m.w1 40 16
        if patStride w < m.body.length then s.report pos (regionOf pos) cBAD_DEPOSIT 1 0 m.w0 m.w1
        else
          let off := patDoff w + b / (bits w 1 4 + 1) % patSlots w * patStride w
          s.engineWrite ((if bit w 11 then spadHome pos else tcmHome (4 * pos + bits w 9 2)) + off) m.body)

/-- HBSET (12: R253): the checks of an enabling value in order, then the register and its old value. -/
def execHbset (rb ra rd : Reg) (s : State) : Out :=
  .next (s.onTile fun k => s.sources false .a [ra.toNat, rb.toNat] fun s => s.destination rd.toNat fun s =>
    let p := corePos k
    let c := s.cluster p
    let edge := bits (s.reg ra.toNat) 0 1
    let w := s.reg rb.toNat
    let space := if bit w 11 then 2 ^ 20 else 2 ^ 16
    if bit w 0 && !bit c.hbGrant edge then s.trap { code := cHEADBOX_DENIED }
    else if bit w 0 && (decide (bits w 1 4 < bits w 5 4) || bits w 32 16 = 0) then s.illegal
    else if bit w 0 && patDoff w % 64 ≠ 0 then s.trap { code := cMISALIGNED }
    else if bit w 0 && (decide (space < patDoff w + patSlots w * patStride w) || (!bit w 11 && decide (patDoff w < 0x800))) then
      s.trap { code := cBAD_ADDRESS }
    else (s.setCluster p { c with hb := Tab.put c.hb edge w }).finish 4 rd.toNat (Tab.get 0 c.hb edge) 0)

end Sys2Proof.Machine
end

