-- ==== Sys2Proof/Machine/Mould.lean ====
section
/-! DEFINITION. Moulds (01: R23-R28): reading them, the checks of R27, the route verifier (03: R60, R61), and writing the
state of the placed cores (R25; 04: R70, R77, R78; 05: R89, R98-R100; 07: R131, R139; 12: R234, R237, R253). -/

namespace Sys2Proof.Machine

/-! ### CRC-32C (01: R23; log 14) -/

/-- One bit of the reflected Castagnoli division. -/
def crcBit (c : Nat) : Nat := if c % 2 = 1 then (c / 2) ^^^ 0x82F63B78 else c / 2
def crcByte (c : Nat) (b : Byte) : Nat := (span 0 8).foldl (fun c _ => crcBit c) (c ^^^ b.toNat)
def crc32c (bs : List Byte) : Nat := (bs.foldl crcByte 0xFFFFFFFF) ^^^ 0xFFFFFFFF

/-! ### Reading a mould -/

abbrev Mould := List Byte

/-- `n` bytes at an offset, as a number. -/
def Mould.at_ (b : Mould) (off n : Nat) : Nat := ofBytes (takeN n (dropN off b))
def Mould.word (b : Mould) (off : Nat) : Word := BitVec.ofNat 64 (b.at_ off 8)
def Mould.nsect (b : Mould) : Nat := b.at_ 0x0C 2
def Mould.ntask (b : Mould) : Nat := b.at_ 0x20 4
def Mould.nplace (b : Mould) : Nat := b.at_ 0x24 4
def Mould.pair (b : Mould) : Nat := b.at_ 0x28 1
def Mould.regions (b : Mould) : Nat := b.at_ 0x18 8

/-- The section table: type, size, offset. -/
def Mould.sections (b : Mould) : List (Nat × Nat × Nat) :=
  (span 0 b.nsect).map fun i => (b.at_ (64 + 16 * i) 1, b.at_ (64 + 16 * i + 4) 4, b.at_ (64 + 16 * i + 8) 8)

/-- Size and offset of the section of a type. -/
def Mould.section_ (b : Mould) (ty : Nat) : Option (Nat × Nat) := (b.sections.find? fun s => s.1 = ty).map Prod.snd

/-- Offsets of the records of `n` bytes in the section of a type. -/
def Mould.records (b : Mould) (ty n : Nat) : List Nat :=
  match b.section_ ty with
  | some (size, off) => (span 0 (size / n)).map fun i => off + n * i
  | none => []

/-- Offsets of the DATA records; `fuel` bounds their number. -/
def Mould.dataFrom (b : Mould) (off end_ : Nat) : Nat → List Nat
  | 0 => []
  | f + 1 => if end_ ≤ off then [] else off :: b.dataFrom (off + 16 + (b.at_ off 4 + 7) / 8 * 8) end_ f

def Mould.data (b : Mould) : List Nat :=
  match b.section_ 8 with
  | some (size, off) => b.dataFrom off (off + size) (size / 16 + 1)
  | none => []

def Mould.tasks (b : Mould) : List Nat := b.records 2 48
def Mould.handlers (b : Mould) : List Nat := b.records 3 8
def Mould.places (b : Mould) : List Nat := b.records 4 8

/-- A TASK record: entry offset, NBUF, descriptor i. -/
def Mould.task (b : Mould) (t : Nat) : Nat := nth 0 b.tasks t
def Mould.entryOff (b : Mould) (t : Nat) : Nat := b.at_ (b.task t) 4
def Mould.nbuf (b : Mould) (t : Nat) : Nat := bits (b.word (b.task t)) 32 3
def Mould.desc (b : Mould) (t i : Nat) : Word := b.word (b.task t + 8 + 8 * i)

/-- A PLACE record: task, position, core, seed channel. -/
def Mould.placeTask (b : Mould) (o : Nat) : Nat := bits (b.word o) 0 16
def Mould.placeX (b : Mould) (o : Nat) : Nat := bits (b.word o) 16 7
def Mould.placeY (b : Mould) (o : Nat) : Nat := bits (b.word o) 23 7
def Mould.placePos (b : Mould) (o : Nat) : Nat := posOf (b.placeX o) (b.placeY o)
def Mould.placeCore (b : Mould) (o : Nat) : Nat := 4 * b.placePos o + bits (b.word o) 30 2
def Mould.seed (b : Mould) (o : Nat) : Option Nat := if bit (b.word o) 37 then some (bits (b.word o) 32 5) else none

/-- A HANDLER record. -/
def Mould.handTask (b : Mould) (o : Nat) : Nat := bits (b.word o) 0 16
def Mould.handCh (b : Mould) (o : Nat) : Nat := bits (b.word o) 16 5

/-- Each placed core with each handler record of each of its tasks, as PLACE and HANDLER offsets. -/
def Mould.bindings (b : Mould) : List (Nat × Nat) :=
  b.places.flatMap fun p => (b.handlers.filter fun h => b.handTask h = b.placeTask p).map fun h => (p, h)

/-- No number stands twice. -/
def noRepeat : List Nat → Bool
  | [] => true
  | a :: t => !t.contains a && noRepeat t

/-- The clusters that the mould places work on. -/
def Mould.clusters (b : Mould) : List Nat := dedup (b.places.map b.placePos)

/-! ### The checks of R27 -/

def Mould.check1 (b : Mould) (size : Nat) : Bool :=
  b.at_ 0 8 = 0x444C554F4D57564F && b.at_ 8 2 = 1 && b.at_ 0x0A 2 = 64 && b.at_ 0x10 8 = size

def Mould.check2 (b : Mould) : Bool := b.at_ 0x30 4 = crc32c (dropN 64 b)

/-- Record size of a section type; 1 where the size is tested apart. -/
def recordSize (ty : Nat) : Nat :=
  match ty with
  | 2 => 48
  | 3 | 4 | 7 | 10 => 8
  | 6 => 72
  | 9 => 16
  | _ => 1

/-- DATA records fill their section exactly. -/
def Mould.dataFits (b : Mould) : Bool :=
  match b.section_ 8 with
  | none => true
  | some (size, off) =>
    let ends := b.data.map fun o => o + 16 + (b.at_ o 4 + 7) / 8 * 8
    size = 0 || (ends.getLastD 0 = off + size && b.data.all fun o => decide (o + 16 ≤ off + size))

/-- Reserved fields of header, sections and records are zero. -/
def Mould.reservedZero (b : Mould) : Bool :=
  b.at_ 0x0E 2 = 0 && b.regions / 2 ^ 48 = 0 && b.pair / 4 = 0 && b.at_ 0x29 7 = 0 && b.at_ 0x34 12 = 0 &&
  ((span 0 b.nsect).all fun i => b.at_ (64 + 16 * i + 1) 3 = 0) &&
  (match b.section_ 1 with
    | some (_, o) => bits (b.word o) 2 62 = 0
    | none => true) &&
  (b.tasks.all fun o => bits (b.word o) 35 29 = 0 && b.word (o + 40) = 0#64 &&
    (span 0 (min 4 (bits (b.word o) 32 3))).all fun i => bits (b.word (o + 8 + 8 * i)) 21 3 = 0) &&
  (b.handlers.all fun o => bits (b.word o) 25 39 = 0) &&
  (b.places.all fun o => bits (b.word o) 38 26 = 0) &&
  ((b.records 6 72).all fun o => bits (b.word o) 20 44 = 0) &&
  ((b.records 7 8).all fun o => bits (b.word o) 19 13 = 0) &&
  (b.data.all fun o => bits (b.word o) 34 14 = 0) &&
  ((b.records 9 16).all fun o => bits (b.word o) 24 40 = 0 && bits (b.word (o + 8)) 28 36 = 0) &&
  (b.records 10 8).all fun o => bits (b.word o) 26 38 = 0

def Mould.check3 (b : Mould) : Bool :=
  let total := b.at_ 0x10 8
  let types := b.sections.map Prod.fst
  decide (1 ≤ b.nsect) && decide (b.nsect ≤ 16) && decide (1 ≤ b.ntask) && decide (b.ntask ≤ 65535) &&
  decide (64 + 16 * b.nsect ≤ total) &&
  (b.sections.all fun s => decide (1 ≤ s.1) && decide (s.1 ≤ 10) && decide (s.2.2 + s.2.1 ≤ total) && s.2.2 % 8 = 0 &&
    s.2.1 % recordSize s.1 = 0 && (s.1 ≠ 5 || s.2.1 = 2048) && (s.1 ≠ 1 || decide (16 ≤ s.2.1))) &&
  noRepeat types && [1, 2, 3, 4].all types.contains &&
  (match b.section_ 1 with
    | some (_, o) => decide (2 ≤ bits (b.word o) 0 2)
    | none => false) &&
  b.dataFits && b.tasks.length = b.ntask && b.places.length = b.nplace && b.reservedZero

/-- Space and task of a DATA record. -/
def Mould.dataSpace (b : Mould) (o : Nat) : Nat := bits (b.word o) 32 2
def Mould.dataTask (b : Mould) (o : Nat) : Nat := bits (b.word o) 48 16

def Mould.check4 (b : Mould) : Bool :=
  let ok (t : Nat) : Bool := decide (t < b.ntask)
  (b.handlers.all fun o => ok (b.handTask o)) && (b.places.all fun o => ok (b.placeTask o)) &&
  ((b.records 6 72).all fun o => ok (bits (b.word o) 0 16)) && ((b.records 7 8).all fun o => ok (bits (b.word o) 0 16)) &&
  ((b.records 10 8).all fun o => ok (bits (b.word o) 0 16)) &&
  (b.data.all fun o => ok (b.dataTask o) || (b.dataSpace o = 3 && b.dataTask o = 0xFFFF)) &&
  (span 0 b.ntask).all fun t => decide (b.nbuf t ≤ 4)

/-- Regions of a partition, as numbers. -/
def maskRegions (m : Nat) : List Nat := (span 0 48).filter fun r => m / 2 ^ r % 2 = 1

def Mould.check5 (b : Mould) (part : Nat) : Bool :=
  (maskRegions b.regions).all (fun r => part / 2 ^ r % 2 = 1) &&
  b.places.all fun o => decide (b.placeY o < 96) && b.regions / 2 ^ regionOf (b.placePos o) % 2 = 1

def Mould.check6 (b : Mould) (s : State) : Bool :=
  b.places.all fun o => !isIsland (b.placePos o) && (s.health (b.placePos o) = 0 || s.health (b.placePos o) = 2)

def Mould.check7 (b : Mould) : Bool :=
  noRepeat (b.bindings.map fun e => 32 * b.placeCore e.1 + b.handCh e.2) &&
  noRepeat (b.places.map fun o => 65536 * b.placeCore o + b.placeTask o)

/-- A descriptor obeys R15 and R16. -/
def bufOk (d : Word) : Bool :=
  let space := if bufSpace d = 0 then 65536 else 1048576
  decide (1 ≤ bufThresh d) && decide (bufThresh d ≤ bufCap d) && bufCap d % 512 = 0 && decide (512 ≤ bufCap d) &&
  bufOff d % 512 = 0 && decide (bufOff d + bufCap d ≤ space) && (bufSpace d ≠ 0 || decide (0x800 ≤ bufOff d))

/-- A buffer of an entry of core `k`: its home range, first byte and the byte after the last. -/
structure BufRange where
  lo : Nat
  hi : Nat
  deriving DecidableEq, Repr

/-- The range of a descriptor on a core. -/
def bufRange (k : Nat) (d : Word) : BufRange := ⟨bufHome k d, bufHome k d + bufCap d⟩

/-- Two ranges share a byte. -/
def BufRange.meets (a c : BufRange) : Bool := decide (a.lo < c.hi) && decide (c.lo < a.hi)

/-- No two ranges share a byte. -/
def apart : List BufRange → Bool
  | [] => true
  | a :: t => !t.any a.meets && apart t

/-- The core is the second of a pair (01: R26). -/
def Mould.second (b : Mould) (k : Nat) : Bool :=
  (k % 4 = 1 && b.pair % 2 = 1) || (k % 4 = 3 && b.pair / 2 % 2 = 1)

/-- Cores on which a placement on core `k` stands: a pair's second core beside the first (01: R26). -/
def Mould.onCores (b : Mould) (k : Nat) : List Nat := if b.second (k + 1) && k % 2 = 0 then [k, k + 1] else [k]

/-- Ranges of an entry's buffers on a core; `copy` where the core has the entry from its partner in a pair: it has the
buffers in its own TCM, and a scratchpad buffer of the pair is one buffer, the partner's. -/
def bufRanges (k : Nat) (copy : Bool) (ds : List Word) : List BufRange :=
  (ds.filter fun d => !copy || bufSpace d = 0).map (bufRange k)

/-- Buffers of the entries that the mould writes (01: R16). -/
def Mould.buffers (b : Mould) : List BufRange :=
  b.bindings.flatMap fun e => (b.onCores (b.placeCore e.1)).flatMap fun k =>
    bufRanges k (k ≠ b.placeCore e.1) ((span 0 (b.nbuf (b.handTask e.2))).map (b.desc (b.handTask e.2)))

/-- Buffers of the valid entries of earlier launches on the cores of the placed clusters, but for the entries that the
mould writes anew (01: R16). A second core's entries have their scratchpad buffers too: they stay where the mould writes
only its partner's. -/
def Mould.oldBuffers (b : Mould) (s : State) : List BufRange :=
  b.clusters.flatMap fun p => (span (4 * p) 4).flatMap fun k =>
    (s.core k).hands.flatMap fun e =>
      if e.2.valid && !b.bindings.any (fun x => (b.onCores (b.placeCore x.1)).contains k && b.handCh x.2 = e.1) then
        bufRanges k false ((span 0 e.2.nbuf).map e.2.buf)
      else []

/-- Bytes of code. -/
def Mould.codeLen (b : Mould) : Nat := ((b.section_ 1).map fun s => s.1 - 16).getD 0

/-- A task that declares buffers has at most one HANDLER record (01: R16). -/
def Mould.oneHandler (b : Mould) (t : Nat) : Bool :=
  b.nbuf t = 0 || decide ((b.handlers.filter fun h => b.handTask h = t).length ≤ 1)

def Mould.check8 (b : Mould) (s : State) : Bool :=
  ((span 0 b.ntask).all fun t => ((span 0 (b.nbuf t)).all fun i => bufOk (b.desc t i)) && b.oneHandler t) &&
  apart b.buffers && b.buffers.all (fun r => !(b.oldBuffers s).any r.meets) &&
  (span 0 b.ntask).all fun t => decide (b.entryOff t < b.codeLen)

def Mould.check9 (b : Mould) : Bool := b.places.all fun o => !b.second (b.placeCore o)

/-- A seed needs a handler that the same mould writes (DEDUCED; unsafe; log 122). -/
def Mould.check10 (b : Mould) : Bool :=
  b.places.all fun o => match b.seed o with
    | none => true
    | some ch => b.bindings.any fun e => b.placeCore e.1 = b.placeCore o && b.handCh e.2 = ch

/-! ### Routes (03: R60, R61) -/

/-- Class, router, index and entry of a ROUTE record. -/
def Mould.route (b : Mould) (o : Nat) : Nat × Nat × Nat × Nat × RouteEntry :=
  let w := b.word o
  let v := b.word (o + 8)
  (bits w 0 3, bits w 3 7, bits w 10 7, bits w 17 4,
    { valid := true, x0 := bits v 0 7, x1 := bits v 7 7, y0 := bits v 14 7, y1 := bits v 21 7, port := bits w 21 3 })

def Mould.routes (b : Mould) : List (Nat × Nat × Nat × Nat × RouteEntry) := (b.records 9 16).map b.route

/-- Classes that the ROUTE section names. -/
def Mould.classes (b : Mould) : List Nat := (span 0 8).filter fun c => b.routes.any fun r => r.1 = c

/-- DETAIL of a refusal by the verifier (03: R61). -/
def verifyDetail (check cls src dst : Nat) : Word :=
  fields [(0, check), (4, cls), (7, posX src), (14, posY src), (21, posX dst), (28, posY dst)]

/-- Check 1, FORMAT: of a record. A router that does not exist is a matter of check 2. -/
def routeFormat (r : Nat × Nat × Nat × Nat × RouteEntry) : Bool :=
  let e := r.2.2.2.2
  decide (e.port < 4) && decide (e.x0 ≤ e.x1) && decide (e.y0 ≤ e.y1) &&
    (decide (96 ≤ r.2.2.1) || (nextPos (posOf r.2.1 r.2.2.1) e.port).isSome)

/-- Check 2, SCOPE: of a record. -/
def routeScope (part : Nat) (r : Nat × Nat × Nat × Nat × RouteEntry) : Bool :=
  decide (5 ≤ r.1) && decide (r.1 ≤ 7) && part / 2 ^ regionOf (posOf r.2.1 r.2.2.1) % 2 = 1

/-- Positions of a partition's regions, from north to south and within a row from west to east. -/
def partPositions (part : Nat) : List Nat := (span 0 12288).filter fun p => part / 2 ^ regionOf p % 2 = 1

/-- The first pair of sources and destinations, in order, whose trace fails a test. -/
def firstBad (srcs dsts : List Nat) (bad : Nat → Nat → Bool) : Option (Nat × Nat) :=
  srcs.foldl (fun (r : Option (Nat × Nat)) a => match r with
    | some x => some x
    | none => (dsts.find? fun d => bad a d).map fun d => (a, d)) none

/-- Checks 3-5 of a table set, one after another over all classes: the first failure, as its DETAIL (03: R61). -/
def State.verify (s : State) (part : Nat) (classes : List Nat) (tab : Nat → Nat → Tab RouteEntry) : Option Word :=
  let all := partPositions part
  let good := all.filter fun p => s.inService p
  let inside (r : Nat) : Bool := part / 2 ^ r % 2 = 1
  let run (check : Nat) (ps : List Nat) (bad : (Nat → Tab RouteEntry) → Nat → Nat → Bool) : Option Word :=
    classes.foldl (fun (r : Option Word) c => r.orElse fun _ =>
      (firstBad ps ps fun a d => a ≠ d && bad (tab c) a d).map fun e => verifyDetail check c e.1 e.2) none
  (run 3 good s.turns).orElse fun _ =>
    (run 4 good fun t a d => s.cuts t inside a d).orElse fun _ => run 5 all fun t a d => s.loops t inside a d

/-- A router's table of a class once the mould's records replace its user entries (03: R60). Of two records that write
one entry the later one stays (DESIGN CHOICE; unsafe; log 99). -/
def Mould.newTable (b : Mould) (s : State) (cls p : Nat) : Tab RouteEntry :=
  (b.routes.filter fun r => r.1 = cls && posOf r.2.1 r.2.2.1 = p).foldl
    (fun t r => Tab.put t (8 + r.2.2.2.1) r.2.2.2.2) ((s.table p cls).filter fun e => decide (e.1 < 8))

/-- The lowest class of the records that fail a test (03: R61). -/
def Mould.lowestClass (b : Mould) (ok : Nat × Nat × Nat × Nat × RouteEntry → Bool) : Nat :=
  ((span 0 8).find? fun c => b.routes.any fun r => r.1 = c && !ok r).getD 0

/-- The refusal of a ROUTE section, as its DETAIL (03: R61). -/
def Mould.routeRefusal (b : Mould) (s : State) (part : Nat) : Option Word :=
  if b.routes.isEmpty then none
  else if !b.routes.all routeFormat then some (verifyDetail 1 (b.lowestClass routeFormat) 0 0)
  else if !b.routes.all (routeScope part) then some (verifyDetail 2 (b.lowestClass (routeScope part)) 0 0)
  else s.verify part b.classes (fun c p => b.newTable s c p)

/-! ### Room (01: R24, R27; 10: R192) -/

/-- Every translated byte of a range can be written. -/
def State.ctxWritable (s : State) (tag : Nat) (a n : Nat) : Bool :=
  match s.ctxHomes tag .write (pieces a n (n / 4096 + 2)) with
  | .ok _ => true
  | .error _ => false

def Mould.check12 (b : Mould) (s : State) (tag : Nat) : Bool :=
  let room (space addr n : Nat) : Bool :=
    match space with
    | 0 => decide (addr + n ≤ 65536)
    | 1 => decide (addr + n ≤ 1048576)
    | 2 => decide (addr + n ≤ 0xF00000)
    | _ => s.ctxWritable tag addr n
  (match b.section_ 1 with
    | some (_, o) => room (bits (b.word o) 0 2) (b.at_ (o + 8) 8) b.codeLen
    | none => false) &&
  b.data.all fun o => room (b.dataSpace o) (b.at_ (o + 8) 8) (b.at_ o 4)

/-- The first failing code of R27 and its DETAIL; none for a mould that is accepted. -/
def Mould.refusal (b : Mould) (s : State) (tag size : Nat) : Option (Nat × Word) :=
  let part := (s.part tag).regions
  if !b.check1 size then some (1, 0)
  else if !b.check2 then some (2, 0)
  else if !b.check3 then some (3, 0)
  else if !b.check4 then some (4, 0)
  else if !b.check5 part then some (5, 0)
  else if !b.check6 s then some (6, 0)
  else if !b.check7 then some (7, 0)
  else if !b.check8 s then some (8, 0)
  else if !b.check9 then some (9, 0)
  else if !b.check10 then some (10, 0)
  else match b.routeRefusal s part with
    | some d => some (11, d)
    | none => if b.check12 s tag then none else some (12, 0)

/-! ### Writing the state (01: R25) -/

/-- Placed cores, those that a pair adds included, each with the placed core it takes its words from. -/
def Mould.cores (b : Mould) : List (Nat × Nat) :=
  (dedup (b.places.map b.placeCore)).flatMap fun k => (b.onCores k).map fun j => (j, k)

/-- Tasks placed on a core. -/
def Mould.tasksOn (b : Mould) (k : Nat) : List Nat := (b.places.filter fun o => b.placeCore o = k).map b.placeTask

/-- Where the code lies for a core of a region (01: R24, R25). -/
def Mould.codeBase (b : Mould) (r : Nat) : Nat :=
  match b.section_ 1 with
  | some (_, o) => if bits (b.word o) 0 2 = 2 then 0x20000000000 + r * 2 ^ 24 + b.at_ (o + 8) 8 else b.at_ (o + 8) 8
  | none => 0

/-- The handler entry of a task on a core (01: R15, R25). -/
def Mould.entry (b : Mould) (k h launch : Nat) : Handler :=
  let t := b.handTask h
  let w := b.word h
  { words := [BitVec.ofNat 64 (b.codeBase (regionOf (corePos k)) + b.entryOff t),
      fields [(0, bits w 21 3), (3, bits w 24 1), (4, b.nbuf t), (7, 1)], b.desc t 0, b.desc t 1, b.desc t 2, b.desc t 3]
    launch := launch }

/-- Logical local x of a position (03: R54). -/
def State.logicalX (s : State) (p : Nat) : Nat :=
  let row := sramHome (regionOf p) + 0xF00200 + 16 * (posY p % 16)
  ((span 0 16).find? fun i => s.readMem (row + i) 1 = posX p % 16).getD 15

/-- Identity words 240-255 of a core (04: R78). -/
def Mould.identity (b : Mould) (s : State) (tag k : Nat) : List Word :=
  let p := corePos k
  let paired := b.second (k + 1) && k % 2 = 0
  let task := (b.tasksOn k).foldl min 0xFFFF
  [0, 0, 0, 0, 0, 0, 0, 0, 0, 0, fields [(0, b2n paired), (1, if paired then k % 4 else 0)], (s.cluster p).qcap,
    fields [(32, task)], fields [(0, 16 * (regionOf p % 8) + s.logicalX p), (7, posY p)],
    fields [(0, regionOf p), (8, tag), (16, (s.part tag).lead)], fields [(0, posX p), (7, posY p), (14, coreNo k)]]

/-- A placed core: register space, CSRs, maps, formats, pointers, handler entries (01: R25; 05: R89, R98-R100;
07: R131). A core that is placed unpaired ends the pair that an earlier launch made of it and its neighbour (DESIGN
CHOICE; unsafe; log 123). -/
def Mould.loadCore (b : Mould) (tag launch : Nat) (s : State) (e : Nat × Nat) : State :=
  let k := e.1
  let src := e.2
  let c := s.core k
  let old := c.hands.map fun h => (h.1, h.2.clear)
  let hands := (b.bindings.filter fun x => b.placeCore x.1 = src).foldl
    (fun t x => Tab.put t (b.handCh x.2) (b.entry k x.2 launch)) old
  let tms := ((b.records 6 72).filter fun o => (b.tasksOn src).contains (bits (b.word o) 0 16)).foldl
    (fun (t : Tab (BitVec 512)) o => Tab.put t (bits (b.word o) 16 4) (BitVec.ofNat 512 (b.at_ (o + 8) 64))) []
  let fmts := ((b.records 7 8).filter fun o => (b.tasksOn src).contains (bits (b.word o) 0 16)).foldl
    (fun (t : Tab (BitVec 32)) o => Tab.put t (bits (b.word o) 16 3) (BitVec.ofNat 32 (bits (b.word o) 32 32))) []
  let paired := b.second (src + 1) && src % 2 = 0
  let base := Tab.get 0 (s.part tag).saveBases (corePos k)
  let c : Core := { c with
    reg := {}, fcsr := 0, vbase := 512, abase := 8704, pidx := [], stopRec := [], tfcount := 0, tms := tms, fmts := fmts,
    rr := [0, 0, 0, 0, 0, 0, 0, 0], hands := hands, loading := c.loading ++ [launch], icache := [],
    pair := if !paired then .alone else if k = src then .first else .second, held := [], mismatch := 0,
    tfbase := if base = 0#64 then c.tfbase else base + BitVec.ofNat 64 (0x18000 * coreNo k) }
  let s := c.hands.foldl (fun s h => s.uncountBufs k h.2 fun _ => true) (s.setCore k c)
  let n := if k % 2 = 0 then k + 1 else k - 1
  let s := if paired || (s.core n).pair == .alone then s else s.setCore n { s.core n with pair := .alone }
  { s with memEmpty := s.memEmpty.filter fun w => !(decide (tcmHome k / 8 ≤ w) && decide (w < tcmHome k / 8 + 8192)) }

/-- The constant window of a placed core, and over its last words the identity words, after every DATA record
(01: R25, item 4; 04: R77, R78). -/
def Mould.loadWindow (b : Mould) (tag : Nat) (s : State) (e : Nat × Nat) : State :=
  let window := match b.section_ 5 with
    | some (_, o) => takeN 2048 (dropN o b)
    | none => (span 0 2048).map fun _ => (0 : Byte)
  (s.writeMem (tcmHome e.1) window).writeMem (tcmHome e.1 + 8 * 240) (bytesOf (b.identity s tag e.2))

/-- The scratchpad buffers of a core's entries cleared (12: R234). -/
def State.clearPad (s : State) (k : Nat) : State :=
  (s.core k).hands.foldl (fun s e =>
    let pad (b : Nat) : Bool := bufSpace (e.2.buf b) ≠ 0
    (s.setHand k e.1 (e.2.clearBufs pad)).uncountBufs k e.2 pad) s

/-- A placed cluster: barriers, copy channels, patterns, code caches, full bits, arrival in the scratchpad (04: R70;
07: R139; 10: R195; 12: R234, R237, R253; 17: R397). -/
def loadCluster (s : State) (p : Nat) : State :=
  let c := s.cluster p
  let s := s.setCluster p { c with
    bars := [], chans := [], hb := [], ccache := [], fills := c.fills.map fun f => f.bind Fill.invalidate }
  let s := (span (4 * p) 4).foldl (fun s k => (s.setCore k { s.core k with icache := [] }).clearPad k) s
  { s with memEmpty := s.memEmpty.filter fun w => !(decide (spadHome p / 8 ≤ w) && decide (w < spadHome p / 8 + 131072)) }

/-- Bytes laid into each of some homes. -/
def State.layAll (s : State) (homes : List Nat) (bs : List Byte) : State :=
  homes.foldl (fun s h => (s.clean h bs.length).writeMem h bs) s

/-- A DATA record (01: R25). -/
def Mould.loadData (b : Mould) (tag : Nat) (s : State) (o : Nat) : State :=
  let bs := takeN (b.at_ o 4) (dropN (o + 16) b)
  let off := b.at_ (o + 8) 8
  let mine := b.places.filter fun p => b.placeTask p = b.dataTask o
  match b.dataSpace o with
  | 0 => s.layAll ((b.cores.filter fun e => mine.any fun p => b.placeCore p = e.2).map fun e => tcmHome e.1 + off) bs
  | 1 => s.layAll ((dedup (mine.map b.placePos)).map fun p => spadHome p + off) bs
  | 2 => s.layAll ((dedup (mine.map fun p => regionOf (b.placePos p))).map fun r => sramHome r + off) bs
  | _ => s.ringWrite tag (BitVec.ofNat 64 off) bs

/-- The code (01: R24). -/
def Mould.loadCode (b : Mould) (tag : Nat) (s : State) : State :=
  match b.section_ 1 with
  | none => s
  | some (_, o) =>
    let bs := takeN b.codeLen (dropN (o + 16) b)
    let a := b.at_ (o + 8) 8
    if bits (b.word o) 0 2 = 2 then s.layAll ((maskRegions b.regions).map fun r => sramHome r + a) bs
    else s.ringWrite tag (BitVec.ofNat 64 a) bs

/-- A LEASE record starts waking engines where 3 power units allow it; warm engines make room (01: R25; 07: R147, R149). -/
def Mould.wakeEngines (b : Mould) (s : State) (o : Nat) : State :=
  let w := b.word o
  let ps := dedup ((b.places.filter fun p => b.placeTask p = bits w 0 16).map b.placePos)
  ps.foldl (fun s p => (span 0 8).foldl (fun s e =>
    let c := s.cluster p
    if bit w (16 + e) && (c.eng e).power == .gated && decide (c.units + engUnits e ≤ 3) then
      (s.setCluster p (c.gateWarm (engUnits e) 8)).setEng p e { c.eng e with power := .waking none (bits w 24 2) false false }
    else s) s) s

/-- The mould's user entries, in every router of the partition (03: R60). -/
def Mould.loadRoutes (b : Mould) (tag : Nat) (s : State) : State :=
  if b.routes.isEmpty then s
  else (partPositions (s.part tag).regions).foldl (fun s p =>
    b.classes.foldl (fun s c =>
      let r := s.router p
      s.setRouter p { r with tables := Tab.put r.tables c (b.newTable s c p) }) s) s

/-- All that a load writes before START (01: R25). -/
def Mould.load (b : Mould) (tag launch : Nat) (s : State) : State :=
  let s := b.loadRoutes tag s
  let s := b.clusters.foldl loadCluster s
  let s := b.cores.foldl (b.loadCore tag launch) s
  let s := b.loadCode tag s
  let s := b.data.foldl (b.loadData tag) s
  let s := b.cores.foldl (b.loadWindow tag) s
  (b.records 10 8).foldl b.wakeEngines s

/-- The placed cores are idle (log 38). -/
def Mould.idle (b : Mould) (s : State) : Bool :=
  b.cores.all fun e => (s.core e.1).ch.isNone && (s.core e.1).trapped.isNone && !s.preempted (corePos e.1)

end Sys2Proof.Machine
end

