-- ==== Sys2Proof/Machine/Launch.lean ====
section
/-! DEFINITION. The launch sequencer (02: R30-R44; 01: R27-R29; 03: R62): completion records, reading work records,
tokens, mould launches, completion signals. Queue `256·region + number`. -/

namespace Sys2Proof.Machine

def State.queue (s : State) (q : Nat) : Queue := Tab.get {} s.queues q
/-- The position block as the host reads it (02: R31); CMD is write only. -/
def Queue.block (x : Queue) : List Word :=
  [fields [(0, x.consumed)], fields [(0, x.doneh), (32, x.cseq)], fields [(0, x.tail), (32, x.chead)], fields [(4, x.st)]]

/-- A queue changes, and with it its position block in the SRAM of its lead island (02: R30; log 81). -/
def State.setQueue (s : State) (q : Nat) (x : Queue) : State :=
  let s := { s with queues := Tab.put s.queues q x }
  match x.place with
  | none => s
  | some o => s.writeMem (sramHome (q / 256) + o) (bytesOf x.block)

/-- The queue is served by the sequencer of its partition's lead island alone (02: R30). -/
def State.led (s : State) (q : Nat) : Bool := (Tab.get {} s.parts (s.queue q).tag : Partition).lead = q / 256
def State.launchOf (s : State) (key : Nat) : Launch := Tab.get {} s.launches key
def State.setLaunch (s : State) (key : Nat) (l : Launch) : State := { s with launches := Tab.put s.launches key l }
def State.graph (s : State) (g : Nat) : Graph := Tab.get {} s.graphs g
def State.setGraph (s : State) (g : Nat) (x : Graph) : State := { s with graphs := Tab.put s.graphs g x }

/-- The table without unit `k`. -/
def Tab.drop {α : Type} (t : Tab α) (k : Nat) : Tab α := t.filter fun e => e.1 ≠ k

/-! ### Sequence numbers (02: R32) -/

/-- How far `a` is ahead of `b`, modulo 2^32. -/
def ahead (a b : Nat) : Nat := (a + 2 ^ 32 - b % 2 ^ 32) % 2 ^ 32
def next32 (a : Nat) : Nat := (a + 1) % 2 ^ 32
/-- `a` comes before `b` (02: R32). -/
def before (a b : Nat) : Bool := a ≠ b && decide (ahead b a < 2 ^ 31)

/-! ### Completion records (02: R34, R37, R47; 18: R380) -/

/-- The words of a completion record, its DSEQ still 0 (02: R37). -/
def completion (kind reason node hseq launch : Nat) (user detail : Word) : List Word :=
  [fields [(32, kind), (36, reason), (48, node)], fields [(0, hseq), (32, launch)], user, detail]

/-- A completion record at its ring slot (02: R32). -/
def State.compSlot (s : State) (q d : Nat) (ws : List Word) : State :=
  let x := s.queue q
  s.ringWrite x.tag (x.comp + BitVec.ofNat 64 (32 * (d % 2 ^ x.m))) (bytesOf ws)

/-- The queue's vector after CSEQ is written (18: R380). -/
def State.queueVector (s : State) (q : Nat) : State :=
  let x := s.queue q
  let r := s.interrupt x.vector x.cseq x.sent
  if r.1 then r.2.setQueue q { x with sent := x.cseq } else r.2

/-- The last `n` elements. -/
def lastN {α : Type} (n : Nat) (l : List α) : List α := dropN (l.length - n) l

/-- Waiting records are written while d − CHEAD < 2^m (02: R34); the last 512 are kept in `Queue.kept` (02: R47;
log 81). -/
def State.flush (s : State) (q : Nat) : Nat → State
  | 0 => s
  | n + 1 =>
    let x := s.queue q
    let d := next32 x.cseq
    match x.pend with
    | [] => s
    | ws :: rest =>
      if ahead d x.chead < 2 ^ x.m then
        let ws := (nth 0 ws 0 ||| BitVec.ofNat 64 d) :: ws.drop 1
        let s := (s.compSlot q d ws).setQueue q { x with cseq := d, pend := rest, kept := lastN 512 (x.kept ++ [ws]) }
        (s.queueVector q).flush q n
      else s

/-- A record is reported, or waits for room in the ring (02: R34). -/
def State.tell (s : State) (q : Nat) (ws : List Word) : State :=
  let x := s.queue q
  (s.setQueue q { x with pend := x.pend ++ [ws] }).flush q (x.pend.length + 1)

/-- DONEH moves over the numbers that have ended (02: R31). -/
def advance (ended : List Nat) (doneh : Nat) : Nat → Nat × List Nat
  | 0 => (doneh, ended)
  | n + 1 => if ended.contains (next32 doneh) then advance (ended.filter (· ≠ next32 doneh)) (next32 doneh) n
             else (doneh, ended)

/-- The item of a number has ended. -/
def Queue.finish (x : Queue) (hseq : Nat) : Queue :=
  let ended := x.ended ++ [hseq]
  let r := advance ended x.doneh ended.length
  { x with items := x.items.filter (fun i => i.hseq ≠ hseq), doneh := r.1, ended := r.2 }

/-- The result of an item: its record, and the counts (02: R45). -/
def State.result (s : State) (q hseq : Nat) (ws : List Word) : State :=
  let x := (s.queue q).finish hseq
  (s.setQueue q { x with nCompleted := x.nCompleted + 1 }).tell q ws

/-- The item is refused (KIND 4). -/
def State.refuseItem (s : State) (q : Nat) (it : Item) (reason : Nat) (detail : Word) : State :=
  s.result q it.hseq (completion 4 reason 0xFFFF it.hseq 0 (nth 0 it.words 4) detail)

/-! ### Reading work records (02: R33, R35) -/

/-- A doorbell awaits service while some queue of the sequencer has records to read (16: R353). -/
def State.serveBells (s : State) (r : Nat) : State :=
  let left := s.queues.any fun e => e.1 / 256 = r && e.2.st = 1 && e.2.consumed ≠ e.2.tail
  if left then s else s.setRegion r { s.region r with doorbell := 0 }

/-- The host writes TAIL of a queue that is not closed (02: R33; 18: R379). -/
def State.writeTail (s : State) (q tail : Nat) : State :=
  if (s.queue q).st = 0 then s
  else
    let s := s.setQueue q { s.queue q with tail := tail % 2 ^ 32 }
    s.setRegion (q / 256) { s.region (q / 256) with doorbell := 1 }

/-- DOORBELL. -/
def execDoorbell (q tail : Nat) (s : State) : Out := .next (s.writeTail q tail)

/-- The copies of QCAP, and with them of the partition's regions, in every cluster of a partition (03: R57; 10: R191). -/
def State.rewriteCaps (s : State) (tag : Nat) (w : Word) : State :=
  let m : Word := BitVec.ofNat 64 ((s.part tag).regions % 2 ^ 48)
  (maskRegions (s.part tag).regions).foldl (fun s r =>
    (regionClusters r).foldl (fun s p => s.setCluster p { s.cluster p with qcap := w, partMask := m }) s) s

/-- A record of a retired placement still waits for room in a completion ring of the partition (18: R376). -/
def State.endsWait (s : State) (tag : Nat) : Bool :=
  s.queues.any fun e => e.2.tag = tag && e.2.pend.any fun ws => bits (nth 0 ws 0) 32 12 = 5 + 16 * 20

/-- Steps 3 and 4 of R376 for the retirements of a partition, in their order, once the records of step 2 are written. -/
def State.postRetired (s : State) (tag : Nat) : State :=
  if s.endsWait tag || (s.part tag).retiring.isEmpty then s
  else (s.part tag).retiring.foldl (fun s e => (s.rewriteCaps tag e.2.1).postEvent tag 1 e.1 e.2.1 e.2.2)
    (s.setPart tag { s.part tag with retiring := [] })

/-- The host frees room in the completion ring (02: R34); a retirement that waited for it goes on (18: R376). -/
def State.writeChead (s : State) (q chead : Nat) : State :=
  if (s.queue q).st = 0 then s
  else ((s.setQueue q { s.queue q with chead := chead % 2 ^ 32 }).flush q (s.queue q).pend.length).postRetired
    (s.queue q).tag

/-- CHEAD_WRITE. -/
def execCheadWrite (q chead : Nat) (s : State) : Out := .next (s.writeChead q chead)

/-- KIND is 1 or 2 and reserved fields are zero (02: R35). -/
def workFormat (ws : List Word) : Bool :=
  let w i := nth 0 ws i
  (bits (w 0) 32 4 = 1 || (bits (w 0) 32 4 = 2 && bits (w 3) 0 32 = 0)) && bits (w 0) 37 27 = 0 &&
  bits (w 2) 32 32 = 0 && bits (w 3) 32 32 = 0 && w 5 = 0#64 && w 6 = 0#64 && w 7 = 0#64

/-- WORK_RECORD_READ (02: R33, R35). A record whose slot maps nothing is not read (log 35). -/
def execWorkRecordRead (q : Nat) (s : State) : Out :=
  .next (
    let x := s.queue q
    let h := next32 x.consumed
    if x.st ≠ 1 || x.consumed = x.tail || !s.led q then s
    else match s.ctxRead x.tag (x.work + BitVec.ofNat 64 (64 * (h % 2 ^ x.n))) 64 with
      | .error _ => s
      | .ok bs =>
        let s := s.countCtx x.tag (x.work + BitVec.ofNat 64 (64 * (h % 2 ^ x.n))) 64
        let ws := wordsOf bs 8
        let found := bits (nth 0 ws 0) 0 32
        let x := { x with nDispatched := x.nDispatched + 1 }
        let s : State := if found ≠ h then
            (s.setQueue q { x with st := 2, nCompleted := x.nCompleted + 1 }).tell q
              (completion 5 18 0xFFFF h 0 0 (BitVec.ofNat 64 found))
          else
            let it : Item := { hseq := h, words := ws }
            let s := s.setQueue q { x with consumed := h, items := x.items ++ [it] }
            if workFormat ws then s else s.refuseItem q it 3 0
        s.serveBells (q / 256))

/-! ### Tokens (02: R42-R44) -/

/-- TOKEN_REFILL (02: R42). -/
def Tenant.refilled (t : Tenant) : Tenant :=
  let w := min t.debt (t.refill / 2)
  { t with debt := t.debt - w, bal := t.refill - w }

def execTokenRefill (region : Nat) (s : State) : Out :=
  .next (
    let g := s.region region
    s.setRegion region { g with tenants := g.tenants.map fun e => (e.1, e.2.refilled) })

/-- A ready node, or a loop with a further pass, of a graph that may still start nodes. -/
def Graph.readyNode (g : Graph) : Option Nat :=
  if g.failed.isSome || g.halted then none else g.nodes.findIdx? fun n => n.phase == .ready || n.phase == .again

/-- What is at the head of a queue: a ready node of the graph with the lowest HSEQ, else the next record (02: R36,
R44). -/
inductive Pick where
  | node (g n : Nat)
  | item (it : Item)
  deriving DecidableEq, Repr

def State.readyOf (s : State) (q : Nat) : Option (Nat × Nat) :=
  s.graphs.foldl (fun (b : Option (Nat × Nat)) e =>
    if e.2.queue ≠ q then b
    else match e.2.readyNode with
      | none => b
      | some n => match b with
        | none => some (e.1, n)
        | some c => if before e.2.hseq (s.graph c.1).hseq then some (e.1, n) else b) none

/-- The dispatchable item of a queue: nothing while the completion ring is full (R34) or the queue is not OPEN (R33;
log 41); an ORDERED record waits for DONEH (R35). -/
def State.pick (s : State) (q : Nat) : Option Pick :=
  let x := s.queue q
  if x.st ≠ 1 || !s.led q || !x.pend.isEmpty || 2 ^ x.m ≤ ahead (next32 x.cseq) x.chead then none
  else match s.readyOf q with
    | some (g, n) => some (.node g n)
    | none => match x.items.find? fun i => !i.dispatched with
      | none => none
      | some it => if bit (nth 0 it.words 0) 36 && next32 x.doneh ≠ it.hseq then none else some (.item it)

/-- Queues of a tenant at a sequencer. -/
def State.queuesOf (s : State) (r t : Nat) : List Nat :=
  (s.queues.filter fun e => e.1 / 256 = r && e.2.tenant = t && e.2.st ≠ 0).map Prod.fst

/-- A tenant with no dispatchable item in any queue (02: R44). -/
def State.idleTenant (s : State) (r t : Nat) : Bool := (s.queuesOf r t).all fun q => (s.pick q).isNone

/-- The lenders give what is short, the lowest tenant number first: what stays short, and the tenants after it. -/
def lend (lenders : List Nat) (ts : Tab Tenant) (short : Nat) : Nat × Tab Tenant :=
  lenders.foldl (fun b t =>
    let x : Tenant := Tab.get {} b.2 t
    let n := min x.bal b.1
    (b.1 - n, Tab.put b.2 t { x with bal := x.bal - n })) (short, ts)

/-- Tenant `t` pays a cost from its balance, or borrows the shortfall; none where it cannot (02: R44). -/
def State.pay (s : State) (r t cost : Nat) : Option State :=
  let g := s.region r
  let x : Tenant := Tab.get {} g.tenants t
  if cost ≤ x.bal then some (s.setRegion r { g with tenants := Tab.put g.tenants t { x with bal := x.bal - cost } })
  else
    let short := cost - x.bal
    let lenders := (Tab.keys g.tenants).filter fun u => u ≠ t && s.idleTenant r u
    let l := lend lenders g.tenants short
    if x.debt + short ≤ 2 * x.refill && l.1 = 0 then
      some (s.setRegion r { g with tenants := Tab.put l.2 t { x with bal := 0, debt := x.debt + short } })
    else none

/-! ### Graphs: firing and ends (02: R38-R41) -/

def Node.kind (n : Node) : Nat := bits (nth 0 n.words 0) 0 4
def Node.ndep (n : Node) : Nat := bits (nth 0 n.words 0) 16 12
def Node.w (n : Node) (i : Nat) : Word := nth 0 n.words i
/-- The four indices of a word. -/
def four (w : Word) : List Nat := [bits w 0 16, bits w 16 16, bits w 32 16, bits w 48 16]
def Node.body (n : Node) : Nat := bits (n.w 3) 0 16
def Node.tail (n : Node) : Nat := bits (n.w 3) 16 16
def Node.maxIter (n : Node) : Nat := bits (n.w 3) 32 32

/-- Every node that a node may fire, 0xFFFF for none left out (02: R39). -/
def Node.succ (n : Node) : List Nat :=
  let l := match n.kind with
    | 5 => n.body :: four (n.w 1)
    | 6 => four (n.w 1) ++ four (n.w 3) ++ [bits (n.w 4) 0 16]
    | _ => four (n.w 1)
  l.filter (· ≠ 0xFFFF)

def Graph.node (g : Graph) (i : Nat) : Node := nth {} g.nodes i
def Graph.setNode (g : Graph) (i : Nat) (n : Node) : Graph := { g with nodes := setNth g.nodes i n }

/-- A firing (02: R38): ignored where RCV would exceed NDEP. -/
def Graph.fire (g : Graph) (i : Nat) : Graph :=
  let n := g.node i
  if g.nodes.length ≤ i || n.ndep ≤ n.rcv then g
  else g.setNode i { n with rcv := n.rcv + 1, phase := if n.rcv + 1 = n.ndep && n.phase == .idle then .ready else n.phase }

/-- Nodes reached from some nodes along edges, past `stop` only into its own body where it is a loop; `fuel` bounds the
path. -/
def Graph.reach (g : Graph) (stop : Nat) : Nat → List Nat → List Nat → List Nat
  | 0, _, seen => seen
  | f + 1, front, seen =>
    let next (i : Nat) : List Nat :=
      if i ≠ stop then (g.node i).succ else if (g.node i).kind = 5 then [(g.node i).body] else []
    let new := dedup (front.flatMap next)
    let new := new.filter fun i => !seen.contains i && decide (i < g.nodes.length)
    if new.isEmpty then seen else g.reach stop f new (seen ++ new)

/-- The body of a loop: what BODY reaches without leaving through TAIL, an inner loop that is TAIL with its own body
(02: R40). -/
def Graph.bodyOf (g : Graph) (l : Nat) : List Nat :=
  let n := g.node l
  (g.reach n.tail g.nodes.length [n.body] [n.body]).filter (· ≠ l)

/-- A pass of a loop begins: BODY is fired (02: R39). -/
def Graph.firePass (g : Graph) (l : Nat) : Graph :=
  let n := g.node l
  (g.setNode l { n with passes := n.passes + 1, phase := .running }).fire n.body

/-- A node waits for its firings afresh (02: R38, R40). -/
def Node.fresh (n : Node) : Node :=
  { n with redo := false, passes := 0, phase := if n.rcv = n.ndep then .ready else .idle }

/-- The node has begun and has not ended. -/
def Node.runs (n : Node) : Bool := n.phase == .running || n.phase == .condition || n.phase == .again

/-- What a further pass does to a node of the body (02: R40). One that still runs goes on, and waits for firings again
once it has ended (DESIGN CHOICE; unsafe; log 121). -/
def Node.again (n : Node) : Node :=
  if n.runs then { n with rcv := 0, redo := true } else { n with rcv := 0 }.fresh

/-- A node has ended. -/
def Node.ended (n : Node) : Node := if n.redo then n.fresh else { n with phase := .finished }

/-- A further pass of a loop (02: R40): RCV of its body is zero again and BODY is fired. -/
def Graph.pass (g : Graph) (l : Nat) : Graph :=
  ((g.bodyOf l).foldl (fun g i => g.setNode i (g.node i).again) g).firePass l

/-- Some node still runs; a loop of a failed graph runs no further pass (02: R41). -/
def Graph.busy (g : Graph) : Bool :=
  g.nodes.any fun n => n.phase == .condition || (n.phase == .running && (g.failed.isNone || n.kind ≠ 5)) ||
    ((n.phase == .ready || n.phase == .again) && g.failed.isNone)

/-- The graph ends once no node is running or ready (02: R41): its KIND 3 record. -/
def State.endGraph (s : State) (k : Nat) : State :=
  let g := s.graph k
  if g.busy || g.halted then s
  else
    let s := { s with graphs := Tab.drop s.graphs k }
    match g.failed with
    | none => s.result g.queue g.hseq (completion 3 0 0xFFFF g.hseq 0 g.user 0)
    | some (reason, n, detail) => s.result g.queue g.hseq (completion 3 reason n g.hseq 0 g.user detail)

/-- A node completes and fires its chosen successors; loops that end with it read their words (02: R38-R40). A successor
that S0-S3 name twice is fired twice and counts as two edges: the spec does not say (DESIGN CHOICE; unsafe; log 101). -/
def State.completeNode (s : State) (k i : Nat) (chosen : List Nat) : State :=
  let g := s.graph k
  let n := g.node i
  if g.halted then s.setGraph k (g.setNode i n.ended)
  else
    let g := chosen.foldl Graph.fire (g.setNode i n.ended)
    let nodes := g.nodes.map fun (l : Node) => if l.kind = 5 && l.tail = i && l.phase == .running then { l with phase := .condition } else l
    let s := s.setGraph k { g with nodes := nodes }
    let s := if bit (n.w 0) 4 then
        s.tell g.queue (completion 2 0 i g.hseq (s.launchOf n.launch).id g.user 0)
      else s
    s.endGraph k

/-- A node fails: it fires nothing, and the graph starts no further node (02: R41). -/
def State.failNode (s : State) (k i reason : Nat) (detail : Word) : State :=
  let g := s.graph k
  let g := g.setNode i { g.node i with phase := .finished }
  (s.setGraph k { g with failed := g.failed.orElse fun _ => some (reason, i, detail) }).endGraph k

/-! ### Launches (02: R36; 01: R25-R28) -/

/-- The launch mask on every entry of the launch (02: R36; 07: R132). -/
def State.maskLaunch (s : State) (key : Nat) : State :=
  let l := s.launchOf key
  let s := l.entries.foldl (fun s e =>
    let h := (s.core e.1).hand e.2
    if h.valid && h.launch = key then s.setHand e.1 e.2 { h with launchMask := true } else s) s
  s.setLaunch key { l with phase := .masked, mould := [] }

/-- Injection is released. -/
def State.releaseQuiet (s : State) (z : Quieting) : State :=
  z.regions.foldl (fun s r => s.setRegion r { s.region r with quiet := none }) s

/-- The quieting for a launch ends without its load (03: R62). -/
def State.unquiet (s : State) (key : Nat) : State :=
  match (s.regions.find? fun e => e.2.quiet.any fun z => z.launch = some key).bind fun e => e.2.quiet with
  | some z => s.releaseQuiet z
  | none => s

/-- Cores loaded for a launch wait for its START no more. -/
def State.unload (s : State) (key : Nat) (l : Launch) : State :=
  l.cores.foldl (fun s k => s.setCore k ((s.core k).started key)) s

/-- A launch that has not started is given up: its quieting ends, its clusters wait no more. -/
def State.giveUp (s : State) (key : Nat) : State :=
  let l := s.launchOf key
  match l.phase with
  | .quieting => s.unquiet key
  | .loaded => s.unload key l
  | _ => s

/-- The launch's result, KIND 1 or KIND 5 with its reason; a placement node's goes to its graph (02: R36, R39, R41). A
launch of a draining queue has none (17: R377). -/
def State.endLaunch (s : State) (key reason : Nat) : State :=
  let l := s.launchOf key
  if l.reported || l.phase == .masked then s
  else
    let s := ((s.giveUp key).setLaunch key { l with reported := true }).maskLaunch key
    if l.node = 0xFFFF then
      s.result l.queue l.hseq (completion (if reason = 0 then 1 else 5) reason 0xFFFF l.hseq l.id l.user 0)
    else if reason = 0 then s.completeNode l.graph l.node (four (((s.graph l.graph).node l.node).w 1))
    else s.failNode l.graph l.node reason 0

/-- An item or a placement node is refused before its launch. -/
def State.refuseLaunch (s : State) (q : Nat) (it : Item) (node : Option (Nat × Nat)) (reason : Nat) (detail : Word) :
    State :=
  match node with
  | none => s.refuseItem q it reason detail
  | some (g, n) => s.failNode g n reason detail

/-- The launch of a mould that is accepted, as it stands before its load. -/
def Mould.launch (b : Mould) (q : Nat) (it : Item) (node : Option (Nat × Nat)) (expect : Nat) : Launch :=
  { queue := q, hseq := it.hseq, node := (node.map Prod.snd).getD 0xFFFF, graph := (node.map Prod.fst).getD 0
    phase := .waiting, expect := expect, user := nth 0 it.words 4, cores := b.cores.map Prod.fst, mould := b
    entries := b.cores.flatMap fun e =>
      (b.bindings.filter fun x => b.placeCore x.1 = e.2).map fun x => (e.1, b.handCh x.2)
    seeds := b.places.filterMap fun o => (b.seed o).map fun ch => (b.placeCore o, ch) }

/-- A launch that has not loaded is refused after all: it changes no state (01: R27; 03: R62). -/
def State.refuseKept (s : State) (key reason : Nat) (detail : Word) : State :=
  let l := s.launchOf key
  let it : Item := { hseq := l.hseq, words := [0, 0, 0, 0, l.user] }
  ({ s with launches := Tab.drop s.launches key }).refuseLaunch l.queue it
    (if l.node = 0xFFFF then none else some (l.graph, l.node)) reason detail

/-- A launch whose mould is kept loads once its placed cores are idle (log 38); what has changed since its dispatch may
refuse it (01: R27). -/
def State.loadKept (s : State) (key : Nat) : State :=
  let l := s.launchOf key
  let tag := (s.queue l.queue).tag
  if !Mould.idle l.mould s then s
  else match Mould.refusal l.mould s tag (Mould.at_ l.mould 0x10 8) with
    | some (code, detail) => s.refuseKept key code detail
    | none => Mould.load l.mould tag key (s.setLaunch key { l with phase := .loaded, mould := [] })

/-- A waiting launch goes on once its placed cores are idle: the classes of its routes begin to be quiet where no other
quieting stands, or, with no routes, it loads (01: R27; 03: R62; log 38). -/
def State.resumeLaunch (s : State) (key : Nat) : State :=
  let l := s.launchOf key
  let rs := maskRegions (s.part (s.queue l.queue).tag).regions
  if l.phase != .waiting then s
  else if (Mould.routes l.mould).isEmpty then s.loadKept key
  else if !Mould.idle l.mould s || rs.any fun r => (s.region r).quiet.isSome then s
  else
    let z : Quieting := { classes := Mould.classes l.mould, regions := rs, launch := some key }
    rs.foldl (fun s r => s.setRegion r { s.region r with quiet := some z }) (s.setLaunch key { l with phase := .quieting })

/-- A mould launch is dispatched: read, paid for, checked, and loaded or kept until it can load (01: R27; 02: R36, R43;
03: R62). None where the tenant cannot pay. One whose mould cannot be read pays nothing (DESIGN CHOICE; unsafe; log 144). -/
def State.dispatchMould (s : State) (q : Nat) (it : Item) (node : Option (Nat × Nat)) (addr : Word) (size expect : Nat) :
    Option State :=
  let x := s.queue q
  let r := q / 256
  match s.ctxRead x.tag addr size with
  | .error (_, a) => some (s.refuseLaunch q it node 19 a)
  | .ok b =>
    let s := s.countCtx x.tag addr size
    let cost := 1 + ((Mould.clusters b).length + 15) / 16
    if 3 * (Tab.get {} (s.region r).tenants x.tenant : Tenant).refill < cost then some (s.refuseLaunch q it node 17 0)
    else match s.pay r x.tenant cost with
      | none => none
      | some t =>
        match Mould.refusal b s x.tag size with
        | some (code, detail) => some (t.refuseLaunch q it node code detail)
        | none =>
          let key := t.nextKey
          let t := { t with nextKey := key + 1 }.setLaunch key (Mould.launch b q it node expect)
          let t : State := match node with
            | none => t
            | some (g, n) =>
              let gr := t.graph g
              t.setGraph g (gr.setNode n { gr.node n with phase := .running, launch := key })
          some (t.resumeLaunch key)

/-! ### Checking a graph (02: R38, R39) -/

/-- Indices in range, BODY and TAIL too (reason 13). -/
def Graph.inRange (g : Graph) : Bool :=
  g.nodes.all fun n => n.succ.all (fun i => decide (i < g.nodes.length)) &&
    (n.kind ≠ 5 || (decide (n.body < g.nodes.length) && decide (n.tail < g.nodes.length)))

/-- KIND and reserved fields (reason 14). -/
def Node.format (n : Node) : Bool :=
  let zero (l : List Nat) : Bool := l.all fun i => n.w i = 0#64
  bits (n.w 0) 5 11 = 0 && bits (n.w 0) 28 36 = 0 &&
  match n.kind with
  | 1 => bits (n.w 3) 32 32 = 0 && bits (n.w 4) 32 32 = 0 && zero [5, 6, 7]
  | 2 => zero [5, 6, 7]
  | 3 => zero [2, 3, 4, 5, 6, 7]
  | 4 => zero [3, 4, 5, 6, 7]
  | 5 => n.maxIter ≠ 0 && zero [4, 5, 6, 7]
  | 6 => bits (n.w 4) 16 48 = 0 && zero [5, 6, 7]
  | _ => false

/-- Edges, as source and target, but for those from the TAIL of a loop to the loop. -/
def Graph.edges (g : Graph) : List (Nat × Nat) :=
  (span 0 g.nodes.length).flatMap fun i =>
    ((g.node i).succ.filter fun t => !((g.node t).kind = 5 && (g.node t).tail = i)).map fun t => (i, t)

/-- Nodes without an incoming edge from those left are taken away; those of a cycle stay. -/
def peel (edges : List (Nat × Nat)) : Nat → List Nat → List Nat
  | 0, l => l
  | f + 1, l =>
    let rest := l.filter fun i => edges.any fun e => e.2 = i && l.contains e.1
    if rest.length = l.length then l else peel edges f rest

/-- No cycle outside a loop, and no loop deeper than 4 (reason 15). -/
def Graph.acyclic (g : Graph) : Bool :=
  let n := g.nodes.length
  let loops := (span 0 n).filter fun i => (g.node i).kind = 5
  let depth (l : Nat) : Nat := (loops.filter fun m => m ≠ l && (g.bodyOf m).contains l).length + 1
  (peel g.edges n (span 0 n)).isEmpty && loops.all fun l => decide (depth l ≤ 4)

/-- NDEP within the incoming edges (reason 16). -/
def Graph.fed (g : Graph) : Bool :=
  let all := (span 0 g.nodes.length).flatMap fun i => (g.node i).succ
  (span 0 g.nodes.length).all fun i => decide ((g.node i).ndep ≤ (all.filter (· = i)).length)

/-- The first failing reason. -/
def Graph.refusal (g : Graph) : Option Nat :=
  if !g.inRange then some 13
  else if !g.nodes.all Node.format then some 14
  else if !g.acyclic then some 15
  else if !g.fed then some 16
  else none

/-- Words in groups of eight. -/
def nodesOf (ws : List Word) : Nat → List Node
  | 0 => []
  | n + 1 => { words := takeN 8 ws } :: nodesOf (dropN 8 ws) n

/-- A task graph record is dispatched: its table is read and checked whole (02: R38; log 39, 43). -/
def State.dispatchGraph (s : State) (q : Nat) (it : Item) : Option State :=
  let x := s.queue q
  match s.pay (q / 256) x.tenant 1 with
  | none => none
  | some s =>
    let size := bits (nth 0 it.words 2) 0 32
    if size = 0 || 4096 < size then some (s.refuseItem q it 3 0)
    else match s.ctxRead x.tag (nth 0 it.words 1) (64 * size) with
      | .error (_, a) => some (s.refuseItem q it 19 a)
      | .ok bs =>
        let s := s.countCtx x.tag (nth 0 it.words 1) (64 * size)
        let nodes := (nodesOf (wordsOf bs (8 * size)) size).map fun (n : Node) => if n.ndep = 0 then { n with phase := NodePhase.ready } else n
        let g : Graph := { queue := q, hseq := it.hseq, user := nth 0 it.words 4, nodes := nodes }
        match g.refusal with
        | some r => some (s.refuseItem q it r 0)
        | none =>
          let key := s.nextKey
          some (({ s with nextKey := key + 1 }.setGraph key g).endGraph key)

/-- A node is dispatched (02: R39, R43). -/
def State.dispatchNode (s : State) (k i : Nat) : Option State :=
  let g := s.graph k
  let n := g.node i
  let q := g.queue
  let r := q / 256
  let t := (s.queue q).tenant
  let it : Item := { hseq := g.hseq, words := [0, 0, 0, 0, g.user] }
  match n.kind with
  | 1 => s.dispatchMould q it (some (k, i)) (n.w 2) (bits (n.w 3) 0 32) (bits (n.w 4) 0 32)
  | 2 =>
    let cost := 1 + ((n.w 4).toNat + 1048575) / 1048576
    if 3 * (Tab.get {} (s.region r).tenants t : Tenant).refill < cost then some (s.failNode k i 17 0)
    else (s.pay r t cost).map fun s => s.setGraph k (g.setNode i { n with phase := .running })
  | 3 => (s.pay r t 1).map fun s => s.setGraph k (g.setNode i { n with phase := .running })
  | 5 => (s.pay r t 1).map fun s => s.setGraph k (if n.phase == .again then g.pass i else g.firePass i)
  | _ => (s.pay r t 1).map fun s => s.setGraph k (g.setNode i { n with phase := .condition })

/-- Whose turn it is at a sequencer: tenant and queue, each after the one served last (02: R44). -/
def State.turnOf (s : State) (region : Nat) : Option (Nat × Nat) :=
  let g := s.region region
  let ready (t : Nat) : List Nat := (rotate (Tab.get {} g.tenants t : Tenant).last (s.queuesOf region t)).filter fun q => (s.pick q).isSome
  ((rotate g.lastTenant (Tab.keys g.tenants)).find? fun t => !(ready t).isEmpty).bind fun t => (ready t).head?.map fun q => (t, q)

/-- One turn of a sequencer (02: R44). A tenant that cannot pay lets the turn pass. -/
def State.turn (s : State) (region : Nat) : State :=
  match s.turnOf region with
  | none => s
  | some (t, q) =>
    let g := s.region region
    let s := s.setRegion region { g with
      lastTenant := t, tenants := Tab.put g.tenants t { (Tab.get {} g.tenants t : Tenant) with last := q } }
    let r := match s.pick q with
      | none => none
      | some (.node k i) => s.dispatchNode k i
      | some (.item it) =>
        let x := s.queue q
        let t := s.setQueue q { x with items := x.items.map fun (i : Item) => if i.hseq = it.hseq then { i with dispatched := true } else i }
        if bits (nth 0 it.words 0) 32 4 = 2 then t.dispatchGraph q it
        else t.dispatchMould q it none (nth 0 it.words 1) (bits (nth 0 it.words 2) 0 32) (bits (nth 0 it.words 3) 0 32)
    r.getD s

/-- ITEM_DISPATCH: one turn of the sequencer (02: R44). -/
def execItemDispatch (region : Nat) (s : State) : Out := .next (s.turn region)

/-! ### Quieting for a mould (03: R62) -/

/-- A message of the class is buffered in a router of the regions (03: R62). -/
def Msg.bufferedIn (m : Msg) (regions classes : List Nat) : Bool :=
  classes.contains m.vc && m.dir ≠ 5 && regions.contains (regionOf m.at_)

/-- A message of the class is held at the front of a cluster of the regions. -/
def State.heldIn (s : State) (regions classes : List Nat) : Bool :=
  s.clusters.any fun e => regions.contains (regionOf e.1) && classes.any fun vc => !(Tab.get [] e.2.inq vc).isEmpty

/-- The classes are quiet (03: R62). -/
def State.isQuiet (s : State) (z : Quieting) : Bool :=
  !(s.net.any fun m => m.bufferedIn z.regions z.classes) && !s.heldIn z.regions z.classes

/-- ROUTE_QUIET: the classes that a mould load quiets are quiet; its entries are written and injection is released, with
all else that the load writes (03: R62). Where a placed core has become busy, injection is released with nothing written,
and the launch waits again (log 38). -/
def execRouteQuiet (region : Nat) (s : State) : Out :=
  .next (match (s.region region).quiet with
    | none => s
    | some z => match z.launch with
      | none => s
      | some key =>
        let l := s.launchOf key
        if !s.isQuiet z then s
        else if Mould.idle l.mould s then (s.releaseQuiet z).loadKept key
        else (s.releaseQuiet z).setLaunch key { l with phase := .waiting })

/-- ROUTE_QUIET_TIMEOUT: a mould is refused with reason 23; a repair drops what is still buffered (03: R62). -/
def execRouteQuietTimeout (region : Nat) (s : State) : Out :=
  .next (match (s.region region).quiet with
    | none => s
    | some z =>
      if s.isQuiet z then s
      else match z.launch with
        | some key => (s.releaseQuiet z).refuseKept key 23 0
        | none =>
          let out := s.net.filter fun m => m.bufferedIn z.regions z.classes
          let s := { s with net := s.net.filter fun m => !m.bufferedIn z.regions z.classes }
          let s := out.foldl (fun s m => s.drop m.at_ cLINK_LOST m) s
          -- messages held at the fronts are buffered too
          (s.clusters.filter fun e => z.regions.contains (regionOf e.1)).foldl (fun s e =>
            z.classes.foldl (fun s vc =>
              let ms := s.inq e.1 vc
              ms.foldl (fun s m => s.drop e.1 cLINK_LOST m) (s.setInq e.1 vc [])) s) s)

/-! ### START, signals, nodes -/

/-- The launch has not started. -/
def Launch.unstarted (l : Launch) : Bool := l.phase == .waiting || l.phase == .quieting || l.phase == .loaded

/-- The graph has a placement node still to launch: one that is not past, or one in the body of a loop that may run
further passes (02: R36, R40). -/
def Graph.toLaunch (g : Graph) : Bool :=
  g.failed.isNone && !g.halted && (span 0 g.nodes.length).any fun i =>
    let n := g.node i
    (n.kind = 1 && (n.phase == .idle || n.phase == .ready)) ||
      (n.kind = 5 && n.phase != .finished && (g.bodyOf i).any fun b => (g.node b).kind = 1)

/-- The launch must wait for an earlier one of its queue (02: R36, rule 3). -/
def State.startWaits (s : State) (key : Nat) (l : Launch) : Bool :=
  (s.launches.any fun e => e.2.queue = l.queue && e.2.unstarted &&
    (before e.2.hseq l.hseq || (e.2.hseq = l.hseq && decide (e.1 < key)))) ||
  s.graphs.any fun e => e.2.queue = l.queue && before e.2.hseq l.hseq && e.2.toLaunch

/-- The payload of a START word: the cores of a cluster that the launch has placed, and the launch (log 22). -/
def Launch.startWords (l : Launch) (key p : Nat) : List Word :=
  [fields ((span 0 4).map fun c => (c, b2n (l.cores.contains (4 * p + c)))), BitVec.ofNat 64 key]

/-- Launches of a queue that were dispatched and could not load go on (log 38). -/
def State.resumeWaiting (s : State) (q : Nat) : State :=
  ((s.launches.filter fun e => e.2.queue = q && e.2.phase == .waiting).map Prod.fst).foldl State.resumeLaunch s

/-- LAUNCH_START: waiting launches go on; the next loaded one gets its id, its clusters START, its seeds leave (01: R28;
02: R36). -/
def execLaunchStart (q : Nat) (s : State) : Out :=
  let s := s.resumeWaiting q
  .next (match s.launches.find? fun e => e.2.queue = q && e.2.phase == .loaded && !s.startWaits e.1 e.2 &&
      s.ctxState (s.queue q).tag = 0 with
    | none => s
    | some (key, l) =>
      let r := q / 256
      let g := s.region r
      let id := g.nextLaunch
      let s := (s.setRegion r { g with nextLaunch := next32 id }).setLaunch key { l with id := id, phase := .started }
      let s := l.cores.foldl (fun s k => s.writeMasked (tcmHome k + 8 * 252) 0xFFFFFFFF (BitVec.ofNat 64 id)) s
      let s := (dedup (l.cores.map corePos)).foldl (fun s p =>
        s.injectIsland r { vc := 0, w0 := header0 p 0 0 chStart 16 0, body := bytesOf (l.startWords key p) }) s
      let s := l.seeds.foldl (fun s e =>
        s.injectIsland r { vc := 5, w0 := header0 (corePos e.1) (coreNo e.1) 5 e.2 0 0 }) s
      if l.expect = 0 then s.endLaunch key 0 else s)

/-- COMPLETION_SIGNAL: the first POST word at the sequencer is counted (02: R36). -/
def execCompletionSignal (region : Nat) (s : State) : Out :=
  .next (
    let g := s.region region
    let q := Tab.get [] g.inq 0
    match q.findIdx? fun m => bits m.w0 19 5 = chPost with
    | none => s
    | some i =>
      let m := nth {} q i
      let s := s.setRegion region { g with inq := Tab.put g.inq 0 (dropNth q i) }
      let ws := wordsOf m.body 2
      let key := bits (nth 0 ws 1) 0 32
      let l := s.launchOf key
      if l.phase != .started then s
      else
        let c := l.count + (nth 0 ws 0).toNat
        let s := s.setLaunch key { l with count := min c l.expect }
        if l.expect ≤ c then s.endLaunch key 0 else s)

/-- NODE_COMPLETE: a barrier node completes at once (02: R39). -/
def execNodeComplete (g n : Nat) (s : State) : Out :=
  .next (
    let x := (s.graph g).node n
    if x.kind = 3 && x.phase == .running then s.completeNode g n (four (x.w 1)) else s)

/-- COPY_NODE_DONE: the island's DMA has written every byte, or has met a fault, and then has written none: the spec does
not say which bytes before a fault stand (DESIGN CHOICE; unsafe; log 102) (02: R39). -/
def execCopyNodeDone (g n : Nat) (s : State) : Out :=
  .next (
    let x := (s.graph g).node n
    let tag := (s.queue (s.graph g).queue).tag
    if x.kind ≠ 2 || x.phase != .running then s
    else match s.ctxRead tag (x.w 2) (x.w 4).toNat with
      | .error (_, a) => s.failNode g n 19 a
      | .ok bs => match (s.countCtx tag (x.w 2) (x.w 4).toNat).ctxWrite tag (x.w 3) bs with
        | .error (_, a) => s.failNode g n 19 a
        | .ok t => t.completeNode g n (four (x.w 1)))

/-- CONDITION_READ (02: R39, R40): a further pass of a loop is an item of the queue: it is dispatched at once where it
has the turn, else by a later turn (02: R34, R43, R44); a failed graph runs no further pass, and its loop ends
unfinished (02: R41). -/
def execConditionRead (g n : Nat) (s : State) : Out :=
  .next (
    let gr := s.graph g
    let x := gr.node n
    let q := s.queue gr.queue
    let a := x.w 2
    if x.phase != .condition || gr.halted then s
    else match (if a.toNat % 8 = 0 then s.ctxRead q.tag a 8 else .error (cMISALIGNED, a)) with
      | .error (_, a) => s.failNode g n 19 a
      | .ok bs =>
        let s := s.countCtx q.tag a 8
        let w := ofBytes bs
        let exits := four (x.w 1)
        match x.kind with
        | 4 => s.completeNode g n (if w ≠ 0 then takeN 2 exits else dropN 2 exits)
        | 6 =>
          let c := nth 0xFFFF (exits ++ four (x.w 3)) w
          s.completeNode g n [if w < 8 && c ≠ 0xFFFF then c else bits (x.w 4) 0 16]
        | _ =>
          if w ≠ 0 && x.passes < x.maxIter then
            if gr.failed.isSome then (s.setGraph g (gr.setNode n { x with phase := .finished })).endGraph g
            else
              let s := s.setGraph g (gr.setNode n { x with phase := .again })
              let turn := (s.turnOf (gr.queue / 256)).map Prod.snd
              if turn = some gr.queue && s.pick gr.queue = some (.node g n) then s.turn (gr.queue / 256) else s
          else s.completeNode g n exits)

/-! ### Invalidating entries (02: R36, R45; 07: R159) -/

/-- LFREE of an engine by an idle core (07: R153, R159). -/
def State.freeEngine (s : State) (k e : Nat) : State :=
  match ((s.core k).lease e).st with
  | .none => s
  | .lost => s.leaseTo k e .none
  | .queued => s.unqueue k e .none
  | _ => s.release k e .none

/-- An entry is invalid and as after reset. -/
def State.invalidate (s : State) (k ch : Nat) : State := s.setHand k ch {}

/-- Messages held for a channel of a core are dropped without a trap (02: R45). -/
def State.dropHeld (s : State) (k ch : Nat) : State :=
  [5, 6, 7].foldl (fun s vc =>
    s.setInq (corePos k) vc ((s.inq (corePos k) vc).filter fun m =>
      !(bits m.w0 14 2 = coreNo k && bits m.w0 19 5 = ch))) s

/-- The masked launches lose their entries on a core; a launch without entries is gone. -/
def State.invalidateOn (s : State) (k : Nat) : State :=
  (s.launches.filter fun e => e.2.phase == .masked && e.2.cores.contains k).foldl (fun s e =>
    let s := (e.2.entries.filter fun x => x.1 = k).foldl (fun s x =>
      let h := (s.core k).hand x.2
      if h.valid && h.launch = e.1 then (if e.2.reported then s else s.dropHeld k x.2).invalidate k x.2 else s) s
    let s := (span 0 8).foldl (fun s eng => s.freeEngine k eng) s
    let l := { e.2 with cores := e.2.cores.filter (· ≠ k), entries := e.2.entries.filter fun x => x.1 ≠ k }
    if l.cores.isEmpty then { s with launches := Tab.drop s.launches e.1 } else s.setLaunch e.1 l) s

/-- ENTRY_INVALIDATE: core `k` is idle (02: R36, R45; 07: R159). -/
def execEntryInvalidate (k : Nat) (s : State) : Out :=
  .next (if (s.core k).ch.isSome || (s.core k).trapped.isSome || s.preempted (corePos k) then s else (s.invalidateOn k).mirror k)

/-! ### TEARDOWN, RESET, REPLAY, DRAIN_COMPLETE (02: R45-R47) -/

/-- An activation of a launch of the queue runs. -/
def State.queueRuns (s : State) (q : Nat) : Bool :=
  s.launches.any fun e => e.2.queue = q && e.2.cores.any fun k =>
    let c := s.core k
    c.ch.any fun ch => (c.hand ch).launch = e.1

/-- The numbers of a queue's items that a drain discards: not dispatched, or a launch whose START has not been sent
(02: R45). A graph record that has been dispatched runs, though none of its nodes has started (DEDUCED; unsafe; log 143). -/
def State.unstarted (s : State) (q : Nat) : List Nat :=
  ((s.queue q).items.filter fun i => !i.dispatched).map Item.hseq ++
  (s.launches.filter fun e => e.2.queue = q && e.2.node = 0xFFFF && e.2.unstarted).map fun e => e.2.hseq

/-- A launch of a draining queue is masked; one whose START has not been sent is abandoned (02: R45; log 42). Where the
partition is pre-empted, what its images hold of the launch is discarded at resume (16: R346). -/
def State.stopLaunch (s : State) (key : Nat) : State :=
  let l := s.launchOf key
  match l.phase with
  | .masked => s
  | .waiting => { s with launches := Tab.drop s.launches key }
  | .quieting => { s.unquiet key with launches := Tab.drop s.launches key }
  | _ => ((s.giveUp key).setLaunch key { l with torn := l.torn || s.ctxState (s.queue l.queue).tag ≠ 0 }).maskLaunch key

/-- The regions of a partition keep that it exits (08: R166). -/
def State.markExit (s : State) (tag : Nat) : State :=
  (maskRegions (s.part tag).regions).foldl (fun s r => s.setRegion r { s.region r with exit := s.leaver r }) s

/-- TEARDOWN and RESET up to the drain (02: R45). -/
def State.drain (s : State) (q cmd : Nat) : State :=
  let x := s.queue q
  if x.st ≠ 1 && x.st ≠ 2 then s
  else
    let gone := s.unstarted q
    let s := s.setQueue q { gone.foldl Queue.finish x with
      st := 3, cmd := cmd, nDiscarded := x.nDiscarded + gone.length, nSuppressed := x.nSuppressed + (x.items.length - gone.length) }
    let s := ((s.launches.filter fun e => e.2.queue = q).map Prod.fst).foldl State.stopLaunch s
    let s : State := { s with graphs := s.graphs.map fun e => if e.2.queue = q then (e.1, { e.2 with halted := true }) else e }
    s.markExit x.tag

def execTeardown (q : Nat) (s : State) : Out := .next (s.drain q 1)
def execReset (q : Nat) (s : State) : Out := .next (s.drain q 2)

/-- The KIND 6 or 8 record, and the state after it (02: R45, R46). It concerns no single work record: NODE is 0xFFFF,
HSEQ and LAUNCH are 0 (DESIGN CHOICE; unsafe; log 103). The queue's graphs go with it, a copy node that is under way too,
which writes no more (DEDUCED; unsafe; log 143). -/
def State.drained (s : State) (q : Nat) : State :=
  let x := s.queue q
  let kind := if x.cmd = 1 then 6 else 8
  let s := s.tell q (completion kind 0 0xFFFF 0 0 (fields [(0, x.nDispatched), (32, x.nCompleted)])
    (fields [(0, x.nSuppressed), (32, x.nDiscarded)]))
  let s := { s with graphs := s.graphs.filter fun e => e.2.queue ≠ q }
  let x := s.queue q
  if x.cmd = 1 then s.setQueue q { x with st := 4, items := [] }
  else s.setQueue q { x with
    st := 1, items := [], ended := [], consumed := x.tail, doneh := x.tail, nDispatched := 0, nCompleted := 0, nSuppressed := 0,
    nDiscarded := 0 }

/-- DRAIN_COMPLETE: no activation of the draining queue runs (02: R45). -/
def execDrainComplete (q : Nat) (s : State) : Out :=
  .next (if (s.queue q).st ≠ 3 || s.queueRuns q then s else s.drained q)

/-- The records after CHEAD are written again (02: R47): a KIND 7 record first where some are no longer kept. In that
record NODE is 0xFFFF, HSEQ, LAUNCH and USER are 0 (DESIGN CHOICE; unsafe; log 103). With a full ring that record
waits, and the kept ones are written at once (DESIGN CHOICE; unsafe; log 125). -/
def State.replay (s : State) (q : Nat) : State :=
  let x := s.queue q
  if x.st = 3 || x.st = 0 then s
  else
    let n := if before x.chead x.cseq then ahead x.cseq x.chead else 0
    let kept := x.kept.filter fun w => before x.chead (bits (nth 0 w 0) 0 32)
    let s := if kept.length < n then
        s.tell q (completion 7 0 0xFFFF 0 0 0 (BitVec.ofNat 64 (n - kept.length)))
      else s
    kept.foldl (fun s w => s.compSlot q (bits (nth 0 w 0) 0 32) w) s

/-- REPLAY. -/
def execReplay (q : Nat) (s : State) : Out := .next (s.replay q)

end Sys2Proof.Machine
end

