-- ==== Sys2Proof/Machine/Resume.lean ====
section
/-! DEFINITION. The return from a trap (16: R338), the end of activations by the island (01: R19; 02: R45), checkpoints
and rollback of a lockstep pair (16: R349, R351). -/

namespace Sys2Proof.Machine

/-! ### What the frame says (16: R336) -/

/-- KIND of the frame: 0 P, 1 D, 2 S, 3 G, 4 X. -/
def Trapped.kind (t : Trapped) : Nat := bits (nth 0 t.frame 0) 8 3
/-- The instruction that the frame names. -/
def Trapped.pc (t : Trapped) : Word := nth 0 t.frame 1

/-- The trap message of a core leaves its island's VC0 input with the answer to it (log 44). -/
def State.takeMessage (s : State) (k : Nat) : State :=
  let r := regionOf (corePos k)
  let g := s.region r
  let q := Tab.get [] g.inq 0
  match q.findIdx? fun m => bits m.w0 19 5 = 0 && bits m.w0 24 16 = 64 && srcPos m.w1 = corePos k && srcCore m.w1 = coreNo k with
  | some i => s.setRegion r { g with inq := Tab.put g.inq 0 (dropNth q i) }
  | none => s

/-- The trap ends and the core goes on at `pc`; no instruction has transferred control there (04: R72). A wait that it
leaves is over (07: R140). -/
def State.continueAt (s : State) (k : Nat) (pc : Word) : State :=
  let c := s.core k
  let c := if pc = c.pc then { c with blocked := none } else c.leave
  ((s.setCore k { c with trapped := none, pc := pc, came := none }).takeMessage k).mirror k

/-- The core goes on at the boundary at which it stopped. -/
def State.continueHere (s : State) (k : Nat) : State :=
  let c := s.core k
  ((s.setCore k { c with trapped := none, blocked := none }).takeMessage k).mirror k

/-- A RESUME of a core that is TRAPPED; the second core of a pair follows the first (16: R347). -/
def State.resume (s : State) (k : Nat) (go : Trapped → State) : Out :=
  .next (match (s.core k).trapped with
    | some t => if (s.core k).pair == .second then s else go t
    | none => s)

/-! ### What a D or G cause left (16: R338; 15: R331; 13: R265) -/

/-- A further failed store whose cause is still due holds the store buffer (15: R331). -/
def Core.stillHeld (c : Core) : Option Buffered :=
  (c.due.find? fun d => d.kind = 1 && d.slot.store).map fun d => d.slot.failed

/-- The owed words of a failed load are full with their bytes (05: R96); a failed store is dropped. -/
def State.abandonSlot (s : State) (k : Nat) (l : Slot) : State :=
  if l.store then s.setCore k { s.core k with sbHeld := (s.core k).stillHeld }
  else s.fillWords k [wordsCovering l.dst l.len]

/-- A failed store takes its place in the buffer: at the head, but behind an earlier one that failed too and is there
again (15: R313, R331). -/
def placeFailed (b : Buffered) : List Buffered → List Buffered
  | [] => [b]
  | e :: t => if e.seq < b.seq then e :: placeFailed b t else b :: e :: t

/-- The failed access is issued again; a load needs a free slot. -/
def State.reissue (s : State) (k : Nat) (l : Slot) : Option State :=
  let c := s.core k
  if l.store then some (s.setCore k { c with sbHeld := c.stillHeld, sbuf := placeFailed l.failed c.sbuf })
  else match c.freeSlot with
    | none => none
    | some i =>
      let t := (s.window (corePos k) l.acc.addr).getD (.virt (bits l.acc.addr 0 48))
      some ((s.setCore k { c with slots := setNth c.slots i (some { l with performed := false }) }).injectCore k
        (requestMsg l.acc i 0 (t.server k)))


/-- The operation that a fault stopped on an engine. -/
def Core.stuckOn (c : Core) (e : Nat) : Option EngOp := Tab.get none (c.stuck.map fun x => (x.1, some x.2)) e

/-- The stopped operation returns to the head of its engine's queue, and VALID clears. -/
def State.restartOp (s : State) (k e : Nat) : State :=
  let c := s.core k
  match c.stuckOn e with
  | none => s
  | some op =>
    let p := corePos k
    let s := s.setCore k { c with
      stuck := Tab.drop c.stuck e, pidx := Tab.put c.pidx e (unValid (Tab.get 0 c.pidx e)) }
    let cl := s.cluster p
    let op := { op with early := op.early.map fun _ => s.mem }
    s.setCluster p { cl with inflight := Tab.put cl.inflight e ((coreNo k, op) :: Tab.get [] cl.inflight e) }

/-- The earliest operation that an eviction stopped or removed, or one that a fault had stopped before its lease was
lost, returns to the head of its engine's queue, where it owes its words again and waits for the lease; it stands before
the 8 entries of the dispatch queue and takes none of them; it begins at its index where it may resume there (13: R266;
16: R338, R344; log 110). -/
def State.returnOp (s : State) (k e : Nat) (op : EngOp) : State :=
  let c := s.core k
  let op := if resumable op.instr then op else { op with prog := 0, begun := false, carry := 0, flags := 0, hits := [] }
  s.setCore k { c with
    dispq := { op with back := true } :: c.dispq, reg := RegSpace.overRanges RegSpace.owe c.reg op.writes
    pidx := Tab.put c.pidx e (unValid (Tab.get 0 c.pidx e)) }

/-- The stopped operation is abandoned: its owed words are full with their bytes (05: R96). -/
def State.abandonOp (s : State) (k e : Nat) : State :=
  let c := s.core k
  match c.stuckOn e with
  | none => s
  | some op => ((s.setCore k { c with stuck := Tab.drop c.stuck e }).fillWords k op.writes).syncBanks k e

/-- NEXT and GOTO of a D or G cause. -/
def State.abandonCause (s : State) (k : Nat) (t : Trapped) : State :=
  if t.kind = 1 then s.abandonSlot k t.due.slot
  else if t.kind = 3 && t.due.cause ≠ cLEASE_LOST then s.abandonOp k t.due.unit
  else s

/-! ### The actions (16: R338) -/

/-- The enabled flags of FCSR, cleared (05: R101). -/
def clearEnabled (v : Word) : Word := v &&& ~~~(((v >>> 16) &&& 0x3F#64) <<< 8)

/-- The standard response to an arithmetic flag before its RETRY: the KIND 4 event to the tenant, and the enabled flags
cleared, unless the tenant's policy asks for something else (16: R333; 18: R375; log 136). -/
def State.answerFlag (s : State) (k : Nat) (t : Trapped) : State :=
  let tag := (s.region (regionOf (corePos k))).tag
  if (s.part tag).flagPolicy then s
  else
    let p := corePos k
    let w1 := fields [(0, posX p), (7, posY p), (14, coreNo k), (16, bits (nth 0 t.frame 0) 0 7)]
    let s := s.setCore k { s.core k with fcsr := clearEnabled (s.core k).fcsr }
    s.postEvent tag 4 w1 (nth 4 t.frame 0) t.pc

/-- RETRY of a trap. -/
def State.retryTrap (s : State) (k : Nat) (t : Trapped) : State :=
  match t.kind with
  | 0 => s.continueAt k t.pc
  | 2 => (s.answerFlag k t).continueAt k t.pc
  | 1 => match s.reissue k t.due.slot with
    | some u => u.continueHere k
    | none => s
  | 3 => (if t.due.cause = cLEASE_LOST || ((s.core k).stuckOn t.due.unit).isNone then s.returnOp k t.due.unit t.due.op
      else s.restartOp k t.due.unit).continueHere k
  | _ => s.continueHere k

/-- RESUME_RETRY. -/
def execResumeRetry (k : Nat) (s : State) : Out := s.resume k fun t => s.retryTrap k t

/-- The halfword at a code address, where it can be read (16: R338). -/
def State.codeHalf (s : State) (k : Nat) (a : Word) : Option Nat :=
  match (s.fetchHalf k a a).1 with
  | .half h => some h
  | .fault _ => none
  | .wait =>
    let r := regionOf (corePos k)
    if isTranslated a then
      match s.translate (s.partOf r).root (bits a 0 48) .fetch with
      | .ok pa => (memHome pa).map fun h => s.readMem h 2
      | .error _ => none
    else some (s.readMem (sramHome r + a.toNat % 2 ^ 24) 2)

/-- The address after the instruction that a P or S cause names (16: R338). -/
def State.afterTrap (s : State) (k : Nat) (pc : Word) : Word :=
  if bit pc 0 then pc + 2
  else match s.codeHalf k pc with
    | some h => if halfClass h = 3 then pc + 4 else pc + 2
    | none => pc + 2

/-- NEXT of a trap. -/
def State.nextTrap (s : State) (k : Nat) (t : Trapped) : State :=
  if t.kind = 0 || t.kind = 2 then s.continueAt k (s.afterTrap k t.pc)
  else (s.abandonCause k t).continueHere k

/-- RESUME_NEXT. -/
def execResumeNext (k : Nat) (s : State) : Out := s.resume k fun t => s.nextTrap k t

/-- GOTO of a trap: s63 takes the frame's PC, once no earlier access of s63 is under way (05: R93; log 111). -/
def State.gotoTrap (s : State) (k : Nat) (target : Word) (t : Trapped) : State :=
  let s := s.abandonCause k t
  let c := s.core k
  (if s.writeWaits k 63 then s.setCore k { c with link := some t.pc }
    else s.setCore k { c with reg := c.reg.put 63 t.pc }).continueAt k target

/-- RESUME_GOTO. -/
def execResumeGoto (k : Nat) (target : Word) (s : State) : Out := s.resume k fun t => s.gotoTrap k target t

/-- What END discards: D causes, failed stores, stopped operations and those queued behind them. -/
def State.discard (s : State) (k : Nat) (t : Option Trapped) : State :=
  let s := match t with
    | some t => if t.kind = 1 then s.abandonSlot k t.due.slot else s
    | none => s
  let ds := (s.core k).due.filter fun d => d.kind = 1
  let gs := (t.toList.filter (·.due.kind = 3)).map (·.due.unit) ++ ((s.core k).due.filter fun d => d.kind = 3).map (·.unit)
  let s := ds.foldl (fun s d => s.abandonSlot k d.slot) s
  let c := s.core k
  let s := s.setCore k { c with due := c.due.filter (fun d => d.kind = 4), sbHeld := none }
  (dedup (Tab.keys c.stuck ++ gs)).foldl (fun s e =>
    let s := (s.abandonOp k e).dropOps k e
    let c := s.core k
    s.setCore k { c with pidx := Tab.put c.pidx e (unValid (Tab.get 0 c.pidx e)) }) s

/-- The running activation's launch fails with a reason (16: R333). -/
def State.failRunning (s : State) (k reason : Nat) : State :=
  let c := s.core k
  match c.ch with
  | none => s
  | some ch => s.endLaunch (c.hand ch).launch reason

/-- END of a trap: the activation ends once nothing of it is under way; until then the core stays TRAPPED. With `fail`
its launch fails, reason 22. -/
def State.endTrap (s : State) (k : Nat) (fail : Bool) (t : Trapped) : State :=
  let s := s.discard k (some t)
  let c := s.core k
  let s := s.setCore k { c with trapped := some { t with due := {} } }
  if !s.quiet k then s
  else
    let s := if fail then s.failRunning k 22 else s
    (s.continueHere k).endActivation k 3

/-- RESUME_END. -/
def execResumeEnd (k : Nat) (fail : Bool) (s : State) : Out := s.resume k fun t => s.endTrap k fail t

/-! ### Ending an activation at once (02: R45; 03: R53) -/

/-- Operations of core `k` run to their end where they can, in order; `fuel` bounds their number. -/
def State.finishOps (s : State) (k : Nat) : Nat → State
  | 0 => s
  | n + 1 =>
    let p := corePos k
    let s := (span 0 8).foldl (fun s e =>
      match s.running p e with
      | some (j, op) => if j = k then s.endOp p e (isZdgo op.instr) else s
      | none => s) s
    if (s.opsOf k).isEmpty then s else s.finishOps k n

/-- What still stands of the core's operations and loads is abandoned: owed words are full with their bytes, replies
that come later write nothing (log 45). -/
def State.abandonRest (s : State) (k : Nat) : State :=
  let s := (span 0 8).foldl (fun s e => (s.stopEngine k e (State.cutOp k 0)).2) s
  let ls := (s.core k).inUse.filter fun l => !l.store
  let s := s.fillWords k (ls.map fun l => wordsCovering l.dst l.len)
  let c := s.core k
  s.setCore k { c with slots := c.slots.map fun l => l.map fun (x : Slot) => if x.store then x else { x with len := 0 } }

/-- The island ends the activation of core `k` at once, as it ends a trapped one (01: R19). -/
def State.endNow (s : State) (k : Nat) : State :=
  let c := s.core k
  if c.ch.isNone || c.pair == .second then s
  else
    let s := ((s.discard k c.trapped).finishOps k 16).abandonRest k
    (if c.trapped.isSome then s.continueHere k else s).endActivation k 3

/-- The activations of a draining queue end, its entries on their cores are invalid, and the record is written at once
(02: R45). -/
def State.abort (s : State) (q : Nat) : State :=
  if (s.queue q).st ≠ 3 then s
  else
    let ks := (s.launches.filter fun e => e.2.queue = q).flatMap fun e => e.2.cores.filter fun k =>
      (s.core k).ch.any fun ch => ((s.core k).hand ch).launch = e.1
    ((dedup ks).foldl (fun s k => (s.endNow k).invalidateOn k) s).drained q

/-- ABORT. -/
def execAbort (q : Nat) (s : State) : Out := .next (s.abort q)

/-! ### Steps 2 and 3 of a save (16: R341) -/

/-- Clusters in service of a partition. -/
def State.partClusters (s : State) (tag : Nat) : List Nat :=
  ((maskRegions (s.part tag).regions).flatMap regionClusters).filter fun p => s.inService p

/-- Every lease of a core becomes LOST and its operations are stopped (07: R159). -/
def State.loseLeases (s : State) (k : Nat) : State :=
  (span 0 8).foldl (fun s e =>
    match ((s.core k).lease e).st with
    | .held | .grace => s.evict k e 0 .lost
    | .queued => s.unqueue k e .lost
    | _ => s) s

/-- Step 2 of a save is done for the core: its last STV is in the store buffer, a pair has taken its checkpoint, after
its rollback (15: R314; 16: R341, R346, R349). A failed store holds up the words behind it, which are saved; an LDFE,
`waits`, does until step 3 stops it. -/
def Core.atRest (c : Core) (waits : Bool) : Bool :=
  c.pair == .second || (!c.rollback && !c.ckptDue && (c.stream.isEmpty || c.sbHeld.isSome || waits))

/-- Step 3 of a save, once step 2 is done in every cluster of the partition: every lease is lost, every operation stopped
(16: R341). -/
def State.releaseLeases (s : State) (tag : Nat) : State :=
  let ks := (s.partClusters tag).flatMap fun p => span (4 * p) 4
  if s.ctxState tag ≠ 1 || (s.part tag).released || !ks.all (fun k => (s.core k).atRest (s.ldfeBefore k (s.core k).nextSeq)) then s
  else ks.foldl (fun s k => (s.loseLeases k).mirror k) (s.setPart tag { s.part tag with released := true })

/-! ### Lockstep (16: R349, R351) -/

/-- LOCKSTEP_CHECKPOINT: where an instruction, a trap, the count of 1,024 or a pre-emption asks for
one. -/
def execLockstepCheckpoint (k : Nat) (s : State) : Out :=
  let c := s.core k
  .next (if c.pair == .first && !c.rollback && 
      (c.ckptDue || decide (1024 ≤ c.sinceCkpt) || c.blocked = some .checkpoint || c.stepFrame || s.preempted (corePos k)) &&
      !(c.link.isSome && s.writeWaits k 63) then
      (((s.setLink k).checkpoint k).mirror k).releaseLeases (s.region (regionOf (corePos k))).tag
    else s)

/-- Nothing that was issued since the checkpoint can still end: every load is answered, every operation is over or held
up by a failure. -/
def State.settled (s : State) (k : Nat) : Bool :=
  let c := s.core k
  c.inUse.all (fun l => decide (l.seq < c.shadow.seq)) &&
    (s.opsOf k).all fun o => decide (o.seq < c.shadow.seq) || (s.heldUp k).contains o

/-- The causes of what was issued since the checkpoint are met again on replay (16: R351). -/
def Core.replayed (c : Core) (d : Due) : Bool :=
  (d.kind = 1 && decide (c.shadow.seq ≤ d.slot.seq)) || (d.kind = 3 && decide (c.shadow.seq ≤ d.op.seq))

/-- A word that was owed at the checkpoint is as it stands now. -/
def RegSpace.keepOwed (g now : RegSpace) : RegSpace :=
  (g.pend.filter fun e => e.2).foldl (fun g e =>
    { g with words := Tab.put g.words e.1 (now.word e.1), empty := Tab.put g.empty e.1 (now.isEmpty e.1)
             pend := Tab.put g.pend e.1 (now.isPend e.1) }) g

/-- LOCKSTEP_ROLLBACK: once the operations since the checkpoint are over, what is held is discarded and the shadow
restored; an operation that failed since, and its cause, are discarded with them (16: R351; log 108). A pre-emption then
has its checkpoint (16: R341, R346). -/
def execLockstepRollback (k : Nat) (s : State) : Out :=
  .next (
    let c := s.core k
    if !c.rollback || !s.settled k then s
    else
      let h := c.shadow
      let old (o : EngOp) : Bool := decide (o.seq < h.seq)
      let cl := s.cluster (corePos k)
      let s := s.setCluster (corePos k) { cl with
        inflight := cl.inflight.map fun x => (x.1, x.2.filter fun o => o.1 ≠ coreNo k || old o.2) }
      (s.setCore k { c with
        reg := h.reg.keepOwed c.reg, pc := h.pc, came := h.came, fcsr := h.fcsr, vbase := h.vbase, abase := h.abase,
        pidx := h.pidx, tms := h.tms, fmts := h.fmts, held := [], sinceCkpt := 0, ckptDue := s.preempted (corePos k), rollback := false,
        blocked := none, link := none, dispq := c.dispq.filter old, stuck := c.stuck.filter (fun x => old x.2),
        due := c.due.filter fun d => !c.replayed d }).mirror k)

end Sys2Proof.Machine
end

