-- ==== Sys2Proof/Machine/Repair.lean ====
section
/-! DEFINITION. Link faults, route repair and retirement (03: R51-R55, R57, R63, R64; 17: R376, R377; 16: R351). -/

namespace Sys2Proof.Machine

/-! ### Map updates (03: R50, R54; 10: R192) -/

def State.setMapEntry (s : State) (p v : Nat) : State := s.writeMem (mapHome p) (toBytes 2 v)

/-- Bits set in a defect map entry; a good position becomes degraded (03: R50). -/
def State.markMap (s : State) (p mask : Nat) : State :=
  let v := s.mapEntry p ||| mask
  s.setMapEntry p (if v % 4 = 0 then v + 2 else v)

/-- HEALTH becomes retired (03: R52). -/
def State.markRetired (s : State) (p : Nat) : State := s.setMapEntry p (s.mapEntry p / 4 * 4 + 1)

/-- The 16 bytes of a row of the logical map: its unretired positions from west to east (03: R54). -/
def State.logicalRow (s : State) (r ly : Nat) : List Byte :=
  let xs := (span 0 16).filter fun x => !s.isRetired (posOf (16 * (r % 8) + x) (16 * (r / 8) + ly))
  takeN 16 (xs.map (BitVec.ofNat 8) ++ (span 0 16).map fun _ => (0xFF : Byte))

/-- The logical map follows the defect map, and the sequence number rises (03: R54; 10: R192). -/
def State.publish (s : State) (r : Nat) : State :=
  let base := sramHome r + 0xF00000
  let s := (span 0 16).foldl (fun s ly => s.writeMem (base + 0x200 + 16 * ly) (s.logicalRow r ly)) s
  s.writeMem (base + 0x300) (toBytes 2 ((s.readMem (base + 0x300) 2 + 1) % 65536))

/-! ### R55 -/

/-- A table with its firmware entries alone (03: R59). -/
def firmwareOnly (t : Tab RouteEntry) : Tab RouteEntry := t.filter fun e => decide (e.1 < 8)

/-- Two positions are at most 2 hops apart on the firmware routes of VC5 (03: R55). -/
def State.near (s : State) (a d : Nat) : Bool :=
  match s.follow (fun q => firmwareOnly (s.table q 5)) true (fun _ => true) false d 512 a 0 false with
  | .arrived n => decide (n ≤ 2)
  | _ => false

/-- The first pair of logical neighbours of a region that breaks R55: the column of its east member. -/
def State.farPair (s : State) (r : Nat) : Option Nat :=
  ((span 0 16).flatMap fun ly =>
    let y := 16 * (r / 8) + ly
    let ps := ((span 0 16).map fun x => posOf (16 * (r % 8) + x) y).filter fun p => !s.isRetired p
    (ps.zip (ps.drop 1)).filter fun e => !(s.near e.1 e.2 && s.near e.2 e.1)).head?.map fun e => posX e.2

/-- Clusters of a column of a region that are in service. -/
def State.columnOf (s : State) (r x : Nat) : List Nat :=
  (regionClusters r).filter fun p => posX p = x && s.inService p

/-- Every position of some column of a region that could hold a cluster is retired. -/
def State.wholeColumn (s : State) (r : Nat) : Bool :=
  (span 0 16).any fun x => (regionClusters r).all fun p => posX p % 16 ≠ x || s.isRetired p

/-- The check of R55: the clusters that it retires. A region with a wholly retired column is exempt. -/
def State.columnCheck (s : State) (r : Nat) : List Nat × State :=
  if (s.region r).columnRetired || s.wholeColumn r then ([], s.setRegion r { s.region r with columnRetired := true })
  else match s.farPair r with
    | none => ([], s)
    | some x =>
      let ps := s.columnOf r x
      (ps, (ps.foldl State.markRetired s).setRegion r { s.region r with columnRetired := true })

/-! ### Retirement (17: R376, R377; 03: R53, R57) -/

/-- The value of QCAP for a partition (03: R57). -/
def State.capWord (s : State) (tag : Nat) : Word :=
  let x := s.part tag
  let rs := maskRegions x.regions
  fields [(0, rs.foldl (fun n r => n + ((regionClusters r).filter fun p => s.inService p).length) 0), (16, x.retired % 65536),
    (32, rs.length)]

/-- A launch that placed a task on the cluster ends with reason 20 (03: R53; 17: R377). -/
def State.failPlaced (s : State) (p : Nat) : State :=
  (s.launches.filter fun e => e.2.cores.any fun k => corePos k = p).foldl (fun s e => s.endLaunch e.1 20) s

/-- Retirement of clusters whose map entries say so: flash, activations and launches, what they held is lost
(17: R376; 03: R53; log 46). What their queues have taken is discarded, with no report and no reply (DEDUCED; unsafe;
log 46). -/
def State.retire_ (s : State) (ps : List Nat) : State :=
  let s := { s with board := { s.board with flash := s.board.flash ++ ps } }
  ps.foldl (fun s p =>
    let s := (span (4 * p) 4).foldl (fun s k => s.endNow k) s
    let s := s.failPlaced p
    let s := (span (4 * p) 4).foldl (fun s k => s.setCore k {}) s
    let s := (s.setCluster p {}).dropBytes p
    let s : State := { s with launches := s.launches.map fun e =>
      (e.1, { e.2 with cores := e.2.cores.filter (fun k => corePos k ≠ p), entries := e.2.entries.filter fun x => corePos x.1 ≠ p }) }
    s.revote (regionOf p)) s

/-- The end of a retirement: maps, R55, QCAP copies, and the KIND 1 event (17: R376; 18: R375). `rs` the regions whose
map changed, `cleared` the classes whose user entries were cleared, as a mask. -/
def State.reportRetired (s : State) (tag : Nat) (ps rs : List Nat) (cleared cause : Nat) : State :=
  let r := rs.foldl (fun (b : List Nat × State) r =>
    let c := b.2.columnCheck r
    (b.1 ++ c.1, c.2.publish r)) ([], s)
  let all := ps ++ r.1
  let s := r.2.retire_ all
  if tag = 0 then s
  else
    let s := s.setPart tag { s.part tag with retired := (s.part tag).retired + all.length }
    let mask := rs.foldl (fun m r => m + 2 ^ r) 0
    let e := (fields [(0, mask), (48, cleared), (51, cause)], s.capWord tag, BitVec.ofNat 64 all.length)
    (s.setPart tag { s.part tag with retiring := (s.part tag).retiring ++ [e] }).postRetired tag

/-- A map has changed where no route of a partition is concerned: the check of R55, then it is published. -/
def State.settleMap (s : State) (r : Nat) : State :=
  let c := s.columnCheck r
  if c.1.isEmpty then c.2.publish r else s.reportRetired (s.region r).tag [] [r] 0 0

/-- A cluster is retired by itself (16: R351; 17: R376). -/
def State.retireCluster (s : State) (p cause : Nat) : State :=
  let r := regionOf p
  (s.markRetired p).reportRetired (s.region r).tag [p] [r] 0 cause

/-! ### LINK_FAULT (03: R63) -/

/-- The link crosses a reticle seam (00: R1; 03: R51). -/
def seam (p dir : Nat) : Bool :=
  match nextPos p dir with
  | some q => regionOf p ≠ regionOf q
  | none => false

/-- The spare of a direction is free: it still runs on its stitched lane, and the spare passed self-test (03: R64). -/
def State.spareFree (s : State) (p dir : Nat) : Bool :=
  seam p dir && !(s.router p).spare.contains dir && !s.board.badSpares.contains (p, dir)

/-- Step 1 of R64: the direction runs on its spare. -/
def State.moveToSpare (s : State) (p dir q : Nat) : State :=
  let x := s.router p
  let s := s.setRouter p { x with spare := x.spare ++ [dir], broken := x.broken.filter (· ≠ dir) }
  (s.markMap p (2 ^ (8 + dir))).markMap q (2 ^ (8 + opposite dir))

/-- The direction carries nothing: BROKEN at both ends (03: R50). -/
def State.markBroken (s : State) (p dir q : Nat) : State := (s.markMap p (2 ^ (4 + dir))).markMap q (2 ^ (4 + opposite dir))

/-- All classes of a partition begin to be quiet for a repair. A mould's quieting that stands gives way: its launch waits
again (03: R62-R64). -/
def State.quietAll (s : State) (tag : Nat) : State :=
  let rs := maskRegions (s.part tag).regions
  let keys := rs.filterMap fun r => (s.region r).quiet.bind Quieting.launch
  let s := keys.foldl (fun s key => s.setLaunch key { s.launchOf key with phase := .waiting }) s
  let z : Quieting := { classes := span 0 8, regions := rs, repair := some tag }
  rs.foldl (fun s r => s.setRegion r { s.region r with quiet := some z }) s

/-- Whether message number i has flits stranded on a link that fails: it has left the local port, its way leads over the
link, and it is the first such message of its VC, for which a free value `f` says so (log 47). What has still to be
injected waits (03: R63). -/
def State.stranded (s : State) (pos dir : Nat) (f : Word) (i : Nat) : Bool :=
  let crosses (j : Nat) : Bool :=
    let m := nth {} s.net j
    m.at_ = pos && m.dir ≠ 5 && destPos m.w0 ≠ pos && !s.behind j m && s.portTo m.vc pos (destPos m.w0) = dir
  let vc := (nth {} s.net i : Msg).vc
  crosses i && bit f vc && !((span 0 i).any fun j => (nth {} s.net j : Msg).vc = vc && crosses j)

/-- LINK_FAULT: the direction is broken at once; what is stranded on it is dropped, at most one message of each VC
(log 47). A link within a partition waits for the repair of its routes. -/
def execLinkFault (pos dir : Nat) (s : State) : Out :=
  .next (match nextPos pos dir with
    | none => s
    | some q =>
      let x := s.router pos
      if x.broken.contains dir then s
      else
        let s := s.setRouter pos { x with broken := x.broken ++ [dir] }
        let f := s.fresh 33
        let gone := (span 0 s.net.length).filter fun i => s.stranded pos dir f.1 i
        let out := gone.map fun i => nth {} s.net i
        let keep := ((span 0 s.net.length).filter fun i => !gone.contains i).map fun i => nth {} s.net i
        let s := out.foldl (fun s m => s.drop pos cLINK_LOST m) { f.2 with net := keep }
        let a := (s.region (regionOf pos)).tag
        let b := (s.region (regionOf q)).tag
        if a ≠ 0 && a = b then
          (s.setPart a { s.part a with broken := (s.part a).broken ++ [(pos, dir)] }).quietAll a
        else
          let s := if s.spareFree pos dir then s.moveToSpare pos dir q else s.markBroken pos dir q
          (dedup [regionOf pos, regionOf q]).foldl State.settleMap s)

/-! ### ROUTE_REPAIR (03: R64) -/

/-- The position that a link in service leads to within some regions. -/
def State.leads (s : State) (inside : Nat → Bool) (p dir : Nat) : Option Nat :=
  (nextPos p dir).filter fun q => inside (regionOf q) && !(s.router p).broken.contains dir

/-- Positions that reach a destination by moves other than west, with the links they need, found link by link from those
that `n` links do (03: R58). -/
def State.growEast (s : State) (inside : Nat → Bool) : Nat → Nat → List Nat → Tab Nat → Tab Nat
  | 0, _, _, seen => seen
  | f + 1, n, front, seen =>
    let before (q : Nat) : List Nat := [0, 1, 2].filterMap fun dir =>
      (nextPos q (opposite dir)).filter fun p => inside (regionOf p) && s.leads inside p dir = some q && !seen.any (·.1 = p)
    let new := dedup (front.flatMap before)
    if new.isEmpty then seen else s.growEast inside f (n + 1) new (new.foldl (fun t p => Tab.put t p (n + 1)) seen)

/-- The port of a router towards a destination on a west-first route in service: west until the destination can be reached
without, then a shortest way, XY order where it is one (03: R58, R64; log 48). None where no such route exists. -/
def State.bestPort (s : State) (inside : Nat → Bool) (dist : Tab Nat) (p d : Nat) : Option Nat :=
  let far (q : Nat) : Option Nat := (dist.find? (·.1 = q)).map Prod.snd
  match far p with
  | none => (s.leads inside p 3).map fun _ => 3
  | some n => [xyPort p d, 1, 0, 2].find? fun dir =>
      dir ≠ 3 && (s.leads inside p dir).any fun q => (far q).any fun m => m + 1 = n

/-- Router, destination and port wherever XY order is not the way to take. -/
def State.exceptions (s : State) (part : Nat) : List (Nat × Nat × Nat) :=
  let inside (r : Nat) : Bool := part / 2 ^ r % 2 = 1
  (partPositions part).flatMap fun d =>
    let dist := s.growEast inside 12288 0 [d] [(d, 0)]
    ((partPositions part).filter (· ≠ d)).filterMap fun p =>
      ((s.bestPort inside dist p d).filter (· ≠ xyPort p d)).map fun port => (p, d, port)

/-- Numbers from `a` up, at most `n`, as long as a test holds. -/
def upTo (a : Nat) (ok : Nat → Bool) : Nat → Nat
  | 0 => a
  | n + 1 => if ok (a + 1) then upTo (a + 1) ok n else a

/-- Rectangles of one port each over the destinations of a router, from the first destination on (03: R59). -/
def coverAll : Nat → List (Nat × Nat) → List RouteEntry
  | 0, _ => []
  | _, [] => []
  | f + 1, (d, port) :: t =>
    let ds := (d, port) :: t
    let x1 := upTo (posX d) (fun x => ds.contains (posOf x (posY d), port)) 127
    let row (y : Nat) : Bool := (span (posX d) (x1 + 1 - posX d)).all fun x => ds.contains (posOf x y, port)
    let e : RouteEntry := { valid := true, x0 := posX d, x1 := x1, y0 := posY d, y1 := upTo (posY d) row 95, port := port }
    e :: coverAll f (t.filter fun z => !e.covers z.1)

/-- The firmware entries of a partition's routers, in every class, lead round every broken link (03: R59, R64; log 48). A
router holds eight. -/
def State.detour (s : State) (part : Nat) : State :=
  let ex := s.exceptions part
  (partPositions part).foldl (fun s p =>
    let es := takeN 8 (coverAll 12288 ((ex.filter (·.1 = p)).map Prod.snd))
    (span 0 8).foldl (fun s c =>
      let x := s.router p
      let t := (es.zipIdx.map fun e => (e.2, e.1)) ++ (s.table p c).filter fun e => decide (8 ≤ e.1)
      s.setRouter p { x with tables := Tab.put x.tables c t }) s) s

/-- The region lies in the partition. -/
def insideOf (part r : Nat) : Bool := part / 2 ^ r % 2 = 1

/-- Pairs of clusters in service of a partition whose route in a class fails check 3 or 4 (03: R61). -/
def State.badPairs (s : State) (part cls : Nat) : List (Nat × Nat) :=
  let good := (partPositions part).filter fun p => s.inService p
  good.flatMap fun a => (good.filter fun d => a ≠ d &&
    (s.turns (fun q => s.table q cls) a d || s.cuts (fun q => s.table q cls) (insideOf part) a d)).map fun d => (a, d)

/-- Pairs whose route in a class fails check 3, 4 or 5 (03: R61). -/
def State.failing (s : State) (part cls : Nat) : List (Nat × Nat) :=
  let all := partPositions part
  s.badPairs part cls ++ all.flatMap fun a =>
    (all.filter fun d => a ≠ d && s.loops (fun q => s.table q cls) (insideOf part) a d).map fun d => (a, d)

/-- Routers that a route passes, from its source on. -/
def State.passed (s : State) (cls d : Nat) : Nat → Nat → List Nat
  | 0, _ => []
  | f + 1, p => if p = d then [] else p :: match nextPos p (s.portTo cls p d) with
    | some q => s.passed cls d f q
    | none => []

/-- User entries that a failing route of a class uses are cleared, route by route (03: R64): the state, and whether
some were. -/
def State.clearUser (s : State) (part cls : Nat) : Nat → Bool → Bool × State
  | 0, b => (b, s)
  | f + 1, b =>
    match (s.failing part cls).find? fun e => (s.passed cls e.2 512 e.1).any fun p =>
        ((s.table p cls).find? fun x => x.2.covers e.2).any fun x => decide (8 ≤ x.1) with
    | none => (b, s)
    | some e =>
      let t := (s.passed cls e.2 512 e.1).foldl (fun s p =>
        match (s.table p cls).find? fun x => x.2.covers e.2 with
        | some x => if x.1 < 8 then s
            else let r := s.router p
                 s.setRouter p { r with tables := Tab.put r.tables cls (Tab.drop (s.table p cls) x.1) }
        | none => s) s
      t.clearUser part cls f true

/-- The segments that step 3 of R64 retires for cut-off pairs. -/
def State.segments (s : State) (part : Nat) (bad : List (Nat × Nat)) : List Nat :=
  let srcs := dedup (bad.map Prod.fst)
  let dsts := dedup (bad.map Prod.snd)
  let set := if dsts.length < srcs.length then dsts else srcs
  (dedup (set.map posX)).flatMap fun x =>
    let ys := (set.filter fun p => posX p = x).map posY
    let lo := ys.foldl min 95
    let hi := ys.foldl max 0
    ((span lo (hi - lo + 1)).map fun y => posOf x y).filter fun p => part / 2 ^ regionOf p % 2 = 1 && s.inService p

/-- Step 3 of R64, repeated until the tables pass: the clusters retired. -/
def State.retireCut (s : State) (part : Nat) : Nat → List Nat → List Nat × State
  | 0, ps => (ps, s)
  | f + 1, ps =>
    let bad := (span 0 8).flatMap fun c => s.badPairs part c
    let new := s.segments part bad
    if new.isEmpty then (ps, s) else (new.foldl State.markRetired s).retireCut part f (ps ++ new)

/-- The repair of one direction of a partition (03: R64). -/
def State.repairLink (s : State) (tag p dir : Nat) : State :=
  match nextPos p dir with
  | none => s
  | some q =>
    let part := (s.part tag).regions
    if s.spareFree p dir then
      let s := (s.moveToSpare p dir q).publish (regionOf p)
      if regionOf q = regionOf p then s else s.publish (regionOf q)
    else
      let s := (s.markBroken p dir q).detour part
      let r := [5, 6, 7].foldl (fun (b : Nat × State) c =>
        let x := b.2.clearUser part c 12288 false
        (b.1 + b2n x.1 * 2 ^ (c - 5), x.2)) (0, s)
      let x := r.2.retireCut part 12288 []
      let rs := dedup (regionOf p :: regionOf q :: x.1.map regionOf)
      x.2.reportRetired tag x.1 rs r.1 0

/-- ROUTE_REPAIR: with all classes of the partition quiet, its oldest fault is repaired (03: R64). -/
def execRouteRepair (tag : Nat) (s : State) : Out :=
  .next (
    let x := s.part tag
    match x.broken with
    | [] => s
    | (p, dir) :: rest =>
      match (s.region x.lead).quiet with
      | none => s.quietAll tag
      | some z =>
        if z.repair ≠ some tag || !s.isQuiet z then s
        else
          let s := (s.setPart tag { x with broken := rest }).repairLink tag p dir
          if rest.isEmpty then s.releaseQuiet z else s)

/-! ### LOCKSTEP_MISMATCH (16: R351) -/

/-- The first mismatch stops the pair for its rollback and is reported; a second one before the next checkpoint is
LOCKSTEP_HARD: the pair traps, what it holds is discarded, and its cluster is retired. While a checkpoint is due the pair
issues nothing that could differ: what is irrevocable is never replayed (16: R350). -/
def execLockstepMismatch (k : Nat) (s : State) : Out :=
  .next (
    let c := s.core k
    let p := corePos k
    if c.pair != .first || c.ch.isNone || c.still || c.ckptDue || s.preempted p then s
    else if c.mismatch = 0 then
      ((s.setCore k { c with rollback := true, mismatch := 1 }).report p (regionOf p) cLOCKSTEP_SOFT 3 0 0 0).mirror k
    else
      let s := s.setCore k { c with held := [] }
      (s.takeTrap k { code := cLOCKSTEP_HARD, kind := 4, pc := c.pc }).retireCluster p 1)

end Sys2Proof.Machine
end

