-- ==== Sys2Proof/Machine/Island.lean ====
section
/-! DEFINITION. Island cores (16: R352-R356): the SYS instructions but for SAVECTX and LOADCTX, entries into handlers,
the timer, the restart of a wedged core. -/

namespace Sys2Proof.Machine

/-- What an island core executes in S mode only; anything else raises ILLEGAL_OP (16: R352). -/
def State.onSupervisor (s : State) (go : Nat → State) : State :=
  match s.cur with
  | .tile _ => s.illegal
  | .island k => if s.supervisor k then go k else s.illegal

/-! ### TRET and EVWAIT (16: R355, R356) -/

/-- A physical doubleword of the trap stack as the core itself sees it, or the cause of a fault. -/
def State.frameWord (s : State) (a : Word) : Except Nat Word :=
  match kernelHome a with
  | some h => if s.badAt h 8 then .error cUNCORR_ECC else .ok (s.readWord h)
  | none => .error cBAD_ADDRESS

/-- The single-bit errors in the two words that TRET has read are counted (10: R190). -/
def State.countFrame (s : State) (k : Nat) (a : Word) : State :=
  [a, a + 8].foldl (fun s x => match kernelHome x with
    | some h => s.countEcc (k / 8) h 8
    | none => s) s

/-- TRET: the frame's status word is restored only where it is legal (16: R355). The core's earlier stores come first. -/
def execTret (s : State) : Out :=
  .next (s.onSupervisor fun k =>
    let s := s.performAll k
    let c := s.icore k
    let depth := bits c.kstat 4 4
    if depth = 0 then s.trap { code := cILLEGAL_TRET }
    else match s.frameWord c.ksp, s.frameWord (c.ksp + 8) with
      | .error e, _ => s.trap { code := e, addr := c.ksp }
      | _, .error e => s.trap { code := e, addr := c.ksp + 8 }
      | .ok f0, .ok f1 =>
        let s := s.countFrame k c.ksp
        if bits f0 8 56 ≠ 0 || bits f0 4 4 ≠ depth - 1 then s.trap { code := cBAD_STATUS, addr := c.pc }
        else (s.setICore k { c with kstat := f0 &&& 0xF3, ksp := c.ksp + 64 }).goto f1)

/-- EVWAIT waits for a pending event, whatever EVEN holds. -/
def execEvwait (s : State) : Out :=
  .next (s.onSupervisor fun k => if s.kevt k ≠ 0 then s.retire 4 else s.block .event)

/-! ### TLBINV and TLBINVA (16: R356; 10: R202) -/

/-- Walks of an ASID give up their results, and their requests walk anew. -/
def State.dropWalks (s : State) (r asid : Nat) : State :=
  let g := s.region r
  let mine := g.walks.filter fun w => w.asid = asid
  let s := s.setRegion r { g with walks := g.walks.filter fun w => w.asid ≠ asid }
  s.retryWaiting r [] (mine.flatMap Walk.reqs ++ g.waiting)

/-- Entries of an ASID that satisfy a test leave the TLB of an island. -/
def State.dropTlb (s : State) (r asid : Nat) (p : TlbEntry → Bool) : State :=
  let g := s.region r
  (s.setRegion r { g with tlb := g.tlb.filter fun e => !(e.asid = asid && p e) }).dropWalks r asid

def execTlbinv (ra : Reg) (s : State) : Out :=
  .next (s.onSupervisor fun k =>
    let v := s.reg ra.toNat
    let va := bits v 12 36 * 4096
    (s.dropTlb (k / 8) (bits v 0 12) fun e => e.va = va / 2 ^ e.size * 2 ^ e.size).retire 4)

def execTlbinva (ra : Reg) (s : State) : Out :=
  .next (s.onSupervisor fun k => (s.dropTlb (k / 8) (bits (s.reg ra.toNat) 0 12) fun _ => true).retire 4)

/-! ### ICINV (16: R356; 04: R70) -/

/-- Clusters whose region has a tag, or all for 0xFF where `all` (16: R356). -/
def State.tagClusters (s : State) (tag : Nat) (all : Bool) : List Nat :=
  ((span 0 48).filter fun r => (s.region r).tag = tag || (all && tag = 0xFF)).flatMap regionClusters

/-- Lines lo … hi leave the code cache, and the fills under way of them are stale, or they leave the I-caches. -/
def State.dropLines (s : State) (p lo hi : Nat) (code priv : Bool) : State :=
  let out (n : Nat) : Bool := decide (lo ≤ n) && decide (n ≤ hi)
  let s := if code then
      let c := s.cluster p
      s.setCluster p { c with
        ccache := c.ccache.filter fun e => !out e.1
        fills := c.fills.map fun f => f.bind fun (x : Fill) => if out x.line.toNat then x.invalidate else some x }
    else s
  if priv then
    (span (4 * p) 4).foldl (fun s k =>
      let c := s.core k
      s.setCore k { c with icache := c.icache.filter fun e => !out e.1 }) s
  else s

def execIcinv (ra rd : Reg) (s : State) : Out :=
  .next (s.onSupervisor fun _ =>
    let v := s.reg rd.toNat
    let a := (s.reg ra.toNat).toNat
    let n := bits v 0 24
    if bits v 26 6 ≠ 0 || bits v 40 24 ≠ 0 then s.illegal
    else if n = 0 then s.retire 4
    else
      let ps := s.tagClusters (bits v 32 8) false
      (ps.foldl (fun s p => s.dropLines p (a / 64) ((a + 64 * n - 1) / 64) (bit v 24) (bit v 25)) s).retire 4)

/-! ### DCFLUSH and DCINV (16: R356; 15: R327) -/

/-- DCFLUSH: the dirty copies of the lines are written at their homes. -/
def execDcflush (ra rd : Reg) (s : State) : Out :=
  .next (s.onSupervisor fun k =>
    let n := (s.reg rd.toNat).toNat
    if n = 0 then s.retire 4 else ((s.performAll k).clean (s.reg ra.toNat).toNat n).retire 4)

/-- DCINV: the home bytes stand again. -/
def execDcinv (ra rd : Reg) (s : State) : Out :=
  .next (s.onSupervisor fun k =>
    let n := (s.reg rd.toNat).toNat
    let a := (s.reg ra.toNat).toNat
    if n = 0 then s.retire 4
    else
      let s := s.performAll k
      let old := s.dirtyHome.filter fun c => decide (a / 64 * 64 ≤ c.1) && decide (c.1 < (a + n + 63) / 64 * 64)
      ((old.foldl (fun s c => s.writeMem c.1 [c.2]) s).clean a n).retire 4)

/-! ### HALTB and RESUMEB (16: R356; 17: R361, R365) -/

/-- A hard stop of a tag is injected at a router, for every router of the wafer (17: R361). -/
def State.castStop (s : State) (tag p : Nat) : State :=
  { s with casts := s.casts ++ [{ tag := tag, origin := p, left := span 0 12288 }] }

/-- HALTB: the broadcast starts at the issuing island's router. -/
def execHaltb (ra : Reg) (s : State) : Out :=
  .next (s.onSupervisor fun k => (s.castStop (bits (s.reg ra.toNat) 0 8) (islandPos (k / 8))).retire 4)

/-- Cores of a cluster under no stop run again (17: R365). -/
def State.letRun (s : State) (p : Nat) : State :=
  let c := s.cluster p
  if !c.hardTags.isEmpty || !c.clusterStops.isEmpty then s
  else (span (4 * p) 4).foldl (fun s k => s.setCore k { s.core k with stopped := 0, received := none, stepping := false, steps := 0 }) s

/-- RESUMEB ends the hard stop of a tag. -/
def execResumeb (ra : Reg) (s : State) : Out :=
  .next (s.onSupervisor fun _ =>
    let tag := bits (s.reg ra.toNat) 0 8
    let s := { s with casts := s.casts.filter fun c => c.tag ≠ tag }
    let ps := (s.clusters.filter fun e => e.2.hardTags.contains tag).map Prod.fst
    (ps.foldl (fun s p =>
      let c := s.cluster p
      (s.setCluster p { c with hardTags := c.hardTags.filter (· ≠ tag) }).letRun p) s).retire 4)

/-! ### Entries, timer, restart (16: R353, R354) -/

/-- Causes that an island core takes (16: R333, kind I), and UNCORR_ECC of a local read (10: R190; log 120). -/
def islandCause (c : Nat) : Bool := [0, 1, 5, 16, 17, 18, 19, 20, 80, 89, 91, 92].contains c

/-- ISLAND_TRAP_ENTRY: the entry that an instruction's trap makes; the return address is that of the instruction, and
for TRAP the next one (16: R354; log 49). -/
def execIslandTrapEntry (k cause : Nat) (addr : Word) (s : State) : Out :=
  .next (
    let c := s.icore k
    if c.wedged || !islandCause cause then s
    else s.islandTrap k cause addr (if cause = cUSER_TRAP then c.pc + 4 else c.pc))

/-- ISLAND_EVENT_ENTRY: with EVEN set, the lowest pending event is taken at a boundary (16: R354). -/
def execIslandEventEntry (k : Nat) (s : State) : Out :=
  .next (if (s.icore k).wedged || !s.eventDue k then s else s.takeEvent k)

/-- ISLAND_TIMER: KTIME goes on by some cycles (16: R353; log 11). -/
def execIslandTimer (region cycles : Nat) (s : State) : Out :=
  .next (
    let g := s.region region
    s.setRegion region { g with ktime := g.ktime + BitVec.ofNat 64 cycles })

/-- KTCMP_WRITE (16: R353). -/
def execKtcmpWrite (k : Nat) (v : Word) (s : State) : Out := .next (s.setICore k { s.icore k with ktcmp := v })

/-- WEDGED_CORE_RESTART: at an address, with DEPTH 0, SUP 1, EVEN 0 (16: R354). -/
def execWedgedCoreRestart (k : Nat) (addr : Word) (s : State) : Out :=
  .next (
    let c := s.icore k
    if c.wedged then s.setICore k { c with wedged := false, pc := addr, came := none, blocked := none, kstat := 1 } else s)

end Sys2Proof.Machine
end

