-- ==== Sys2Proof/Machine/Debug.lean ====
section
/-! DEFINITION. The debug hub (17: R358-R366, R369, R395): reads and writes of stopped cores, stops, steps. -/

namespace Sys2Proof.Machine

/-! ### Reads and writes (17: R358) -/

/-- The hub may touch the core: a stop of R359 is in force, a soft one too, or it is TRAPPED (17: R358). Under a soft
stop the activation that runs goes on between the hub's accesses (DEDUCED; unsafe; log 128). -/
def State.open_ (s : State) (k : Nat) : Bool :=
  (s.core k).stopped ≠ 0 || (s.core k).trapped.isSome || (s.cluster (corePos k)).soft

/-- A barrier as the hub reads it. -/
def Barrier.word (b : Barrier) : Word := fields [(0, b.count % 65536), (16, b.target % 65536), (32, b.phase)]

/-- The value and the full bit at a place of a region, where the hub may read it (17: R358). -/
def State.hubValue (s : State) (r : Nat) (place : HubPlace) : Option (Word × Bool) :=
  let core (k : Nat) (v : Option (Word × Bool)) : Option (Word × Bool) :=
    if isCore k && regionOf (corePos k) = r && s.open_ k then v else none
  let spot (p : Nat) (v : Option (Word × Bool)) : Option (Word × Bool) := if isCluster p && regionOf p = r then v else none
  match place with
  | .regWord k n => core k (if n < 2048 then some ((s.core k).reg.word n, !(s.core k).reg.isEmpty n) else none)
  | .tcmWord k n => core k (if n < 8192 then some (s.readWord (tcmHome k + 8 * n), !s.memIsEmpty (tcmHome k + 8 * n)) else none)
  | .csr k n => core k ((s.csrTile k n).map fun v => (v, true))
  | .spadWord p n => spot p (if n < 131072 then some (s.readWord (spadHome p + 8 * n), !s.memIsEmpty (spadHome p + 8 * n)) else none)
  | .handlerMask k ch => spot (corePos k) (if ch < 32 then some (fields [(0, b2n ((s.core k).hand ch).mask)], true) else none)
  | .barrier p b => spot p (if b < 8 then some (((s.cluster p).bar b).word, true) else none)
  | .watch p n => spot p (if n < 9 then some (Tab.get 0 (s.cluster p).wp n, true) else none)
  | .trace p => spot p (some (fields [(0, b2n (s.cluster p).traceOn)], true))

/-- The VC1 channels of hub requests, their replies, and the stops that a cluster sends its partners (log 134). -/
def chHub : Nat := 2
def chHubReply : Nat := 3
def chStop : Nat := 4

/-- The cluster that a hub request names. -/
def hubPos : HubPlace → Nat
  | .regWord k _ => corePos k
  | .tcmWord k _ => corePos k
  | .csr k _ => corePos k
  | .spadWord p _ => p
  | .handlerMask k _ => corePos k
  | .barrier p _ => p
  | .watch p _ => p
  | .trace p => p

/-- A hub request passes to a cluster, where `go` is its effect, and its reply back, each one flit of VC1; a router that
drops one of them reports it; while VC1 is being quieted nothing happens (03: R62, R398; 09: R172, R187; 17: R358;
log 134). `ws` is what the reply brings to the hub. -/
def State.hubAsk (s : State) (p : Nat) (ws : Option (List Word)) (go : State → State) : State :=
  let i := islandPos (regionOf p)
  if s.quieted p 1 then s
  else
    let a := s.pass 1 0xFF 1 i p
    match a.1 with
    | some (c, q) => a.2.dropReport q c { w0 := header0 p 0 1 chHub 24 0, w1 := header1 i 0 0 0xFF }
    | none =>
      let b := (go a.2).pass 1 0xFF 1 p i
      match b.1 with
      | some (c, q) => b.2.dropReport q c { w0 := header0 i 0 1 chHubReply 16 0, w1 := header1 p 0 0 0xFF }
      | none =>
        let g := b.2.region (regionOf p)
        b.2.setRegion (regionOf p) { g with hubReplies := g.hubReplies ++ ws.toList }

/-- HUB_READ: the reply holds the value and the full bit. -/
def execHubRead (region : Nat) (place : HubPlace) (s : State) : Out :=
  .next (match s.hubValue region place with
    | none => s
    | some (v, full) => s.hubAsk (hubPos place) (some [v, fields [(0, b2n full)]]) id)

/-- The state of a lease that LHOLD's bits say (05: R103). -/
def lholdState (v : Word) (e : Nat) (st : LeaseState) : LeaseState :=
  if bit v (16 + e) then .grace else if bit v e then .held else if bit v (8 + e) then .queued
  else if st == .lost then .lost else .none

/-- A CSR of a core written by the hub, the read-only ones included (17: R358). LHOLD sets the core's lease states, of
which the bay is not told (log 50). -/
def State.hubCsr (s : State) (k n : Nat) (v : Word) : State :=
  let c := s.core k
  if n = 0x000 then (if fcsrOk v then s.setCore k { c with fcsr := fcsrMask v } else s)
  else if n = 0x001 then (if viewOk 8192 v then s.setCore k { c with vbase := v &&& 0x3FFF } else s)
  else if n = 0x002 then (if viewOk 12288 v then s.setCore k { c with abase := v &&& 0x3FFF } else s)
  else if n = 0x008 then s.setCore k { c with cycle := v }
  else if n = 0x009 then s.setCore k { c with instret := v }
  else if 0x010 ≤ n && n ≤ 0x018 then s.setCore k { c with pidx := Tab.put c.pidx (n - 0x010) (v &&& 0x1FFFFFFFF) }
  else if n = 0x020 then
    s.setCore k { c with leases := (span 0 8).foldl (fun t e => Tab.put t e { c.lease e with st := lholdState v e (c.lease e).st }) c.leases }
  else if n = 0x028 then
    (span 0 32).foldl (fun s ch =>
      let h := (s.core k).hand ch
      let w := (nth 0 h.words 1 &&& ~~~0x88) ||| fields [(3, b2n (bit v ch)), (7, b2n (bit v (32 + ch)))]
      if nth 0 h.words 1 = w then s else s.setHand k ch { h with words := setNth h.words 1 w }) s
  else if n = 0x030 then s.setCore k { c with tfbase := v }
  else if n = 0x031 then s.setCore k { c with tfcount := bits v 0 32 }
  else if 0x040 ≤ n && n ≤ 0x048 then
    let p := corePos k
    s.setCluster p { s.cluster p with wp := Tab.put (s.cluster p).wp (n - 0x040) v }
  else s

/-- The cores that a hub write to core `k` writes: both of a pair, which runs as one (16: R347; log 142). -/
def State.hubCores (s : State) (k : Nat) : List Nat :=
  match (s.core k).pair with
  | .alone => [k]
  | .first => [k, k + 1]
  | .second => [k - 1, k]

/-- What a hub write changes: words become full; a word under a pending mark is refused (17: R358). -/
def State.hubPut (s : State) (place : HubPlace) (v : Word) : State :=
  match place with
      | .regWord k n =>
        if (s.hubCores k).any fun j => (s.core j).reg.isPend n then s
        else (s.hubCores k).foldl (fun s j => s.setCore j { s.core j with reg := (s.core j).reg.put n v }) s
      | .tcmWord k n => (s.hubCores k).foldl (fun s j => (s.writeWord (tcmHome j + 8 * n) v).setMemFull (tcmHome j + 8 * n)) s
      | .csr k n => (s.hubCores k).foldl (fun s j => s.hubCsr j n v) s
      | .spadWord p n => s.writeWord (spadHome p + 8 * n) v
      | .handlerMask k ch =>
        let h := (s.core k).hand ch
        if h.valid then
          s.setHand k ch { h with words := setNth h.words 1 ((nth 0 h.words 1 &&& ~~~8) ||| (if bit v 0 then 8 else 0)) }
        else s
      | .barrier p b =>
        s.setBar p b { (s.cluster p).bar b with count := bits v 0 16, target := bits v 16 16, phase := bits v 32 32 }
      | .watch p n => s.setCluster p { s.cluster p with wp := Tab.put (s.cluster p).wp n v }
      | .trace p => s.setCluster p { s.cluster p with traceOn := bit v 0 }

/-- HUB_WRITE. -/
def execHubWrite (region : Nat) (place : HubPlace) (v : Word) (s : State) : Out :=
  .next (if (s.hubValue region place).isNone then s else s.hubAsk (hubPos place) none fun s => s.hubPut place v)

/-! ### Stops (17: R359-R363) -/

def execSoftStop (pos : Nat) (s : State) : Out :=
  .next (s.hubAsk pos none fun s => s.setCluster pos { s.cluster pos with soft := true })

/-- SOFT_STOP_COMPLETE: every core of the cluster is idle with no activation (17: R360). -/
def execSoftStopComplete (pos : Nat) (s : State) : Out :=
  .next (
    let g := s.region (regionOf pos)
    if !(s.cluster pos).soft || g.softDone.contains pos || (span (4 * pos) 4).any fun k => (s.core k).ch.isSome then s
    else s.setRegion (regionOf pos) { g with softDone := g.softDone ++ [pos] })

/-- The cores of a cluster receive a stop: each counts its skid from here (17: R362). -/
def State.receive (s : State) (p : Nat) : State :=
  (span (4 * p) 4).foldl (fun s k =>
    let c := s.core k
    if c.stopped ≠ 0 || c.received.isSome then s
    else s.setCore k { c with received := some c.instret.toNat, recvTrapped := c.trapped.isSome }) s

/-- The clusters that a cluster stop covers: the partners of the masked barriers as they stand (17: R363). -/
def State.covered (s : State) (p mask : Nat) : List Nat :=
  let c := s.cluster p
  dedup (p :: ((span 0 8).filter fun b => mask / 2 ^ b % 2 = 1).flatMap fun b => (c.bar b).partners)

/-- A router tells a partner of a cluster stop by a VC1 message that names the watching cluster (17: R395; log 134). -/
def State.tellStop (p : Nat) (s : State) (q : Nat) : State :=
  s.injectCore (4 * p) { vc := 1, w0 := header0 q 0 1 chStop 8 0, body := toBytes 8 p }

/-- A cluster stop starts: the covered set is recorded, the watching cluster receives it, the partners are told
(17: R363, R395). -/
def State.startStop (s : State) (p mask : Nat) : State :=
  let ps := s.covered p mask
  let c := s.cluster p
  let s := s.setCluster p { c with covers := dedup (c.covers ++ ps), clusterStops := c.clusterStops ++ [p] }
  (ps.filter (· ≠ p)).foldl (State.tellStop p) (s.receive p)

def execClusterStop (pos mask : Nat) (s : State) : Out := .next (s.hubAsk pos none fun s => s.startStop pos mask)

/-- A cluster under a hard stop of a tag (17: R361). -/
def State.hardStop (s : State) (pos tag : Nat) : State :=
  let c := s.cluster pos
  (s.setCluster pos { c with hardTags := if c.hardTags.contains tag then c.hardTags else c.hardTags ++ [tag] }).receive pos

/-- The link that brings a hard stop to a router, as position and port: from its first neighbour that has received it, over
a link that is not BROKEN (17: R361; log 134). -/
def State.castLink (s : State) (x : Cast) (pos : Nat) : Option (Nat × Nat) :=
  (span 0 4).findSome? fun d => (nextPos pos d).bind fun q =>
    if x.left.contains q || (s.router q).broken.contains (opposite d) then none else some (q, opposite d)

/-- A router takes hard stop number i from the router at which it was injected, itself, or from a neighbour: one flit of VC0 on
that link and, at a cluster, on the local port (17: R361, R372; log 134). -/
def State.takeCast (s : State) (pos i : Nat) : State :=
  let x := nth {} s.casts i
  let link := s.castLink x pos
  if !x.left.contains pos || (pos ≠ x.origin && link.isNone) then s
  else
    let left := x.left.filter (· ≠ pos)
    let s := { s with casts := if left.isEmpty then dropNth s.casts i else setNth s.casts i { x with left := left } }
    let s := if pos = x.origin then s else link.toList.foldl (fun s l => s.countSent l.1 l.2 0 1) s
    if !isCluster pos then s
    else
      let s := s.countSent pos 4 0 1
      if x.tag ≠ 0xFF && x.tag ≠ (s.region (regionOf pos)).tag then s else s.hardStop pos x.tag

/-- A cluster takes cluster stop number i of those that VC1 has brought it (17: R363, R395). -/
def State.takeStop (s : State) (pos i : Nat) : State :=
  let q := s.inq pos 1
  if q.length ≤ i then s
  else
    let s := s.setInq pos 1 (dropNth q i)
    let c := s.cluster pos
    (s.setCluster pos { c with clusterStops := c.clusterStops ++ [ofBytes (nth {} q i : Msg).body] }).receive pos

/-- HARD_STOP_RECEIVE: stop number i of those that are on their way to the router: the hard stops, then the cluster stops
that VC1 has brought (17: R361, R363). -/
def execHardStopReceive (pos i : Nat) (s : State) : Out :=
  .next (if i < s.casts.length then s.takeCast pos i else s.takeStop pos (i - s.casts.length))

/-- A CPYWAIT that the stop ends: PIDX_CPY takes VALID and PROG (12: R244). -/
def State.cpyStop (s : State) (k : Nat) : State :=
  let c := s.core k
  if c.blocked ≠ some .copy then s
  else match (s.fetchTile k).1 with
    | .instr (.cpywait rb _) =>
      let x := (s.cluster (corePos k)).chan (bits (c.reg.word rb.toNat) 0 2)
      s.setCore k { c with pidx := Tab.put c.pidx 8 (pidxWord x.prog) }
    | _ => s

/-- THERMAL_TRIP is due and has still to be taken: the stop comes after it (08: R164). -/
def Core.tripDue (c : Core) : Bool := c.trapped.isNone && c.due.any fun d => d.cause = cTHERMAL_TRIP

/-- CORE_STOP: a core that has received a stop stops at its boundary, having retired `skid` instructions since
(17: R361, R362). A rollback completes first (R366), an STV past its issue (06: R105) and, but for a pre-emption, a
THERMAL_TRIP (08: R164; log 133). A pair stops as
one. -/
def execCoreStop (k skid : Nat) (s : State) : Out :=
  .next (
    let c := s.core k
    match c.received with
    | none => s
    | some n =>
      let cl := s.cluster (corePos k)
      if c.stopped ≠ 0 || c.pair == .second || c.rollback || (c.tripDue && !s.preempted (corePos k)) || !c.stream.isEmpty || skid ≠ c.skid n || (cl.hardTags.isEmpty && cl.clusterStops.isEmpty) then s
      else
        let kind := if cl.hardTags.isEmpty then 2 else 1
        let s := { { s with cur := .tile k }.cpyStop k with cur := s.cur }
        (s.halt k kind).stopRecord k kind skid false)

/-- THERMAL_TRIP (08: R164): at 110 °C or more every cluster of the region in service is hard-stopped, under its region's
tag, and each of its cores takes the trap (log 33). A CPYWAIT records how far its copy is (12: R244). -/
def execThermalTrip (region degrees : Nat) (s : State) : Out :=
  .next (
    if degrees < 110 then s
    else
      let tag := (s.region region).tag
      let s := s.setRegion region { s.region region with thermal := true }
      ((regionClusters region).filter fun p => s.inService p).foldl (fun s p =>
        (span (4 * p) 4).foldl (fun s k =>
          if (s.core k).pair == .second then s
          else
            let s := { { s with cur := .tile k }.cpyStop k with cur := s.cur }
            let d := s.core k
            s.setCore k { d with due := d.due ++ [{ kind := 4, cause := cTHERMAL_TRIP }] }) (s.hardStop p tag)) s)

/-- WATCHPOINT_STOP: the oldest pending ACTION 2 or 3 of a cluster, whose match no stop preceded (17: R369, R395). -/
def execWatchpointStop (pos : Nat) (s : State) : Out :=
  .next (
    let c := s.cluster pos
    match c.pendStops with
    | [] => s
    | (act, bars) :: rest =>
      let s := s.setCluster pos { c with pendStops := rest }
      if act = 2 then s.startStop pos bars
      else s.castStop (s.region (regionOf pos)).tag pos)

/-- STEP (17: R364): a stopped core is to issue one instruction, which this move does at once (Issue.lean). -/
def execStep (k : Nat) (s : State) : Out := .next (s.hubAsk (corePos k) none fun s => s.beginStep (s.leader k))

/-- A stop that a cluster has sent a partner and that no cluster has taken yet. -/
def Msg.isStop (m : Msg) (p : Nat) : Bool := m.vc = 1 && bits m.w0 19 5 = chStop && srcPos m.w1 = p

/-- HUB_RESUME ends the soft stop or the cluster stop of a cluster, for its recorded set, at once; a stop still on its way to
a partner stops nothing (17: R363, R365; log 134). -/
def execHubResume (pos : Nat) (s : State) : Out :=
  .next (s.hubAsk pos none fun s =>
    let c := s.cluster pos
    let g := s.region (regionOf pos)
    let s := s.setRegion (regionOf pos) { g with softDone := g.softDone.filter (· ≠ pos) }
    let s := s.setCluster pos { c with soft := false, covers := [] }
    let s := { s with net := s.net.filter fun m => !m.isStop pos }
    c.covers.foldl (fun s p =>
      let d := s.cluster p
      let keep := (Tab.get [] d.inq 1).filter fun m => !m.isStop pos
      (s.setCluster p { d with clusterStops := d.clusterStops.filter (· ≠ pos), inq := Tab.put d.inq 1 keep }).letRun p) s)

end Sys2Proof.Machine
end

