-- ==== Sys2Proof/Machine/Preempt.lean ====
section
/-! DEFINITION. Saving and restoring a partition (16: R341-R346, R356, R357). -/

namespace Sys2Proof.Machine

/-! ### The context status word and the save areas (16: R342, R357) -/

def ctxHomeOf (x : Partition) (tag : Nat) : Nat := sramHome x.lead + 0xF01000 + 8 * tag

/-- STATE and TORNCL of a partition's context; SEQ rises. -/
def State.setCtx (s : State) (tag st torn : Nat) : State :=
  let a := ctxHomeOf (s.part tag) tag
  s.writeWord a (fields [(0, st), (16, torn), (32, (bits (s.readWord a) 32 32 + 1) % 2 ^ 32)])

/-- Home of a byte of a cluster's save area, whose pages are pinned (16: R342). -/
def State.saveHome (s : State) (tag p off : Nat) : Option Nat :=
  let a := Tab.get 0 (s.part tag).saveBases p + BitVec.ofNat 64 off
  if !isTranslated a then none
  else match s.walk (s.part tag).root (bits a 0 48) with
    | .ok g => memHome (g.pa + bits a 0 48 % 2 ^ g.size)
    | .error _ => none

def State.saveWrite (s : State) (tag p off : Nat) (bs : List Byte) : State :=
  match s.saveHome tag p off with
  | some h => s.writeMem h bs
  | none => s

def State.saveWord (s : State) (tag p off : Nat) : Word :=
  match s.saveHome tag p off with
  | some h => s.readWord h
  | none => 0

/-- The image header of a cluster (16: R342). -/
def State.writeHeader (s : State) (tag p st msgs dropped flags : Nat) : State :=
  s.saveWrite tag p 0x60000 (bytesOf [fields [(0, st), (4, tag), (12, posX p), (19, posY p)],
    fields [(0, (s.cluster p).saves)], fields [(0, msgs), (32, dropped)], fields [(0, flags)], 0, 0, 0, 0])

/-! ### SAVECTX: steps 1-3 of R341 -/

/-- Copy channels issue no new sector: those in flight complete or fail (16: R341, steps 1 and 4). -/
def Chan.hold (x : Chan) : Chan :=
  if x.st == .active && x.started then { x with issued := some x.flying } else x

/-- The stop of a core for a save: a pair's checkpoint first, which a rollback and pending words put off; a CPYWAIT
records how far its copy is (12: R244; 16: R341, R346, R349). -/
def State.holdCore (s : State) (k : Nat) : State :=
  let c := s.core k
  let s := if c.pair == .first then s.setCore k { c with ckptDue := true } else s
  let s := if c.rollback then s else s.checkpoint k
  { { s with cur := .tile k }.cpyStop k with cur := s.cur }.mirror k

/-- The save starts (16: R341): starts and stops, then the leases; the drain is under way. -/
def State.startSave (s : State) (tag : Nat) : State :=
  let s := s.setPart tag { s.part tag with released := false }
  ((s.partClusters tag).foldl (fun s p =>
    let c := s.cluster p
    let s := s.setCluster p { c with saves := (c.saves + 1) % 2 ^ 32, chans := c.chans.map fun e => (e.1, e.2.hold) }
    (span (4 * p) 4).foldl State.holdCore (s.writeHeader tag p 1 0 0 0)) (s.setCtx tag 1 0)).releaseLeases tag

/-- SAVECTX (16: R356). -/
def execSavectx (ra rd : Reg) (s : State) : Out :=
  .next (s.onSupervisor fun _ =>
    let tag := bits (s.reg ra.toNat) 0 8
    let x := s.part tag
    let st := s.ctxState tag
    let done (v : Nat) (s : State) : State := s.finish 4 rd.toNat (BitVec.ofNat 64 v) 0
    if tag = 0 || x.regions = 0 || (s.partClusters tag).any fun p => Tab.get 0 x.saveBases p = 0#64 then done 2 s
    else if st = 1 || st = 3 then done 1 s
    else if st = 2 then done 3 s
    else done 0 (s.startSave tag))

/-! ### PREEMPT_DRAIN_END: steps 4 and 5 of R341 -/

/-- What keeps a core of the partition from being saved (16: R341, step 4): a stop that it has received and not taken, too
(17: R359). A store that waits for one that failed, or for a load that did, is saved as it is (16: R346). -/
def Core.draining (c : Core) (p : Nat) : Bool :=
  !c.inUse.isEmpty || c.rollback || (c.pair == .first && !c.held.isEmpty) ||
    (c.sbHeld.isNone && (!c.stream.isEmpty || (c.received.isSome && c.stopped = 0 && c.pair != .second) ||
      match c.sbuf with
      | [] => false
      | b :: _ => c.failed.isEmpty || c.mayRelease p b))

/-- A sector of the channel is still in flight (16: R341, step 4). -/
def Chan.draining (x : Chan) : Bool := x.st == .active && x.started && !x.flying.isEmpty

/-- The partition has drained (16: R341, step 4). -/
def State.drainedOf (s : State) (tag : Nat) : Bool :=
  let rs := maskRegions (s.part tag).regions
  !((s.partClusters tag).any fun p =>
      let c := s.cluster p
      !c.reqq.isEmpty || [0, 3, 5, 6, 7].any (fun vc => !(s.inq p vc).isEmpty) || (c.chans.any fun e => e.2.draining) ||
        (span (4 * p) 4).any fun k => (s.core k).draining p) &&
  !(s.net.any fun m => (decide (2 ≤ m.vc) || bits m.w0 19 5 = chStart) && rs.contains (regionOf m.at_))

/-- Running records' DONEMAP goes to their word 7 (16: R343, step 4). -/
def State.saveChans (s : State) (p : Nat) : State :=
  (span 0 4).foldl (fun s h =>
    let x := (s.cluster p).chan h
    if x.st == .active && x.started && recordSpot x.addr then
      s.writeBack (ownHome (x.core p) x.addr + 56) (toBytes 8 x.doneMap.toNat)
    else s) s

/-- A channel's fault is unresolved: neither the island nor its owner has answered it (12: R242; 16: R342, R344;
log 115). -/
def State.faultUnserved (s : State) (p h : Nat) : Bool :=
  let x := (s.cluster p).chan h
  x.st == .fault && !x.served

/-- TPEND, CPEND and STOPPED (16: R342). -/
def State.saveFlags (s : State) (p : Nat) : Nat :=
  (span 0 4).foldl (fun a i =>
    let c := s.core (4 * p + i)
    a + b2n c.trapped.isSome * 2 ^ i + b2n (s.faultUnserved p i) * 2 ^ (4 + i) +
      b2n (c.stopped ≠ 0) * 2 ^ (12 + i)) 0

/-- What is left of a core in the hardware once its image is written. -/
def Core.blank (c : Core) : Core :=
  { tfbase := c.tfbase, cycle := c.cycle, instret := c.instret, opp := c.opp, oppNew := c.oppNew, stopCount := c.stopCount,
    traceNo := c.traceNo, traceLost := c.traceLost, seqs := c.seqs, stopped := c.stopped }

/-- What is left of a cluster: what the hub, the island and its own counters hold. -/
def Cluster.blank (c : Cluster) : Cluster :=
  { hbGrant := c.hbGrant, wp := c.wp, qcap := c.qcap, partMask := c.partMask, qpwr := c.qpwr, qopp := c.qopp, soft := c.soft,
    hardTags := c.hardTags, clusterStops := c.clusterStops, covers := c.covers, pendStops := c.pendStops,
    traceOn := c.traceOn, gens := c.gens, saves := c.saves, came := c.came }

/-- An uncorrectable error stands in what is read or in the save area (10: R190; 16: R345; log 112). -/
def State.saveTorn (s : State) (tag p : Nat) : Bool :=
  s.eccBad.any (fun w => ownBytes p (8 * w)) ||
    (!s.eccBad.isEmpty && (span 0 32).any fun i => (s.saveHome tag p (65536 * i)).any fun h => s.badAt h 65536)

/-- The cores of a torn cluster take TORN_SAVE as an X cause (16: R333, R335, R345; log 113). -/
def State.tornCores (s : State) (p : Nat) : State :=
  (span (4 * p) 4).foldl (fun s k =>
    let c := s.core k
    if c.ch.isNone || c.trapped.isSome || c.pair == .second then s
    else (s.takeTrap k { code := cTORN_SAVE, kind := 4, pc := c.pc }).mirror k) s

/-- A cluster writes its image (16: R341, R342, R345). -/
def State.saveCluster (s : State) (tag : Nat) (torn : List Nat) (p : Nat) : State :=
  let bad := torn.contains p
  let s := s.saveChans p
  let s := if bad then s.tornCores p else s
  let cl := s.cluster p
  let im : Image := {
    tag := tag, cluster := { cl with inq := [], captured := [] }, cores := (span (4 * p) 4).map s.core
    mem := s.mem.filter fun c => ownBytes p c.1
    empty := s.memEmpty.filter fun w => ownBytes p (8 * w)
    messages := cl.captured, torn := bad }
  let s := s.writeHeader tag p (if bad then 3 else 2) cl.captured.length cl.dropped (s.saveFlags p)
  let s := { s with images := Tab.put s.images p im }
  let s := (span (4 * p) 4).foldl (fun s k => s.setCore k (s.core k).blank) s
  s.setCluster p (s.cluster p).blank

/-- Launches with an activation on a torn cluster fail with reason 21, each with its event (16: R345; 18: R375). -/
def State.failTorn (s : State) (tag : Nat) (torn : List Nat) : State :=
  let on (p key : Nat) : Bool := (span (4 * p) 4).any fun k => (s.core k).ch.any fun ch => ((s.core k).hand ch).launch = key
  (s.launches.filter fun e => torn.any fun p => on p e.1).foldl (fun s e =>
    let n := (torn.filter fun p => on p e.1).length
    let s := (s.setLaunch e.1 { s.launchOf e.1 with torn := true }).endLaunch e.1 21
    s.postEvent tag 3 (BitVec.ofNat 64 e.2.id) (BitVec.ofNat 64 n) 0) s

/-- PREEMPT_DRAIN_END: `torn` are clusters whose save met an uncorrectable error that arose in it, beside those whose
memory or save area holds one (16: R345). -/
def execPreemptDrainEnd (tag : Nat) (torn : List Nat) (s : State) : Out :=
  .next (
    let s := s.releaseLeases tag
    if (s.part tag).regions = 0 || s.ctxState tag ≠ 1 || !(s.part tag).released || !s.drainedOf tag then s
    else
      let ps := s.partClusters tag
      let bad := ps.filter fun p => torn.contains p || s.saveTorn tag p
      let s := s.failTorn tag bad
      (ps.foldl (fun s p => s.saveCluster tag bad p) s).setCtx tag 2 (bad.length % 65536))

/-! ### LOADCTX and RESTORE_COMPLETE (16: R343, R344) -/

/-- A core with TPEND whose RACT is 7, or a channel with CPEND (16: R344). -/
def State.unserved (s : State) (tag p : Nat) : Bool :=
  let h := s.saveWord tag p (0x60000 + 24)
  bits h 4 4 ≠ 0 || (span 0 4).any fun c => bit h c && bits (s.saveWord tag p (0x18000 * c + 56)) 0 3 = 7

/-- LOADCTX (16: R356). -/
def execLoadctx (ra rd : Reg) (s : State) : Out :=
  .next (s.onSupervisor fun _ =>
    let tag := bits (s.reg ra.toNat) 0 8
    let x := s.part tag
    let st := s.ctxState tag
    let done (v : Nat) (s : State) : State := s.finish 4 rd.toNat (BitVec.ofNat 64 v) 0
    if tag ≠ 0 && x.regions ≠ 0 && (st = 1 || st = 3) then done 1 s
    else if tag = 0 || x.regions = 0 || st ≠ 2 then done 2 s
    else if (s.partClusters tag).any fun p => ((Tab.get {} s.images p : Image).tag = tag) &&
        !(Tab.get {} s.images p : Image).torn && s.unserved tag p then done 4 s
    else if (maskRegions x.regions).any fun r => (s.region r).tag ≠ tag then done 5 s
    else done 0 (s.setCtx tag 3 (bits (s.readWord (ctxHomeOf x tag)) 16 16)))

/-- A core with its launch gone or torn: its activation ends without signals (16: R345, R346). -/
def State.endLost (s : State) (k : Nat) : State :=
  let c := s.core k
  match c.ch with
  | none => s
  | some ch =>
    match Tab.get none (s.launches.map fun e => (e.1, some e.2)) (c.hand ch).launch with
    | some l => if l.torn then s.endNow k else s
    | none => s.endNow k

/-- A core that was TRAPPED takes its RACT (16: R343, step 6). Where GOTO would go is a free value (log 52). -/
def State.takeRact (s : State) (k act : Nat) : State :=
  match (s.core k).trapped with
  | none => s
  | some t =>
    if (s.core k).pair == .second then s
    else match act with
      | 0 => s.retryTrap k t
      | 1 => s.nextTrap k t
      | 2 => let f := s.fresh 34
             f.2.gotoTrap k f.1 t
      | 3 => s.endTrap k false t
      | _ => s

/-- Handler entries whose launch is gone while the image was saved are invalid. -/
def Core.liveHands (c : Core) (keys : List Nat) : Core :=
  { c with hands := c.hands.map fun h => if h.2.valid && !keys.contains h.2.launch then (h.1, {}) else h }

/-- The image of a core on the hardware's core: what counts from reset and its operating point are the hardware's; CYCLE
and INSTRET are the image's. It stays stopped where a stop is in force (`under`), and takes a stop or a THERMAL_TRIP that
came while it was saved (05: R100; 08: R160, R164; 16: R343, R346; 17: R359, R362, R365, R373; log 133). -/
def Core.ontoCore (c now : Core) (keys : List Nat) (under : Bool) : Core :=
  let st := if !under then 0 else if now.stopped = 0 then c.stopped else now.stopped
  { c.liveHands keys with
    seqs := now.seqs, icache := [], opp := now.opp, oppNew := now.oppNew, stopCount := now.stopCount, traceNo := now.traceNo,
    traceLost := now.traceLost, stopped := st, stepping := c.stepping && st ≠ 0, steps := if st = 0 then 0 else c.steps
    received := if !under || st ≠ 0 then none else c.received.orElse fun _ => now.received.map fun _ => c.instret.toNat
    due := c.due ++ (if c.pair == .second then [] else now.due.filter fun d => d.cause = cTHERMAL_TRIP) }

/-- A cluster takes its image back (16: R343). -/
def State.restoreCluster (s : State) (tag p : Nat) : State :=
  match Tab.get none (s.images.map fun e => (e.1, some e.2)) p with
  | none => s
  | some im =>
    if im.tag ≠ tag then s
    else if im.torn then { s with images := Tab.drop s.images p }
    else
      let now := s.cluster p
      let flags := s.saveWord tag p (0x60000 + 24)
      let chans := im.cluster.chans.map fun e =>
        let x := e.2
        if x.st == .active then (e.1, { x with started := false, cache := [], issued := none, failing := none })
        else if x.st == .fault then (e.1, if bit flags (8 + e.1) then x.again else { x with served := true })
        else e
      let cap (vc : Nat) : List Msg := (im.messages.filter fun m => m.vc = vc) ++ Tab.get [] now.inq vc
      let cl : Cluster := { im.cluster with
        engs := im.cluster.engs.map (fun e => (e.1, { e.2 with power := .gated })), leaseQ := [], demand := none, inflight := []
        wbanks := [], cbanks := [], sfBuilt := false, zd := {}, rd := [], chans := chans
        inq := [5, 6, 7].foldl (fun t vc => Tab.put t vc (cap vc)) now.inq
        reqq := now.reqq, fills := now.fills, ccache := now.ccache, qcap := now.qcap, partMask := now.partMask, qpwr := now.qpwr
        qopp := now.qopp, fillLast := now.fillLast
        hbGrant := now.hbGrant, soft := now.soft, traceOn := now.traceOn, hardTags := now.hardTags
        clusterStops := now.clusterStops, covers := now.covers, pendStops := now.pendStops, gens := now.gens, saves := now.saves
        came := now.came, dropped := 0 }
      let s := s.setCluster p cl
      let keys := Tab.keys s.launches
      let s := (im.cores.zip (span (4 * p) 4)).foldl (fun s e =>
        s.setCore e.2 (e.1.ontoCore (s.core e.2) keys (!now.hardTags.isEmpty || !now.clusterStops.isEmpty))) s
      let s := im.mem.foldl (fun s c => s.writeMem c.1 [c.2]) (s.dropBytes p)
      let s := { s with memEmpty := s.memEmpty ++ im.empty, images := Tab.drop s.images p }
      let s := (span 0 4).foldl (fun s c =>
        let k := 4 * p + c
        let s := s.endLost k
        (s.takeRact k (bits (s.saveWord tag p (0x18000 * c + 56)) 0 3)).mirror k) s
      s.saveWrite tag p 0x60000 (toBytes 1 (4 + tag % 16 * 16))

/-- A core that the image of the cluster would have run an activation is changing its operating point (08: R160). -/
def State.pointHolds (s : State) (p : Nat) : Bool :=
  ((Tab.get {} s.images p : Image).cores.zip (span (4 * p) 4)).any fun e => e.1.ch.isSome && (s.core e.2).oppNew.isSome

/-- RESTORE_COMPLETE (16: R343). A change of operating point under way ends first (08: R160). -/
def execRestoreComplete (tag : Nat) (s : State) : Out :=
  .next (
    if (s.part tag).regions = 0 || s.ctxState tag ≠ 3 || (s.partClusters tag).any s.pointHolds then s
    else
      let torn := bits (s.readWord (ctxHomeOf (s.part tag) tag)) 16 16
      ((s.partClusters tag).foldl (fun s p => s.restoreCluster tag p) s).setCtx tag 0 torn)

end Sys2Proof.Machine
end

