-- ==== Sys2Proof/Machine/Board.lean ====
section
/-! DEFINITION. The host's windows (18: R378-R381), firmware and attestation (18: R384, R385), bring-up (18: R386;
03: R49-R52). -/

namespace Sys2Proof.Machine

/-! ### BAR 0 (18: R379; 02: R31; 18: R375) -/


/-- A partition's event word. -/
def Partition.eventWord (x : Partition) : Word := fields [(0, x.epos), (32, x.ehead)]

/-- The event page of BAR 0 at an address, as a tag. -/
def eventTag (a : Nat) : Nat := (a - 0x3000000) / 4096
def State.eventPage (s : State) (a : Nat) : Bool :=
  let t := eventTag a
  decide (0x3000000 ≤ a) && decide (1 ≤ t) && decide (t ≤ 0xFE) && (s.part t).regions ≠ 0

/-- A number of 4 bytes at an offset of a block over which bytes from `at_` on are written; none where no byte of it
is. -/
def overlay (old off at_ : Nat) (bs : List Byte) : Option Nat :=
  if (span off 4).any fun i => decide (at_ ≤ i) && decide (i < at_ + bs.length) then
    some (ofBytes ((span off 4).map fun i =>
      if at_ ≤ i && i < at_ + bs.length then nth 0 bs (i - at_) else BitVec.ofNat 8 (old / 2 ^ (8 * (i - off)))))
  else none

/-- A command of the host (02: R31, R45-R47). -/
def State.command (s : State) (q cmd : Nat) : State :=
  match cmd with
  | 1 => s.drain q 1
  | 2 => s.drain q 2
  | 3 => s.replay q
  | 4 => s.abort q
  | _ => s

/-- A write to a queue page: TAIL, CHEAD, CMD. -/
def State.writeQueue (s : State) (q off : Nat) (bs : List Byte) : State :=
  let x := s.queue q
  if x.st = 0 then s
  else
    let s := match overlay x.tail 16 off bs with
      | some v => s.writeTail q v
      | none => s
    let s := match overlay x.chead 20 off bs with
      | some v => s.writeChead q v
      | none => s
    if off ≤ 24 && 24 < off + bs.length then s.command q ((nth 0 bs (24 - off)).toNat % 16) else s

/-! ### BAR 2 (18: R380; log 36) -/

/-- Every vector that is unmasked and whose word has changed sends its message. -/
def State.sendVectors (s : State) : State :=
  let s := (Tab.keys s.queues).foldl State.queueVector s
  (Tab.keys s.parts).foldl State.eventVector s

/-- The vector of a port waits: masked, and a word has changed. -/
def State.pendingVector (s : State) (port v : Nat) : Bool :=
  (s.hostPort port).masked v &&
  ((s.queues.any fun e => e.2.vector = some (port, v) && e.2.cseq ≠ e.2.sent) ||
    s.parts.any fun e => e.2.vector = some (port, v) && e.2.epos ≠ e.2.sent)

/-- A byte of BAR 2: the table, then the pending bits. -/
def State.bar2 (s : State) (port a : Nat) : Byte :=
  if a < 32768 then (s.hostPort port).bar2Byte a
  else if a < 32768 + 256 then
    BitVec.ofNat 8 ((span 0 8).foldl (fun n i => n + b2n (s.pendingVector port (8 * (a - 32768) + i)) * 2 ^ i) 0)
  else 0

/-! ### HOST_WRITE and HOST_READ -/

/-- The binding of an aperture: tag and base. -/
def State.aperture (s : State) (port a : Nat) : Option (Nat × Word) :=
  Tab.get none ((s.hostPort port).apertures.map fun e => (e.1, some e.2)) (a / 2 ^ 27)

/-- A request that the device completes with Unsupported Request (18: R378). -/
def State.unsupported (s : State) (port : Nat) : State :=
  let h := s.hostPort port
  s.setHostPort port { h with unsupported := h.unsupported + 1 }

/-- The BAR of the function that a request is for (18: R379). -/
def barOf : HostTarget → Option Nat
  | .bar n => if n = 0 || n = 2 || n = 4 then some n else none
  | _ => none

/-- HOST_WRITE: performed in port order, or dropped (18: R379, R381); a payload beyond 512 bytes is none that the device
uses, nor is a request for anything but a BAR (18: R378). -/
def execHostWrite (port : Nat) (target : HostTarget) (addr : Nat) (data : List (BitVec 8)) (s : State) : Out :=
  .next (
    let bar := (barOf target).getD 99
    if !(s.hostPort port).trained then s
    else if 512 < data.length || (barOf target).isNone then s.unsupported port
    else if data.isEmpty then s
    else match bar with
      | 0 =>
        let off := addr % 4096
        if addr < 0x3000000 then (if off < 32 then s.writeQueue (addr / 4096) off data else s)
        else if s.eventPage addr then
          let x := s.part (eventTag addr)
          match overlay x.ehead 4 off data with
          | some v => s.setPart (eventTag addr) { x with ehead := v }
          | none => s
        else s
      | 2 =>
        let h := s.hostPort port
        let t := data.zipIdx.foldl (fun (t : Tab Byte) b => if addr + b.2 < 32768 then Tab.put t (addr + b.2) b.1 else t) h.bar2
        (s.setHostPort port { h with bar2 := t }).sendVectors
      | 4 => match s.aperture port addr with
        | some (tag, base) => s.ringWrite tag (base + BitVec.ofNat 64 (addr % 2 ^ 27)) data
        | none => s
      | _ => s)

/-- The queue has not been opened since bring-up: its page returns CLOSED (18: R386; log 53). -/
def State.neverOpened (s : State) (q : Nat) : Bool := !s.queues.any fun e => e.1 = q

/-- The data of a read, or all ones (18: R379; log 53). -/
def State.hostData (s : State) (port bar addr n : Nat) : List Byte :=
  let ones : List Byte := (span 0 n).map fun _ => 0xFF
  let off := addr % 4096
  if !(s.hostPort port).trained then ones
  else match bar with
    | 0 =>
      if addr < 0x3000000 then
        let x := s.queue (addr / 4096)
        if (x.st ≠ 0 || s.neverOpened (addr / 4096)) && off + n ≤ 32 then takeN n (dropN off (bytesOf x.block)) else ones
      else if s.eventPage addr && off + n ≤ 8 then takeN n (dropN off (bytesOf [(s.part (eventTag addr)).eventWord]))
      else ones
    | 2 => (span addr n).map fun a => s.bar2 port a
    | 4 => match s.aperture port addr with
      | some (tag, base) => match s.ctxRead tag (base + BitVec.ofNat 64 (addr % 2 ^ 27)) n with
        | .ok bs => bs
        | .error _ => ones
      | none => ones
    | _ => ones

/-- The single-bit errors that a read through an aperture has met are counted (10: R190). -/
def State.countAperture (s : State) (port bar addr n : Nat) : State :=
  match s.aperture port addr with
  | some (tag, base) =>
    if (s.hostPort port).trained && bar = 4 then s.countCtx tag (base + BitVec.ofNat 64 (addr % 2 ^ 27)) n else s
  | none => s

/-- HOST_READ: of at most 4,096 bytes of a BAR; whatever else asks for data gets Unsupported Request (18: R378). -/
def execHostRead (port : Nat) (target : HostTarget) (addr n : Nat) (s : State) : Out :=
  .next (
    let h := s.hostPort port
    let bar := (barOf target).getD 99
    if h.trained && (4096 < n || (barOf target).isNone) then s.unsupported port
    else (s.setHostPort port { h with reads := h.reads ++ [s.hostData port bar addr n] }).countAperture port bar addr n)

/-! ### Firmware and attestation (18: R384, R385; log 13) -/

/-- LEN of a firmware slot, and the body after its header. -/
def slotLen (slot : List Byte) : Nat := ofBytes (takeN 8 (dropN 0x10 slot))
def slotBody (slot : List Byte) : List Byte := takeN (slotLen slot) (dropN 0x164 slot)

/-- The boot ROM accepts a firmware slot. -/
def Board.accepts (b : Board) (slot : List Byte) : Bool :=
  let key := takeN 133 (dropN 0x58 slot)
  decide (0x164 + slotLen slot ≤ slot.length) && ofBytes (takeN 8 slot) = 0x4D52494638345756 &&
  decide (b.rollback ≤ ofBytes (takeN 4 (dropN 0x0C slot))) && digest key == b.rootHash &&
  takeN 64 (dropN 0x18 slot) == sha512 (slotBody slot) &&
  verifies key (takeN 0xE0 slot) (takeN 132 (dropN 0xE0 slot))

/-- The slot that the boot ROM accepts: A before B. -/
def Board.slot (b : Board) : Option (List Byte) :=
  if b.accepts b.slotA then some b.slotA else if b.accepts b.slotB then some b.slotB else none

/-- A measurement register is extended. -/
def Board.extend (b : Board) (i : Nat) (d : List Byte) : Board :=
  { b with measures := setNth b.measures i (digest (toBytes 64 (nth 0 b.measures i).toNat ++ d)) }

/-- MEASUREMENT_EXTEND: the firmware call extends M3-M7 only. -/
def execMeasurementExtend (i : Nat) (d : BitVec 512) (s : State) : Out :=
  .next (if 3 ≤ i && i ≤ 7 then { s with board := s.board.extend i (toBytes 64 d.toNat) } else s)

/-- What a quote covers. -/
def Board.quoted (b : Board) (nonce : BitVec 512) : List Byte :=
  (b.measures.flatMap fun m => toBytes 64 m.toNat) ++ toBytes 64 nonce.toNat ++ b.serial

/-- The signature of the device attestation key over some bytes. -/
def attested (q : List Byte) : List Byte := signature Config.attestKey (Config.attestNonce q) q

/-- QUOTE_REQUEST. -/
def execQuoteRequest (nonce : BitVec 512) (s : State) : Out :=
  .next (
    let q := s.board.quoted nonce
    { s with board := { s.board with quotes := s.board.quotes ++ [q ++ attested q] } })

/-! ### POWER_ON_RESET (18: R386; 03: R49-R52, R54, R55) -/

/-- ROLE of a position (03: R50). -/
def roleOf (p : Nat) : Nat := if isIsland p then 1 else if (span 0 4).any (seam p) then 2 else 0

/-- A cluster that its fuses, the flash record or self-test retires (03: R49). -/
def Board.retires (b : Board) (p : Nat) : Bool :=
  !isIsland p && (b.fuses.contains p || b.flash.contains p || b.failing.contains p || b.deadRouters.contains p)

/-- Directions of links that self-test finds to carry nothing (03: R49, R51): those of a router that fails as a whole, both
ways, and lanes that fail. -/
def Board.lanes (b : Board) : List (Nat × Nat) :=
  (b.deadRouters.flatMap fun p => (span 0 4).flatMap fun d => match nextPos p d with
    | some q => [(p, d), (q, opposite d)]
    | none => []) ++ b.badLanes

/-- One lane of the self-test: a seam direction moves to a good spare, unless a router failed; any other is BROKEN. -/
def State.bootLane (s : State) (e : Nat × Nat) : State :=
  match nextPos e.1 e.2 with
  | none => s
  | some q =>
    if (s.router e.1).broken.contains e.2 then s
    else if s.spareFree e.1 e.2 && !s.board.deadRouters.contains e.1 && !s.board.deadRouters.contains q then
      s.moveToSpare e.1 e.2 q
    else
      let x := s.router e.1
      (s.setRouter e.1 { x with broken := x.broken ++ [e.2] }).markBroken e.1 e.2 q

/-- The maps and routes of every region (03: R49-R52, R54, R55). -/
def State.buildMaps (s : State) : State :=
  let s := (span 0 12288).foldl (fun s p =>
    s.setMapEntry p (4 * roleOf p + b2n (s.board.retires p))) s
  let s := s.board.lanes.foldl State.bootLane s
  let s := if s.board.lanes.isEmpty then s else s.detour (2 ^ 48 - 1)
  (span 0 48).foldl (fun s r =>
    let c := s.columnCheck r
    { c.2 with board := { c.2.board with flash := c.2.board.flash ++ c.1 } }.publish r) s

/-- A step of bring-up fails: it is reported over I3C, and what follows does not happen (18: R386). -/
def State.haltAt (s : State) (n : Nat) : State :=
  { s with hostPorts := [], board := { s.board with up := false, i3c := [n] } }

/-- Every unit is as after reset; the fuses, the flash and host memory stay (log 5, 54). -/
def State.unpowered (s : State) : State :=
  { agenda := s.agenda, free := s.free
    mem := s.mem.filter fun c => decide (0x8000000000000 ≤ c.1) && decide (c.1 < 0x10000000000000)
    board := { s.board with up := false, measures := [0, 0, 0, 0, 0, 0, 0, 0], quotes := [], i3c := [] } }

/-- The accepted firmware is loaded into every island, and measured with its body and the retirement record (18: R384,
R385). -/
def State.loadFirmware (s : State) (slot : List Byte) : State :=
  let record := s.board.flash.flatMap fun p => toBytes 2 p
  let b := ((s.board.extend 0 (takeN 0x164 slot)).extend 1 (slotBody slot)).extend 2 record
  (span 0 48).foldl (fun s r => s.setRegion r { s.region r with firmware := slotBody slot }) { s with board := b }

/-- Step 4 of R386: the stacks and the link ports train. -/
def State.trainEdges (s : State) : State :=
  { s with edgeStacks := (span 0 16).map fun n => (n, { trained := true })
           links := (span 0 96).map fun l => (l, { up := true }) }

/-- POWER_ON_RESET (18: R386). -/
def execPowerOnReset (s : State) : Out :=
  .next (
    let t := s.unpowered
    if !t.board.badRails.isEmpty then t.haltAt 1
    else match t.board.slot with
      | none => t.haltAt 2
      | some f =>
        let t := (t.loadFirmware f).buildMaps
        if !(t.board.badStacks.isEmpty && t.board.badLinks.isEmpty) then { t with edgeStacks := [], links := [] }.haltAt 4
        else if !t.board.badPorts.isEmpty then t.trainEdges.haltAt 5
        else
          let ports := (span 0 4).map fun p => (p, ({ trained := true } : HostPort))
          { t.trainEdges with hostPorts := ports, board := { t.board with up := true, i3c := [] } })

end Sys2Proof.Machine
end

