-- ==== Sys2Proof/Machine/Dispatch.lean ====
section
/-! DEFINITION. One arm per constructor of Instr: the meaning of each row of the operation table. -/

namespace Sys2Proof.Machine

def exec (i : Instr) (s : State) : Host.Outcome State Fault Refusal :=
  match i with
  | .add w cs rb ra rd => Sys2Proof.Machine.execAdd w cs rb ra rd s
  | .sub w cs rb ra rd => Sys2Proof.Machine.execSub w cs rb ra rd s
  | .and w cs rb ra rd => Sys2Proof.Machine.execAnd w cs rb ra rd s
  | .or w cs rb ra rd => Sys2Proof.Machine.execOr w cs rb ra rd s
  | .xor w cs rb ra rd => Sys2Proof.Machine.execXor w cs rb ra rd s
  | .andn w cs rb ra rd => Sys2Proof.Machine.execAndn w cs rb ra rd s
  | .shl w cs rb ra rd => Sys2Proof.Machine.execShl w cs rb ra rd s
  | .shr w cs rb ra rd => Sys2Proof.Machine.execShr w cs rb ra rd s
  | .sar w cs rb ra rd => Sys2Proof.Machine.execSar w cs rb ra rd s
  | .ror w cs rb ra rd => Sys2Proof.Machine.execRor w cs rb ra rd s
  | .mul w cs rb ra rd => Sys2Proof.Machine.execMul w cs rb ra rd s
  | .mulh w cs rb ra rd => Sys2Proof.Machine.execMulh w cs rb ra rd s
  | .mulhu w cs rb ra rd => Sys2Proof.Machine.execMulhu w cs rb ra rd s
  | .div w cs rb ra rd => Sys2Proof.Machine.execDiv w cs rb ra rd s
  | .divu w cs rb ra rd => Sys2Proof.Machine.execDivu w cs rb ra rd s
  | .rem w cs rb ra rd => Sys2Proof.Machine.execRem w cs rb ra rd s
  | .remu w cs rb ra rd => Sys2Proof.Machine.execRemu w cs rb ra rd s
  | .min w cs rb ra rd => Sys2Proof.Machine.execMin w cs rb ra rd s
  | .max w cs rb ra rd => Sys2Proof.Machine.execMax w cs rb ra rd s
  | .minu w cs rb ra rd => Sys2Proof.Machine.execMinu w cs rb ra rd s
  | .maxu w cs rb ra rd => Sys2Proof.Machine.execMaxu w cs rb ra rd s
  | .slt w cs rb ra rd => Sys2Proof.Machine.execSlt w cs rb ra rd s
  | .sltu w cs rb ra rd => Sys2Proof.Machine.execSltu w cs rb ra rd s
  | .seq w cs rb ra rd => Sys2Proof.Machine.execSeq w cs rb ra rd s
  | .sel w cs rb ra rd => Sys2Proof.Machine.execSel w cs rb ra rd s
  | .clz ra rd => Sys2Proof.Machine.execClz ra rd s
  | .ctz ra rd => Sys2Proof.Machine.execCtz ra rd s
  | .popc ra rd => Sys2Proof.Machine.execPopc ra rd s
  | .bswap ra rd => Sys2Proof.Machine.execBswap ra rd s
  | .sextb ra rd => Sys2Proof.Machine.execSextb ra rd s
  | .sexth ra rd => Sys2Proof.Machine.execSexth ra rd s
  | .sextw ra rd => Sys2Proof.Machine.execSextw ra rd s
  | .zextw ra rd => Sys2Proof.Machine.execZextw ra rd s
  | .bext w cs rb ra rd => Sys2Proof.Machine.execBext w cs rb ra rd s
  | .bdep w cs rb ra rd => Sys2Proof.Machine.execBdep w cs rb ra rd s
  | .addi imm ra rd => Sys2Proof.Machine.execAddi imm ra rd s
  | .andi imm ra rd => Sys2Proof.Machine.execAndi imm ra rd s
  | .ori imm ra rd => Sys2Proof.Machine.execOri imm ra rd s
  | .shli n ra rd => Sys2Proof.Machine.execShli n ra rd s
  | .shri n ra rd => Sys2Proof.Machine.execShri n ra rd s
  | .sari n ra rd => Sys2Proof.Machine.execSari n ra rd s
  | .rori n ra rd => Sys2Proof.Machine.execRori n ra rd s
  | .fadd w cs rb ra rd => Sys2Proof.Machine.execFadd w cs rb ra rd s
  | .fsub w cs rb ra rd => Sys2Proof.Machine.execFsub w cs rb ra rd s
  | .fmul w cs rb ra rd => Sys2Proof.Machine.execFmul w cs rb ra rd s
  | .fdiv w cs rb ra rd => Sys2Proof.Machine.execFdiv w cs rb ra rd s
  | .ffma w cs rb ra rd => Sys2Proof.Machine.execFfma w cs rb ra rd s
  | .fmin w cs rb ra rd => Sys2Proof.Machine.execFmin w cs rb ra rd s
  | .fmax w cs rb ra rd => Sys2Proof.Machine.execFmax w cs rb ra rd s
  | .fsqrt w cs ra rd => Sys2Proof.Machine.execFsqrt w cs ra rd s
  | .fcmpEq rb ra rd => Sys2Proof.Machine.execFcmpEq rb ra rd s
  | .fcmpLt rb ra rd => Sys2Proof.Machine.execFcmpLt rb ra rd s
  | .fcmpLe rb ra rd => Sys2Proof.Machine.execFcmpLe rb ra rd s
  | .fcmpUnord rb ra rd => Sys2Proof.Machine.execFcmpUnord rb ra rd s
  | .fcvtF32S64 ra rd => Sys2Proof.Machine.execFcvtF32S64 ra rd s
  | .fcvtS64F32 ra rd => Sys2Proof.Machine.execFcvtS64F32 ra rd s
  | .fcvtF32Bf16 ra rd => Sys2Proof.Machine.execFcvtF32Bf16 ra rd s
  | .fcvtBf16F32 ra rd => Sys2Proof.Machine.execFcvtBf16F32 ra rd s
  | .fcvtF32F16 ra rd => Sys2Proof.Machine.execFcvtF32F16 ra rd s
  | .fcvtF16F32 ra rd => Sys2Proof.Machine.execFcvtF16F32 ra rd s
  | .fcvtF32Fmt fn ra rd => Sys2Proof.Machine.execFcvtF32Fmt fn ra rd s
  | .fcvtFmtF32 fn ra rd => Sys2Proof.Machine.execFcvtFmtF32 fn ra rd s
  | .fneg ra rd => Sys2Proof.Machine.execFneg ra rd s
  | .fabs ra rd => Sys2Proof.Machine.execFabs ra rd s
  | .fcopysign rb ra rd => Sys2Proof.Machine.execFcopysign rb ra rd s
  | .fclass ra rd => Sys2Proof.Machine.execFclass ra rd s
  | .movk w k rd => Sys2Proof.Machine.execMovk w k rd s
  | .addk w k ra rd => Sys2Proof.Machine.execAddk w k ra rd s
  | .beq imm rb ra => Sys2Proof.Machine.execBeq imm rb ra s
  | .bne imm rb ra => Sys2Proof.Machine.execBne imm rb ra s
  | .blt imm rb ra => Sys2Proof.Machine.execBlt imm rb ra s
  | .bge imm rb ra => Sys2Proof.Machine.execBge imm rb ra s
  | .bltu imm rb ra => Sys2Proof.Machine.execBltu imm rb ra s
  | .bgeu imm rb ra => Sys2Proof.Machine.execBgeu imm rb ra s
  | .j imm => Sys2Proof.Machine.execJ imm s
  | .jl imm => Sys2Proof.Machine.execJl imm s
  | .jr w cs ra rd => Sys2Proof.Machine.execJr w cs ra rd s
  | .loop imm ra => Sys2Proof.Machine.execLoop imm ra s
  | .done => Sys2Proof.Machine.execDone s
  | .doneRepost => Sys2Proof.Machine.execDoneRepost s
  | .bfe imm rb ra => Sys2Proof.Machine.execBfe imm rb ra s
  | .waitfe rb ra => Sys2Proof.Machine.execWaitfe rb ra s
  | .csrw csr ra rd => Sys2Proof.Machine.execCsrw csr ra rd s
  | .csrs csr ra rd => Sys2Proof.Machine.execCsrs csr ra rd s
  | .csrc csr ra rd => Sys2Proof.Machine.execCsrc csr ra rd s
  | .csrr csr rd => Sys2Proof.Machine.execCsrr csr rd s
  | .ldb imm ra rd => Sys2Proof.Machine.execLdb imm ra rd s
  | .ldbu imm ra rd => Sys2Proof.Machine.execLdbu imm ra rd s
  | .ldh imm ra rd => Sys2Proof.Machine.execLdh imm ra rd s
  | .ldhu imm ra rd => Sys2Proof.Machine.execLdhu imm ra rd s
  | .ldw imm ra rd => Sys2Proof.Machine.execLdw imm ra rd s
  | .ldwu imm ra rd => Sys2Proof.Machine.execLdwu imm ra rd s
  | .ldd imm ra rd => Sys2Proof.Machine.execLdd imm ra rd s
  | .stb imm ra rd => Sys2Proof.Machine.execStb imm ra rd s
  | .sth imm ra rd => Sys2Proof.Machine.execSth imm ra rd s
  | .stw imm ra rd => Sys2Proof.Machine.execStw imm ra rd s
  | .std imm ra rd => Sys2Proof.Machine.execStd imm ra rd s
  | .lds imm ra rd => Sys2Proof.Machine.execLds imm ra rd s
  | .ldv ra vn => Sys2Proof.Machine.execLdv ra vn s
  | .stv ra vn => Sys2Proof.Machine.execStv ra vn s
  | .bitld wm1 ra rd => Sys2Proof.Machine.execBitld wm1 ra rd s
  | .bitst wm1 ra rd => Sys2Proof.Machine.execBitst wm1 ra rd s
  | .ldr ra h vn => Sys2Proof.Machine.execLdr ra h vn s
  | .lde ra rd => Sys2Proof.Machine.execLde ra rd s
  | .stf ra rd => Sys2Proof.Machine.execStf ra rd s
  | .setf ra => Sys2Proof.Machine.execSetf ra s
  | .sete ra => Sys2Proof.Machine.execSete ra s
  | .setfRs ra => Sys2Proof.Machine.execSetfRs ra s
  | .seteRs ra => Sys2Proof.Machine.execSeteRs ra s
  | .amo wd ord op ra rd => Sys2Proof.Machine.execAmo wd ord op ra rd s
  | .amoxXchg ord ra rd => Sys2Proof.Machine.execAmoxXchg ord ra rd s
  | .amoxCas ord rb ra rd => Sys2Proof.Machine.execAmoxCas ord rb ra rd s
  | .amofFadd32 ord ra rd => Sys2Proof.Machine.execAmofFadd32 ord ra rd s
  | .amofFmaxabs ord ra rd => Sys2Proof.Machine.execAmofFmaxabs ord ra rd s
  | .amofBumplim ord rb ra rd => Sys2Proof.Machine.execAmofBumplim ord rb ra rd s
  | .fence sc => Sys2Proof.Machine.execFence sc s
  | .fencer rb ra sc => Sys2Proof.Machine.execFencer rb ra sc s
  | .tfence => Sys2Proof.Machine.execTfence s
  | .ldacq sz sc ra rd => Sys2Proof.Machine.execLdacq sz sc ra rd s
  | .strel sz sc ra rd => Sys2Proof.Machine.execStrel sz sc ra rd s
  | .send rb ra rd => Sys2Proof.Machine.execSend rb ra rd s
  | .sendv vn ra => Sys2Proof.Machine.execSendv vn ra s
  | .sendp rb ra rd => Sys2Proof.Machine.execSendp rb ra rd s
  | .post ra => Sys2Proof.Machine.execPost ra s
  | .hmask rb ra rd => Sys2Proof.Machine.execHmask rb ra rd s
  | .arradd rb ra => Sys2Proof.Machine.execArradd rb ra s
  | .arrwait rb ra => Sys2Proof.Machine.execArrwait rb ra s
  | .arrreset ra rd => Sys2Proof.Machine.execArrreset ra rd s
  | .cbarArrive rb ra rd => Sys2Proof.Machine.execCbarArrive rb ra rd s
  | .cbarWait rb ra => Sys2Proof.Machine.execCbarWait rb ra s
  | .cbarArrivewait rb ra rd => Sys2Proof.Machine.execCbarArrivewait rb ra rd s
  | .cpygo rb ra rd => Sys2Proof.Machine.execCpygo rb ra rd s
  | .cpywait rb rd => Sys2Proof.Machine.execCpywait rb rd s
  | .cpystat rb rd => Sys2Proof.Machine.execCpystat rb rd s
  | .tmset ra tm => Sys2Proof.Machine.execTmset ra tm s
  | .tmget ra tm => Sys2Proof.Machine.execTmget ra tm s
  | .waitmask rb ra => Sys2Proof.Machine.execWaitmask rb ra s
  | .testmask rb ra rd => Sys2Proof.Machine.execTestmask rb ra rd s
  | .hbset rb ra rd => Sys2Proof.Machine.execHbset rb ra rd s
  | .fmtset ra fd => Sys2Proof.Machine.execFmtset ra fd s
  | .mldw pr fmt tm wb => Sys2Proof.Machine.execMldw pr fmt tm wb s
  | .mmul pr set fmt tm bank acc => Sys2Proof.Machine.execMmul pr set fmt tm bank acc s
  | .mream pr fmt tm q cb => Sys2Proof.Machine.execMream pr fmt tm q cb s
  | .mrmrg src dst => Sys2Proof.Machine.execMrmrg src dst s
  | .mdrain ra set acc cb => Sys2Proof.Machine.execMdrain ra set acc cb s
  | .mstore pr fmt tm acc => Sys2Proof.Machine.execMstore pr fmt tm acc s
  | .mclr tgt => Sys2Proof.Machine.execMclr tgt s
  | .mstat rd => Sys2Proof.Machine.execMstat rd s
  | .vadd ty vb va vd => Sys2Proof.Machine.execVadd ty vb va vd s
  | .vsub ty vb va vd => Sys2Proof.Machine.execVsub ty vb va vd s
  | .vmul ty vb va vd => Sys2Proof.Machine.execVmul ty vb va vd s
  | .vfma ty vb va vd => Sys2Proof.Machine.execVfma ty vb va vd s
  | .vmin ty vb va vd => Sys2Proof.Machine.execVmin ty vb va vd s
  | .vmax ty vb va vd => Sys2Proof.Machine.execVmax ty vb va vd s
  | .vabs ty va vd => Sys2Proof.Machine.execVabs ty va vd s
  | .vneg ty va vd => Sys2Proof.Machine.execVneg ty va vd s
  | .vand vb va vd => Sys2Proof.Machine.execVand vb va vd s
  | .vor vb va vd => Sys2Proof.Machine.execVor vb va vd s
  | .vxor vb va vd => Sys2Proof.Machine.execVxor vb va vd s
  | .vandn vb va vd => Sys2Proof.Machine.execVandn vb va vd s
  | .vshl ty vb va vd => Sys2Proof.Machine.execVshl ty vb va vd s
  | .vshr ty vb va vd => Sys2Proof.Machine.execVshr ty vb va vd s
  | .vsar ty vb va vd => Sys2Proof.Machine.execVsar ty vb va vd s
  | .vnot va vd => Sys2Proof.Machine.execVnot va vd s
  | .vcmp cond ty vb va vd => Sys2Proof.Machine.execVcmp cond ty vb va vd s
  | .vsel ty vb va vd => Sys2Proof.Machine.execVsel ty vb va vd s
  | .vpermx ty vb va vd => Sys2Proof.Machine.execVpermx ty vb va vd s
  | .vbcast ty va vd => Sys2Proof.Machine.execVbcast ty va vd s
  | .vslideup ty vb va vd => Sys2Proof.Machine.execVslideup ty vb va vd s
  | .vslidedn ty vb va vd => Sys2Proof.Machine.execVslidedn ty vb va vd s
  | .vzip ty vb va vd => Sys2Proof.Machine.execVzip ty vb va vd s
  | .vunzip ty va vd => Sys2Proof.Machine.execVunzip ty va vd s
  | .viota ty vd => Sys2Proof.Machine.execViota ty vd s
  | .vcvt dst src part mode va vd => Sys2Proof.Machine.execVcvt dst src part mode va vd s
  | .vred op ty va vd => Sys2Proof.Machine.execVred op ty va vd s
  | .ldtm ty vb tm vd => Sys2Proof.Machine.execLdtm ty vb tm vd s
  | .sttm ty vb tm vd => Sys2Proof.Machine.execSttm ty vb tm vd s
  | .ldstr ty vb va vd => Sys2Proof.Machine.execLdstr ty vb va vd s
  | .ststr ty vb va vd => Sys2Proof.Machine.execStstr ty vb va vd s
  | .ldgi ty vb va vd => Sys2Proof.Machine.execLdgi ty vb va vd s
  | .stsi ty vb va vd => Sys2Proof.Machine.execStsi ty vb va vd s
  | .ldfe va vd => Sys2Proof.Machine.execLdfe va vd s
  | .vmovls ty vb va vd => Sys2Proof.Machine.execVmovls ty vb va vd s
  | .vmovsl ty vb va vd => Sys2Proof.Machine.execVmovsl ty vb va vd s
  | .exp ty va vd => Sys2Proof.Machine.execExp ty va vd s
  | .exp2 ty va vd => Sys2Proof.Machine.execExp2 ty va vd s
  | .log2 ty va vd => Sys2Proof.Machine.execLog2 ty va vd s
  | .rsqrt ty va vd => Sys2Proof.Machine.execRsqrt ty va vd s
  | .rcp ty va vd => Sys2Proof.Machine.execRcp ty va vd s
  | .tanh ty va vd => Sys2Proof.Machine.execTanh ty va vd s
  | .sigmoid ty va vd => Sys2Proof.Machine.execSigmoid ty va vd s
  | .rowmaxsub ty va vd => Sys2Proof.Machine.execRowmaxsub ty va vd s
  | .smpath ty vb vd => Sys2Proof.Machine.execSmpath ty vb vd s
  | .smerge ty vb => Sys2Proof.Machine.execSmerge ty vb s
  | .smkv ty vb => Sys2Proof.Machine.execSmkv ty vb s
  | .smsort ty va vd => Sys2Proof.Machine.execSmsort ty va vd s
  | .gxgather ty vb va => Sys2Proof.Machine.execGxgather ty vb va s
  | .gxscat ty vb va => Sys2Proof.Machine.execGxscat ty vb va s
  | .gxbins ty vb va vd => Sys2Proof.Machine.execGxbins ty vb va vd s
  | .gxstat vd => Sys2Proof.Machine.execGxstat vd s
  | .zdgo vb => Sys2Proof.Machine.execZdgo vb s
  | .zdwait vd => Sys2Proof.Machine.execZdwait vd s
  | .rdsum ty vb va => Sys2Proof.Machine.execRdsum ty vb va s
  | .rdmax ty vb va => Sys2Proof.Machine.execRdmax ty vb va s
  | .rdjoin vb => Sys2Proof.Machine.execRdjoin vb s
  | .lease prio eng ra rd => Sys2Proof.Machine.execLease prio eng ra rd s
  | .lyield eng rd => Sys2Proof.Machine.execLyield eng rd s
  | .lfree eng => Sys2Proof.Machine.execLfree eng s
  | .lstat eng rd => Sys2Proof.Machine.execLstat eng rd s
  | .brk => Sys2Proof.Machine.execBrk s
  | .trap n ra => Sys2Proof.Machine.execTrap n ra s
  | .dbgmark ra => Sys2Proof.Machine.execDbgmark ra s
  | .qtile rb ra rd => Sys2Proof.Machine.execQtile rb ra rd s
  | .qcap rd => Sys2Proof.Machine.execQcap rd s
  | .qpwr rd => Sys2Proof.Machine.execQpwr rd s
  | .nop => Sys2Proof.Machine.execNop s
  | .tret => Sys2Proof.Machine.execTret s
  | .evwait => Sys2Proof.Machine.execEvwait s
  | .tlbinv ra => Sys2Proof.Machine.execTlbinv ra s
  | .tlbinva ra => Sys2Proof.Machine.execTlbinva ra s
  | .icinv ra rd => Sys2Proof.Machine.execIcinv ra rd s
  | .dcflush ra rd => Sys2Proof.Machine.execDcflush ra rd s
  | .dcinv ra rd => Sys2Proof.Machine.execDcinv ra rd s
  | .haltb ra => Sys2Proof.Machine.execHaltb ra s
  | .resumeb ra => Sys2Proof.Machine.execResumeb ra s
  | .savectx ra rd => Sys2Proof.Machine.execSavectx ra rd s
  | .loadctx ra rd => Sys2Proof.Machine.execLoadctx ra rd s
  | .addQ ra rd => Sys2Proof.Machine.execAddQ ra rd s
  | .subQ ra rd => Sys2Proof.Machine.execSubQ ra rd s
  | .andQ ra rd => Sys2Proof.Machine.execAndQ ra rd s
  | .orQ ra rd => Sys2Proof.Machine.execOrQ ra rd s
  | .movQ ra rd => Sys2Proof.Machine.execMovQ ra rd s
  | .moviQ imm rd => Sys2Proof.Machine.execMoviQ imm rd s
  | .addiQ imm rd => Sys2Proof.Machine.execAddiQ imm rd s
  | .shliQ n rd => Sys2Proof.Machine.execShliQ n rd s
  | .shriQ n rd => Sys2Proof.Machine.execShriQ n rd s
  | .lddQ ext ra rd => Sys2Proof.Machine.execLddQ ext ra rd s
  | .stdQ ext ra rd => Sys2Proof.Machine.execStdQ ext ra rd s
  | .ldwQ ext ra rd => Sys2Proof.Machine.execLdwQ ext ra rd s
  | .stwQ ext ra rd => Sys2Proof.Machine.execStwQ ext ra rd s
  | .bezQ imm rd => Sys2Proof.Machine.execBezQ imm rd s
  | .bnzQ imm rd => Sys2Proof.Machine.execBnzQ imm rd s
  | .jQ imm => Sys2Proof.Machine.execJQ imm s
  | .jrQ rd => Sys2Proof.Machine.execJrQ rd s
  | .doneQ => Sys2Proof.Machine.execDoneQ s
  | .brkQ => Sys2Proof.Machine.execBrkQ s
  | .nopQ => Sys2Proof.Machine.execNopQ s
  | .powerOnReset => Sys2Proof.Machine.execPowerOnReset s
  | .doorbell q tail => Sys2Proof.Machine.execDoorbell q tail s
  | .cheadWrite q chead => Sys2Proof.Machine.execCheadWrite q chead s
  | .teardown q => Sys2Proof.Machine.execTeardown q s
  | .reset q => Sys2Proof.Machine.execReset q s
  | .replay q => Sys2Proof.Machine.execReplay q s
  | .abort q => Sys2Proof.Machine.execAbort q s
  | .workRecordRead q => Sys2Proof.Machine.execWorkRecordRead q s
  | .itemDispatch region => Sys2Proof.Machine.execItemDispatch region s
  | .tokenRefill region => Sys2Proof.Machine.execTokenRefill region s
  | .routeQuiet region => Sys2Proof.Machine.execRouteQuiet region s
  | .routeQuietTimeout region => Sys2Proof.Machine.execRouteQuietTimeout region s
  | .launchStart q => Sys2Proof.Machine.execLaunchStart q s
  | .clusterStart pos => Sys2Proof.Machine.execClusterStart pos s
  | .completionSignal region => Sys2Proof.Machine.execCompletionSignal region s
  | .entryInvalidate k => Sys2Proof.Machine.execEntryInvalidate k s
  | .nodeComplete g n => Sys2Proof.Machine.execNodeComplete g n s
  | .conditionRead g n => Sys2Proof.Machine.execConditionRead g n s
  | .copyNodeDone g n => Sys2Proof.Machine.execCopyNodeDone g n s
  | .drainComplete q => Sys2Proof.Machine.execDrainComplete q s
  | .linkFault pos dir => Sys2Proof.Machine.execLinkFault pos dir s
  | .routeRepair tag => Sys2Proof.Machine.execRouteRepair tag s
  | .routerForward idx => Sys2Proof.Machine.execRouterForward idx s
  | .islandQtile region => Sys2Proof.Machine.execIslandQtile region s
  | .codeCacheFill pos => Sys2Proof.Machine.execCodeCacheFill pos s
  | .activationStart k => Sys2Proof.Machine.execActivationStart k s
  | .messageDeposit pos vc => Sys2Proof.Machine.execMessageDeposit pos vc s
  | .dispatchAccept pos c => Sys2Proof.Machine.execDispatchAccept pos c s
  | .engineOpComplete pos eng => Sys2Proof.Machine.execEngineOpComplete pos eng s
  | .engineFault pos eng => Sys2Proof.Machine.execEngineFault pos eng s
  | .leaseGrant pos eng => Sys2Proof.Machine.execLeaseGrant pos eng s
  | .graceExpiry pos eng progress => Sys2Proof.Machine.execGraceExpiry pos eng progress s
  | .leaseRelease pos eng => Sys2Proof.Machine.execLeaseRelease pos eng s
  | .engineGate pos eng => Sys2Proof.Machine.execEngineGate pos eng s
  | .powerEvaluation region milliwatts degrees => Sys2Proof.Machine.execPowerEvaluation region milliwatts degrees s
  | .thermalTrip region degrees => Sys2Proof.Machine.execThermalTrip region degrees s
  | .operatingPointChange k point => Sys2Proof.Machine.execOperatingPointChange k point s
  | .operatingPointDone k => Sys2Proof.Machine.execOperatingPointDone k s
  | .railEvaluation rail => Sys2Proof.Machine.execRailEvaluation rail s
  | .voteWithdraw region => Sys2Proof.Machine.execVoteWithdraw region s
  | .ldoAcknowledge rail => Sys2Proof.Machine.execLdoAcknowledge rail s
  | .stackThrottle stack degrees => Sys2Proof.Machine.execStackThrottle stack degrees s
  | .stackRestore stack degrees => Sys2Proof.Machine.execStackRestore stack degrees s
  | .sendInject k => Sys2Proof.Machine.execSendInject k s
  | .requestServe u => Sys2Proof.Machine.execRequestServe u s
  | .watchpointStop pos => Sys2Proof.Machine.execWatchpointStop pos s
  | .replySink pos => Sys2Proof.Machine.execReplySink pos s
  | .islandForward region => Sys2Proof.Machine.execIslandForward region s
  | .walkComplete region idx => Sys2Proof.Machine.execWalkComplete region idx s
  | .storeRelease core => Sys2Proof.Machine.execStoreRelease core s
  | .recordStart pos ch => Sys2Proof.Machine.execRecordStart pos ch s
  | .sectorComplete pos ch sector => Sys2Proof.Machine.execSectorComplete pos ch sector s
  | .sectorFault pos ch sector => Sys2Proof.Machine.execSectorFault pos ch sector s
  | .burstStart port => Sys2Proof.Machine.execBurstStart port s
  | .headboxBlockSend port => Sys2Proof.Machine.execHeadboxBlockSend port s
  | .headboxBlockTake pos idx => Sys2Proof.Machine.execHeadboxBlockTake pos idx s
  | .rdContribution pos vc => Sys2Proof.Machine.execRdContribution pos vc s
  | .zdJobEnd pos => Sys2Proof.Machine.execZdJobEnd pos s
  | .fabricFlagArrive source seq addr data => Sys2Proof.Machine.execFabricFlagArrive source seq addr data s
  | .fabricResend idx => Sys2Proof.Machine.execFabricResend idx s
  | .trapTake k => Sys2Proof.Machine.execTrapTake k s
  | .resumeRetry k => Sys2Proof.Machine.execResumeRetry k s
  | .resumeNext k => Sys2Proof.Machine.execResumeNext k s
  | .resumeGoto k target => Sys2Proof.Machine.execResumeGoto k target s
  | .resumeEnd k fail => Sys2Proof.Machine.execResumeEnd k fail s
  | .preemptDrainEnd tag torn => Sys2Proof.Machine.execPreemptDrainEnd tag torn s
  | .lockstepCheckpoint k => Sys2Proof.Machine.execLockstepCheckpoint k s
  | .lockstepMismatch k => Sys2Proof.Machine.execLockstepMismatch k s
  | .lockstepRollback k => Sys2Proof.Machine.execLockstepRollback k s
  | .islandTrapEntry k cause addr => Sys2Proof.Machine.execIslandTrapEntry k cause addr s
  | .islandEventEntry k => Sys2Proof.Machine.execIslandEventEntry k s
  | .islandTimer region cycles => Sys2Proof.Machine.execIslandTimer region cycles s
  | .ktcmpWrite k v => Sys2Proof.Machine.execKtcmpWrite k v s
  | .wedgedCoreRestart k addr => Sys2Proof.Machine.execWedgedCoreRestart k addr s
  | .hubRead region place => Sys2Proof.Machine.execHubRead region place s
  | .hubWrite region place v => Sys2Proof.Machine.execHubWrite region place v s
  | .softStop pos => Sys2Proof.Machine.execSoftStop pos s
  | .softStopComplete pos => Sys2Proof.Machine.execSoftStopComplete pos s
  | .clusterStop pos mask => Sys2Proof.Machine.execClusterStop pos mask s
  | .step k => Sys2Proof.Machine.execStep k s
  | .hubResume pos => Sys2Proof.Machine.execHubResume pos s
  | .hardStopReceive pos idx => Sys2Proof.Machine.execHardStopReceive pos idx s
  | .coreStop k skid => Sys2Proof.Machine.execCoreStop k skid s
  | .routerCounterWrite pos => Sys2Proof.Machine.execRouterCounterWrite pos s
  | .hostWrite port bar addr data => Sys2Proof.Machine.execHostWrite port bar addr data s
  | .hostRead port bar addr n => Sys2Proof.Machine.execHostRead port bar addr n s
  | .linkFrameReceive link lseq ack crc flit => Sys2Proof.Machine.execLinkFrameReceive link lseq ack crc flit s
  | .linkReplay link => Sys2Proof.Machine.execLinkReplay link s
  | .fabricRequestReceive port wafer srcTag kind addr data => Sys2Proof.Machine.execFabricRequestReceive port wafer srcTag kind addr data s
  | .quoteRequest nonce => Sys2Proof.Machine.execQuoteRequest nonce s
  | .measurementExtend idx d => Sys2Proof.Machine.execMeasurementExtend idx d s
  | .restoreComplete tag => Sys2Proof.Machine.execRestoreComplete tag s

end Sys2Proof.Machine
end

