-- ==== Sys2Proof/Machine/Step.lean ====
section
/-! DEFINITION. The step of the machine and the placing of a word where it fetches. -/

namespace Sys2Proof.Machine

/-- One step: the head of the agenda acts, or the current core issues (Issue.lean). -/
def step (s : State) : Host.Outcome State Fault Refusal := s.move exec

/-- The instruction of the bits `w` stored where `step` fetches next (Issue.lean, `State.placeWord`). -/
def State.withFetchWord (s : State) (nbits w : Nat) : State := s.placeWord nbits w

end Sys2Proof.Machine
end

