-- ==== Sys2Proof/Safety.lean ====
section
/-! DEFINITION. What counts as a safe run, in the terms the statements use: the invariant of the machine, when an
instruction executes, and what its completion does to the core that issued it. -/

namespace Sys2Proof.Machine

/-- Memory is in its canonical form. -/
def State.Inv (s : State) : Prop := Memory.wf s.mem = true

/-! ### When an instruction executes (04: R75; 05: R93) -/

/-- Tile core `k` issues, the registers `srcs` are full, and a write of `rd` waits for nothing. -/
def State.tileReady (s : State) (k : Nat) (srcs : List Nat) (rd : Nat) : Prop :=
  s.cur = .tile k ∧ (∀ r ∈ srcs, (s.core k).reg.isEmpty r = false) ∧ s.writeWaits k rd = false

/-- The machine's next move is that tile core `k`, in no pair, issues; no frame of a step and no write of GOTO is left
over (16: R334, R335, R338; 17: R359, R361, R364). -/
def State.issuing (s : State) (k : Nat) : Prop :=
  let c := s.core k
  s.agenda = [] ∧ s.cur = .tile k ∧ c.pair = .alone ∧ c.still = false ∧ c.mustStop = false ∧
  s.preempted (corePos k) = false ∧ c.due = [] ∧ c.ch.isSome = true ∧ c.stream = [] ∧
  c.sends = [] ∧ c.stepFrame = false ∧ c.link = none

/-- The I-cache of tile core `k` holds the halfword `h` of the code address `a` (04: R67, R68). -/
def State.cached (s : State) (k : Nat) (a : Word) (h : Nat) : Prop :=
  codeAddr (corePos k) a = true ∧ ∃ l, lineOf (s.core k).icache (a >>> 6) = some l ∧ lineHalf l a = h

/-- The store buffer, the reply slots and what a pair holds are empty, and no failed access waits for the island: every
earlier access is performed (15: R312; 09: R186). -/
def Core.drained (c : Core) : Prop :=
  c.sbuf = [] ∧ c.stream = [] ∧ c.held = [] ∧ c.accesses = []

/-- The same of core `k`, and no LDFE of it has still to be performed (10: R205; 14: R294). -/
def State.noneOut (s : State) (k : Nat) : Prop := (s.core k).drained ∧ s.ldfeBefore k (s.core k).nextSeq = false

/-- Writes of words of register space wait for nothing. -/
def State.wordsFree (s : State) (k : Nat) (ws : List Nat) : Prop := ∀ w ∈ ws, s.writeWaits k w = false

/-- The eight reply slots are free (09: R184). -/
def Core.slotsFree (c : Core) : Prop := c.slots = List.replicate 8 none

/-- No watch of a cluster is enabled, and no word holds a single-bit error that a read would count (10: R190;
17: R369). -/
def State.quietReads (s : State) (p : Nat) : Prop :=
  s.eccSoft = [] ∧ ∀ i, i < 9 → bit (Tab.get 0 (s.cluster p).wp i) 63 = false

/-- A store buffer that takes entries: room for `n`, nothing streams, the core is in no pair and holds nothing, and the
send port has nothing left to read (09: R175; 15: R314). -/
def Core.storeRoom (c : Core) (n : Nat) : Prop :=
  c.sbuf.length + n ≤ 16 ∧ c.stream = [] ∧ c.pair = .alone ∧ c.sendq = [] ∧ c.sends = [] ∧ c.held = []

/-- Core `k` holds the leases of engines and gives none of them back (07: R146). -/
def Core.leased (c : Core) (es : List Nat) : Prop :=
  ∀ e ∈ es, ((Tab.get {} c.leases e).st = .held ∨ (Tab.get {} c.leases e).st = .grace) ∧
    (Tab.get {} c.leases e).yielding = false

/-! ### What completion does to a core (04: R71; 05: R90, R97, R100, R101) -/

/-- The instruction retires and control goes to `t`. -/
def Core.retired (c : Core) (t : Word) : Core :=
  { c with came := some c.pc, pc := t, blocked := none, instret := c.instret + 1, cycle := c.cycle + 1,
           sinceCkpt := if c.pair = .first then c.sinceCkpt + 1 else c.sinceCkpt }

/-- A scalar register is written, full, with a copy set; s0 discards the write. -/
def Core.wrote (c : Core) (rd : Nat) (v : Word) (cs : Nat) : Core :=
  if rd = 0 then c else { c with reg := (c.reg.put rd v).copySet rd cs }

/-- Sticky flags are set. -/
def Core.flagged (c : Core) (f : Flags) : Core := { c with fcsr := c.fcsr ||| ((f.setWidth 64) <<< 8) }

/-- Registers are read in a slice. -/
def Core.readIn (c : Core) (sl : Slice) (rs : List Nat) : Core :=
  { c with reg := rs.foldl (fun g r => g.refresh sl r) c.reg }

/-- Read in a slice, write a register, retire to the next instruction. -/
def Core.done (c : Core) (sl : Slice) (rs : List Nat) (rd : Nat) (v : Word) (cs len : Nat) : Core :=
  ((c.readIn sl rs).wrote rd v cs).retired (c.pc + BitVec.ofNat 64 len)

/-- Entries join the store buffer in program order. -/
def Core.buffers (c : Core) (es : List Buffered) : Core :=
  { c with sbuf := c.sbuf ++ es, nextSeq := c.nextSeq + es.length }

/-- A buffered store of the low `n` bytes of `v` at `a`: the bits of one aligned word that it replaces, at the home
of the word where the own cluster serves it (10: R204; 15: R314). -/
def Buffered.holds (e : Buffered) (k : Nat) (t : Target) (a : Word) (n : Nat) (v : Word) : Prop :=
  let lo := 8 * (a.toNat % 8)
  e.acc.addr = a ∧ e.acc.n = n ∧ e.mask = BitVec.ofNat 64 ((2 ^ (8 * n) - 1) * 2 ^ lo) ∧
  e.data = (v &&& BitVec.ofNat 64 (2 ^ (8 * n) - 1)) <<< lo ∧ e.homeAt = (t.home k).map fun h => h / 8 * 8

/-- The instruction retires on an island core (16: R352). -/
def ICore.retired (c : ICore) (t : Word) : ICore :=
  { c with came := some c.pc, pc := t, blocked := none, instret := c.instret + 1, cycle := c.cycle + 1 }

/-- A register of an island core is written. -/
def ICore.wrote (c : ICore) (rd : Nat) (v : Word) : ICore :=
  if rd = 0 then c else { c with regs := Tab.put c.regs rd v }

/-- Sticky flags of an island core. -/
def ICore.flagged (c : ICore) (f : Flags) : ICore := { c with fcsr := c.fcsr ||| ((f.setWidth 64) <<< 8) }

end Sys2Proof.Machine
end

