-- ==== Sys2Proof/Certificates/Slice0/Obligations.lean ====
section
/-! DEFINITION. The statements for the provers. -/

open Sys2Proof Sys2Proof.Machine

/-! ### Encoding -/

/-- R71-R82: what the encoder writes for an instruction, with every operand that it allows, the decoder reads back. -/
def Obligations.RoundTrip : Prop :=
  ∀ (i : Instr) (rest : List (BitVec 8)), i.encoded = true → i.wf = true →
    decodeBytes (halfBytes (encode i) ++ rest) = .ok (i, rest)

/-- R71, R73, R74, R82: the decoder accepts no other code: what it reads is an instruction with operands that it allows, and
the bytes it read are that instruction's encoding. -/
def Obligations.DecodingIsExact : Prop :=
  ∀ (i : Instr) (bs rest : List (BitVec 8)), decodeBytes bs = .ok (i, rest) →
    i.encoded = true ∧ i.wf = true ∧ bs = halfBytes (encode i) ++ rest

/-- The halfwords of the manual's worked encodings, with the instruction that each stands for. -/
def Sys2Proof.workedWords : List (List Nat × Instr) :=
  [([0xC29C, 0xBE80], .addi (-12) 0 5), ([0x0A66], .moviQ 5 3), ([0xE300, 0xB862], .add 1 3 3 5 6),
   ([0xC12E, 0x8200], .movk 0 16 2), ([0xC1B9, 0x80C0], .loop 6 3), ([0xE3A9, 0x9803], .fcvtBf16F32 7 7),
   ([0xC03D, 0x8045], .csrw 2 10 0), ([0xC6C4, 0x8187], .ldw 12 14 13), ([0xD1CE, 0x8002], .ldr 4 1 3),
   ([0xE04F, 0x800A], .lde 21 0), ([0xC2B2, 0xBFC3], .blt (-2) 6 5), ([0xE7DA, 0x81C6], .sendp 14 13 15),
   ([0xC6DF, 0x91C6], .cbarArrivewait 14 12 13), ([0xE360, 0x8002], .cpygo 0 5 6), ([0xC669, 0x80E6], .mldw 14 3 0 3),
   ([0xE06D, 0x8016], .mdrain 22 1 0 0), ([0xF6F5, 0x8200], .vred 0 2 3 13), ([0xC4FC, 0x802A], .lease 0 1 20 9),
   ([0xE47E, 0x9803], .qtile 0 7 8)]

/-- R71, R74, R76: the worked encodings decode to their instructions; a continuation halfword, the all-zero halfword and a
first halfword without its continuation decode to nothing. -/
def Obligations.WorkedWords : Prop :=
  (∀ p ∈ workedWords, decodeBytes (halfBytes (p.1.map (BitVec.ofNat 16 ·))) = .ok (p.2, [])) ∧
  decodeBytes (halfBytes [0x8000, 0]) = .error .continuation ∧ decodeBytes (halfBytes [0, 0]) = .error .reservedOp5 ∧
  decodeBytes (halfBytes [0xC29C, 0]) = .error .noContinuation

/-! ### Steps -/

/-- R71-R73, R82, R364: a step of a tile core at a well-formed instruction is that instruction's execution; an odd address
and a continuation halfword take ILLEGAL_ENTRY, with the instruction that came there; code that is no instruction takes
ILLEGAL_OP. Where the hub steps the core, the instruction ends the step. -/
def Sys2Proof.Parts.TileStep : Prop :=
  ∀ (s : State) (k h : Nat), s.issuing k →
    let c := s.core k
    let ended (t : State) : State := if (t.core k).stepping then t.endStep k else t
    s.cached k (c.pc &&& ~~~1) h →
    (bit c.pc 0 = true ∨ halfClass h = 2 → step s = .next (ended
      (s.takeTrap k { code := cILLEGAL_ENTRY, addr := c.pc, detail := c.came.getD 0, pc := c.pc }))) ∧
    (bit c.pc 0 = false → halfClass h ≠ 2 → ∀ h', (halfClass h = 3 → ∃ x, h' = some x ∧ s.cached k (c.pc + 2) x) →
      (halfClass h ≠ 3 → h' = none) →
      (∀ i n, decodeHalves h h' = .ok (i, n) → (∀ w, w < 9 → bit (Tab.get 0 (s.cluster (corePos k)).wp w) 63 = false) →
        step s = andThen (exec i s) fun t => ended (t.afterIssue k i)) ∧
      (∀ r, decodeHalves h h' = .error r → step s = .next (ended (s.takeTrap k { code := cILLEGAL_OP, pc := c.pc })))) ∧
    ∀ t i, (t.core k).pair ≠ .first → State.afterIssue t k i = t

/-- R71-R73, R82, R352: the same of an island core, whose code is read from memory; at a boundary a pending event comes
first where EVEN is set (R354): that it waits for an instruction that has not issued yet is the model's choice (log 93,
DEDUCED). A word of code read with a single-bit error is counted first (R190). -/
def Sys2Proof.Parts.IslandStep : Prop :=
  ∀ (s : State) (k a : Nat), s.agenda = [] → s.cur = .island k → (s.icore k).wedged = false →
    let c := s.icore k
    let u := if c.blocked = none then s.countCode k else s
    let h := u.readMem a 2
    (bit c.kstat 1 = true → s.kevt k ≠ 0 → c.blocked = none → step s = .next (s.takeEvent k)) ∧
    ((bit c.kstat 1 = true → s.kevt k ≠ 0 → c.blocked ≠ none) → u.islandCode k (c.pc &&& ~~~1) = .ok a →
    (bit c.pc 0 = true ∨ halfClass h = 2 → step s = .next (u.islandTrap k cILLEGAL_ENTRY c.pc c.pc)) ∧
    (bit c.pc 0 = false → halfClass h ≠ 2 → ∀ h', (halfClass h = 3 → ∃ b, u.islandCode k (c.pc + 2) = .ok b ∧ h' = some (u.readMem b 2)) →
      (halfClass h ≠ 3 → h' = none) →
      (∀ i n, decodeHalves h h' = .ok (i, n) → step s = exec i u) ∧
      (∀ r, decodeHalves h h' = .error r → step s = .next (u.islandTrap k cILLEGAL_OP 0 c.pc))))

/-- The agenda (log 1): the row at its head acts, or the core at its head issues; STEP issues its core's instruction, for the
second core of a pair the one of the pair (17: R364). -/
def Sys2Proof.Parts.AgendaStep : Prop :=
  ∀ (s : State) (rest : List Move),
    (∀ i, s.agenda = .event i :: rest → eventOk i = true → (∀ k, i ≠ .step k) → step s = exec i { s with agenda := rest }) ∧
    (∀ k t, s.agenda = .event (.step k) :: rest → isCore k = true → exec (.step k) { s with agenda := rest } = .next t →
      let j := if (t.core k).pair = .second then k - 1 else k
      ((t.core j).stepping = true → step s = t.issueOn exec (.tile j)) ∧
      ((t.core j).stepping = false → step s = .next t)) ∧
    (∀ c, s.agenda = .issue c :: rest → coreOk c = true → step s = State.issueOn exec { s with agenda := rest } c) ∧
    (s.agenda = [] → step s = s.issueOn exec s.cur)

/-- A step runs what the machine fetches or what the agenda names. -/
def Obligations.StepRuns : Prop := Parts.TileStep ∧ Parts.IslandStep ∧ Parts.AgendaStep

/-! ### The invariant and reset -/

/-- Every step keeps memory in its canonical form: addresses rising, nothing listed that an unlisted address reads as. That
form, for the address space of R189, is the model's own (logs 3 and 4). -/
def Obligations.StepKeepsMemory : Prop := ∀ s t : State, s.Inv → step s = .next t → t.Inv

/-- R89, R100, R195, R353: what reset leaves. -/
def Obligations.ResetState : Prop :=
  let s := State.reset
  s.Inv ∧
  (∀ k n, (s.core k).reg.word n = 0 ∧ (s.core k).reg.isEmpty n = false) ∧
  (∀ k, let c := s.core k
    c.fcsr = 0 ∧ c.vbase = 512 ∧ c.abase = 8704 ∧ c.cycle = 0 ∧ c.instret = 0 ∧ (∀ e, Tab.get 0 c.pidx e = 0) ∧ c.lhold = 0 ∧
    c.hmaskr = 0 ∧ c.tfbase = 0 ∧ c.tfcount = 0 ∧ (∀ i, Tab.get 0 c.tms i = 0) ∧ ∀ i, Tab.get 0 c.fmts i = 0) ∧
  (∀ a, s.memIsEmpty a = false) ∧
  ∀ k, let c := s.icore k
    c.kstat = 1 ∧ c.ksp = 0 ∧ c.kvt = 0 ∧ c.kwhy = 0 ∧ c.kaddr = 0 ∧ c.kxlat = 0 ∧ c.ktcmp = 0xFFFFFFFFFFFFFFFF ∧
    (s.region (k / 8)).ktime = 0 ∧ s.kevt k = 0

/-! ### Integer instructions -/

/-- An instruction of the R form, by its operand fields. -/
abbrev Sys2Proof.RForm := BitVec 1 → BitVec 2 → Reg → Reg → Reg → Instr

/-- R106: the R-form integer instructions without flags, each with its value. -/
def Sys2Proof.rIntegers : List (RForm × (Word → Word → Word)) :=
  [(.add, fun a b => a + b), (.sub, fun a b => a - b), (.and, fun a b => a &&& b), (.or, fun a b => a ||| b),
   (.xor, fun a b => a ^^^ b), (.andn, fun a b => a &&& ~~~b),
   (.shl, fun a b => a <<< (b.toNat % 64)), (.shr, fun a b => a >>> (b.toNat % 64)),
   (.sar, fun a b => BitVec.ofInt 64 (a.toInt / 2 ^ (b.toNat % 64))), (.ror, fun a b => a.rotateRight (b.toNat % 64)),
   (.mul, fun a b => a * b), (.mulh, fun a b => BitVec.ofInt 64 (a.toInt * b.toInt / 2 ^ 64)),
   (.mulhu, fun a b => BitVec.ofNat 64 (a.toNat * b.toNat / 2 ^ 64)),
   (.min, fun a b => if a.toInt < b.toInt then a else b), (.max, fun a b => if b.toInt < a.toInt then a else b),
   (.minu, fun a b => if a.toNat < b.toNat then a else b), (.maxu, fun a b => if b.toNat < a.toNat then a else b),
   (.slt, fun a b => if a.toInt < b.toInt then 1 else 0), (.sltu, fun a b => if a.toNat < b.toNat then 1 else 0),
   (.seq, fun a b => if a = b then 1 else 0)]

def Obligations.IntegerResults : Prop :=
  ∀ (s : State) (k : Nat) (w : BitVec 1) (cs : BitVec 2) (rb ra rd : Reg),
    (s.tileReady k [ra.toNat, rb.toNat] rd.toNat → ∀ p ∈ rIntegers,
      exec (p.1 w cs rb ra rd) s = .next (s.setCore k
        ((s.core k).done .a [] rd.toNat (p.2 (s.reg ra.toNat) (s.reg rb.toNat)) cs.toNat 4))) ∧
    (s.tileReady k [ra.toNat, rb.toNat, rd.toNat] rd.toNat →
      exec (.sel w cs rb ra rd) s = .next (s.setCore k
        ((s.core k).done .a [] rd.toNat
          (if s.reg rd.toNat = 0 then s.reg rb.toNat else s.reg ra.toNat) cs.toNat 4)))

/-- R107: the four divisions by cases, with the flag each sets. -/
def Obligations.DivisionResults : Prop :=
  ∀ (s : State) (k : Nat) (w : BitVec 1) (cs : BitVec 2) (rb ra rd : Reg) (a b : Word),
    s.tileReady k [ra.toNat, rb.toNat] rd.toNat → s.reg ra.toNat = a → s.reg rb.toNat = b →
    (∃ (v : Word) (f : Flags), exec (.div w cs rb ra rd) s = .next (s.setCore k (((s.core k).flagged f).done .a [] rd.toNat v cs.toNat 4)) ∧
      (b = 0 → f = Flags.dz ∧ (0 < a.toInt → v.toInt = 2 ^ 63 - 1) ∧ (a.toInt < 0 → v.toInt = -2 ^ 63) ∧
        (a = 0 → v = 0)) ∧
      (a.toInt = -2 ^ 63 → b.toInt = -1 → f = Flags.sat ∧ v.toInt = 2 ^ 63 - 1) ∧
      (b ≠ 0 → ¬(a.toInt = -2 ^ 63 ∧ b.toInt = -1) → f = Flags.none ∧ v.toInt = a.toInt.tdiv b.toInt)) ∧
    (∃ (v : Word) (f : Flags), exec (.divu w cs rb ra rd) s = .next (s.setCore k (((s.core k).flagged f).done .a [] rd.toNat v cs.toNat 4)) ∧
      (b = 0 → f = Flags.dz ∧ (0 < a.toNat → v.toNat = 2 ^ 64 - 1) ∧ (a = 0 → v = 0)) ∧
      (b ≠ 0 → f = Flags.none ∧ v.toNat = a.toNat / b.toNat)) ∧
    (∃ (v : Word) (f : Flags), exec (.rem w cs rb ra rd) s = .next (s.setCore k (((s.core k).flagged f).done .a [] rd.toNat v cs.toNat 4)) ∧
      (b = 0 → f = Flags.dz ∧ v = 0) ∧
      (a.toInt = -2 ^ 63 → b.toInt = -1 → f = Flags.none ∧ v = 0) ∧
      (b ≠ 0 → ¬(a.toInt = -2 ^ 63 ∧ b.toInt = -1) →
        f = Flags.none ∧ v.toInt = a.toInt - b.toInt * a.toInt.tdiv b.toInt)) ∧
    (∃ (v : Word) (f : Flags), exec (.remu w cs rb ra rd) s = .next (s.setCore k (((s.core k).flagged f).done .a [] rd.toNat v cs.toNat 4)) ∧
      (b = 0 → f = Flags.dz ∧ v = 0) ∧ (b ≠ 0 → f = Flags.none ∧ v.toNat = a.toNat % b.toNat))

/-- R108-R111, R118, R119, R110: instructions of one source register, each with its value. -/
def Sys2Proof.unaryIntegers : List ((Reg → Reg → Instr) × (Word → Word)) :=
  [(.bswap, fun a => BitVec.ofNat 64 (((List.range 8).map fun i => a.toNat / 256 ^ i % 256 * 256 ^ (7 - i)).sum)),
   (.sextb, fun a => (a.setWidth 8).signExtend 64), (.sexth, fun a => (a.setWidth 16).signExtend 64),
   (.sextw, fun a => (a.setWidth 32).signExtend 64), (.zextw, fun a => (a.setWidth 32).setWidth 64),
   (.fneg, fun a => (a.setWidth 32 ^^^ 0x80000000#32).setWidth 64),
   (.fabs, fun a => (a.setWidth 32 &&& 0x7FFFFFFF#32).setWidth 64)]

/-- R110, R111: instructions of one source register and an immediate, each with its value. -/
def Sys2Proof.immediates (imm : BitVec 9) (n : BitVec 6) : List ((Reg → Reg → Instr) × (Word → Word)) :=
  [(.addi imm, fun a => a + imm.signExtend 64), (.andi imm, fun a => a &&& imm.signExtend 64),
   (.ori imm, fun a => a ||| imm.signExtend 64), (.shli n, fun a => a <<< n.toNat), (.shri n, fun a => a >>> n.toNat),
   (.sari n, fun a => BitVec.ofInt 64 (a.toInt / 2 ^ n.toNat)), (.rori n, fun a => a.rotateRight n.toNat)]

/-- R108, R110, R111, R118, R119: the value goes to rd, and nothing else changes. -/
def Sys2Proof.Parts.UnaryResults : Prop :=
  ∀ (s : State) (k : Nat) (ra rd : Reg) (imm : BitVec 9) (n : BitVec 6) (rb : Reg),
    (s.tileReady k [ra.toNat] rd.toNat → ∀ p ∈ unaryIntegers ++ immediates imm n,
      exec (p.1 ra rd) s = .next (s.setCore k ((s.core k).done .a [] rd.toNat (p.2 (s.reg ra.toNat)) 0 4))) ∧
    (s.tileReady k [ra.toNat, rb.toNat] rd.toNat →
      exec (.fcopysign rb ra rd) s = .next (s.setCore k ((s.core k).done .a [] rd.toNat
        (((s.reg ra.toNat).setWidth 32 &&& 0x7FFFFFFF#32 ||| (s.reg rb.toNat).setWidth 32 &&& 0x80000000#32).setWidth 64) 0 4)))

/-- R108, R109: counts of bits, and BEXT and BDEP bit by bit. -/
def Obligations.BitResults : Prop :=
  ∀ (s : State) (k : Nat) (w : BitVec 1) (cs : BitVec 2) (rb ra rd : Reg) (a b : Word),
    s.tileReady k [ra.toNat, rb.toNat] rd.toNat → s.reg ra.toNat = a → s.reg rb.toNat = b →
    (∃ n, exec (.clz ra rd) s = .next (s.setCore k ((s.core k).done .a [] rd.toNat (BitVec.ofNat 64 n) 0 4)) ∧
      n ≤ 64 ∧ (∀ i, 64 - n ≤ i → i < 64 → a.getLsbD i = false) ∧ (n < 64 → a.getLsbD (63 - n) = true)) ∧
    (∃ n, exec (.ctz ra rd) s = .next (s.setCore k ((s.core k).done .a [] rd.toNat (BitVec.ofNat 64 n) 0 4)) ∧
      n ≤ 64 ∧ (∀ i, i < n → a.getLsbD i = false) ∧ (n < 64 → a.getLsbD n = true)) ∧
    exec (.popc ra rd) s = .next (s.setCore k ((s.core k).done .a [] rd.toNat
      (BitVec.ofNat 64 ((List.range 64).countP fun i => a.getLsbD i)) 0 4)) ∧
    (∃ v : Word, exec (.bext w cs rb ra rd) s = .next (s.setCore k ((s.core k).done .a [] rd.toNat v cs.toNat 4)) ∧
      (∀ i, i < 64 → b.getLsbD i = true → v.getLsbD ((List.range i).countP fun j => b.getLsbD j) = a.getLsbD i) ∧
      (∀ i, (List.range 64).countP (fun j => b.getLsbD j) ≤ i → v.getLsbD i = false)) ∧
    (∃ v : Word, exec (.bdep w cs rb ra rd) s = .next (s.setCore k ((s.core k).done .a [] rd.toNat v cs.toNat 4)) ∧
      ∀ i, i < 64 → v.getLsbD i = (b.getLsbD i && a.getLsbD ((List.range i).countP fun j => b.getLsbD j)))

/-! ### Scalar floating point -/

/-- R114, R115: the R-form FP32 instructions of two sources, each with its function of the rounding mode and the two
operand codes. -/
def Sys2Proof.rFloats : List (RForm × (Nat → Nat → Nat → Nat × Flags)) :=
  [(.fadd, Machine.fadd .f32), (.fsub, Machine.fsub .f32), (.fmul, Machine.fmul .f32), (.fdiv, Machine.fdiv .f32),
   (.fmin, fun _ x y => fminmax .f32 false x y), (.fmax, fun _ x y => fminmax .f32 true x y)]

/-- R116: FCMP by selector. -/
def Sys2Proof.compares : List ((Reg → Reg → Reg → Instr) × Nat) :=
  [(.fcmpEq, 0), (.fcmpLt, 1), (.fcmpLe, 2), (.fcmpUnord, 3)]

/-- R117, R119: instructions of one source, each with its value and flags. -/
def Sys2Proof.conversions : List ((Reg → Reg → Instr) × (Nat → Word → Word × Flags)) :=
  [(.fcvtF32S64, fun rm a => fpResult (Fmt.f32.encode rm (Val.ofInt a.toInt))),
   (.fcvtS64F32, fun rm a => toS64 rm (Fmt.f32.real (a.toNat % 2 ^ 32))),
   (.fcvtF32Bf16, fun rm a => fpResult (Fmt.f32.encode rm (Fmt.bf16.real (a.toNat % 2 ^ 16)))),
   (.fcvtBf16F32, fun rm a => fpResult (Fmt.bf16.encode rm (Fmt.f32.real (a.toNat % 2 ^ 32)))),
   (.fcvtF32F16, fun rm a => fpResult (Fmt.f32.encode rm (Fmt.f16.real (a.toNat % 2 ^ 16)))),
   (.fcvtF16F32, fun rm a => fpResult (Fmt.f16.encode rm (Fmt.f32.real (a.toNat % 2 ^ 32)))),
   (.fclass, fun _ a => (Machine.fclass (a.toNat % 2 ^ 32), Flags.none))]

def Sys2Proof.Parts.FloatResults : Prop :=
  ∀ (s : State) (k : Nat) (w : BitVec 1) (cs : BitVec 2) (fn : BitVec 3) (rb ra rd : Reg),
    let x := (s.reg ra.toNat).toNat % 2 ^ 32
    let y := (s.reg rb.toNat).toNat % 2 ^ 32
    let d := (s.reg rd.toNat).toNat % 2 ^ 32
    let out (r : Nat × Flags) (c : Nat) : State :=
      s.setCore k (((s.core k).flagged r.2).done .a [] rd.toNat (BitVec.ofNat 64 r.1) c 4)
    (s.tileReady k [ra.toNat, rb.toNat] rd.toNat →
      (∀ p ∈ rFloats, exec (p.1 w cs rb ra rd) s = .next (out (p.2 s.rm x y) cs.toNat)) ∧
      (∀ p ∈ compares, exec (p.1 rb ra rd) s =
        .next (out (if (fcompare .f32 p.2 x y).1 then 1 else 0, (fcompare .f32 p.2 x y).2) 0))) ∧
    (s.tileReady k [ra.toNat, rb.toNat, rd.toNat] rd.toNat →
      exec (.ffma w cs rb ra rd) s = .next (out (Machine.ffma .f32 s.rm d x y) cs.toNat)) ∧
    (s.tileReady k [ra.toNat] rd.toNat →
      exec (.fsqrt w cs ra rd) s = .next (out (Machine.fsqrt .f32 s.rm x) cs.toNat) ∧
      (∀ p ∈ conversions, exec (p.1 ra rd) s = .next (s.setCore k
        (((s.core k).flagged (p.2 s.rm (s.reg ra.toNat)).2).done .a [] rd.toNat (p.2 s.rm (s.reg ra.toNat)).1 0 4))) ∧
      (∀ g, Fmt.ofReg (Tab.get 0 (s.core k).fmts fn.toNat) = some g →
        exec (.fcvtF32Fmt fn ra rd) s =
          .next (out (Fmt.f32.encode s.rm (g.real ((s.reg ra.toNat).toNat % 2 ^ g.w))) 0) ∧
        exec (.fcvtFmtF32 fn ra rd) s = .next (out (g.encode s.rm (Fmt.f32.real x)) 0)))

/-- R212: a binary32 code is a NaN, a signalling NaN, an infinity. -/
def Sys2Proof.f32Nan (c : Nat) : Bool := c / 2 ^ 23 % 256 = 255 && c % 2 ^ 23 ≠ 0

def Sys2Proof.f32Snan (c : Nat) : Bool := f32Nan c && c / 2 ^ 22 % 2 = 0

def Sys2Proof.f32Inf (c : Nat) : Bool := c % 2 ^ 31 = 0x7F800000

/-- R113, R114: an arithmetic FP32 instruction with a NaN operand gives the canonical NaN, and NV where one is signalling. -/
def Sys2Proof.Parts.FloatNans : Prop :=
  ∀ (rm d x y : Nat),
    (f32Nan x = true ∨ f32Nan y = true → ∀ f ∈ [Machine.fadd .f32, Machine.fsub .f32, Machine.fmul .f32, Machine.fdiv .f32],
      f rm x y = (0x7FC00000, if f32Snan x || f32Snan y then Flags.nv else Flags.none)) ∧
    (f32Nan x = true → Machine.fsqrt .f32 rm x = (0x7FC00000, if f32Snan x then Flags.nv else Flags.none)) ∧
    (f32Nan d = true ∨ f32Nan x = true ∨ f32Nan y = true → (Machine.ffma .f32 rm d x y).1 = 0x7FC00000)

/-- The sign bit of a code (11: R213). -/
def Sys2Proof.fmtNeg (g : Fmt) (c : Nat) : Bool := g.s = 1 && c / 2 ^ (g.w - 1) % 2 = 1

/-- R114: what the FP32 instructions give for an infinite operand beside one that is no NaN. -/
def Sys2Proof.Parts.FloatInfinities : Prop :=
  ∀ (rm x y : Nat), x < 2 ^ 32 → y < 2 ^ 32 → f32Nan x = false → f32Nan y = false →
    let invalid : Nat × Flags := (0x7FC00000, Flags.nv)
    let p := fmtNeg .f32 x
    let q := fmtNeg .f32 y
    let sign (n : Bool) : Nat := if n then 2 ^ 31 else 0
    (f32Inf x = true → f32Inf y = true →
      Machine.fadd .f32 rm x y = (if p = q then (x, Flags.none) else invalid) ∧
      Machine.fsub .f32 rm x y = (if p = q then invalid else (x, Flags.none)) ∧
      Machine.fmul .f32 rm x y = (sign (p != q) + 0x7F800000, Flags.none) ∧ Machine.fdiv .f32 rm x y = invalid) ∧
    (f32Inf x = true → f32Inf y = false →
      Machine.fadd .f32 rm x y = (x, Flags.none) ∧ Machine.fsub .f32 rm x y = (x, Flags.none) ∧
      Machine.fmul .f32 rm x y = (if y % 2 ^ 31 = 0 then invalid else (sign (p != q) + 0x7F800000, Flags.none)) ∧
      Machine.fdiv .f32 rm x y = (sign (p != q) + 0x7F800000, Flags.none)) ∧
    (f32Inf x = false → f32Inf y = true →
      Machine.fadd .f32 rm x y = (y, Flags.none) ∧ Machine.fsub .f32 rm x y = (sign (!q) + 0x7F800000, Flags.none) ∧
      Machine.fmul .f32 rm x y = (if x % 2 ^ 31 = 0 then invalid else (sign (p != q) + 0x7F800000, Flags.none)) ∧
      Machine.fdiv .f32 rm x y = (sign (p != q), Flags.none)) ∧
    (f32Inf x = true → Machine.fsqrt .f32 rm x = if p then invalid else (x, Flags.none))

/-- R212, R216: a code of a format is neither a NaN nor an infinity. -/
def Sys2Proof.fmtFinite (g : Fmt) (c : Nat) : Prop :=
  match g.pol with
  | .oneNan => c % 2 ^ g.w ≠ 2 ^ g.w - 1
  | .sat | .tc => True
  | _ => c / 2 ^ g.m % 2 ^ g.e ≠ 2 ^ g.e - 1

/-- R212, R215: the value of such a code. -/
def Sys2Proof.fmtValue (g : Fmt) (c : Nat) : ℚ :=
  let x : Nat := c / 2 ^ g.m % 2 ^ g.e
  let m : ℚ := (c % 2 ^ g.m : Nat)
  if g.pol = .tc then ((BitVec.ofNat g.w c).toInt : ℚ) * (2 : ℚ) ^ (-g.bias)
  else (if fmtNeg g c then -1 else 1) *
    (if g.e = 0 then m * (2 : ℚ) ^ (-g.bias) else if x = 0 then m * (2 : ℚ) ^ (1 - g.bias - (g.m : ℤ))
     else (2 ^ g.m + m) * (2 : ℚ) ^ ((x : ℤ) - g.bias - (g.m : ℤ)))

/-- R221: `v` is `z` rounded to a multiple of a quantum under a mode. -/
def Sys2Proof.roundsTo (rm : Nat) (g z v : ℚ) : Prop :=
  (∃ r : ℤ, v = r * g) ∧
  (rm = 0 → |v - z| ≤ g / 2 ∧ (|v - z| = g / 2 → ∃ r : ℤ, v = 2 * r * g)) ∧
  (rm = 1 → |v| ≤ |z| ∧ |z - v| < g) ∧ (rm = 2 → z ≤ v ∧ v - z < g) ∧ (rm = 3 → v ≤ z ∧ z - v < g) ∧
  (rm = 4 → |v - z| ≤ g / 2 ∧ (|v - z| = g / 2 → |z| < |v|))

/-- R222, R223: a code and its flags are the exact value `z`, other than zero, rounded once into a format that has its sign.
With `y` the rounded value: where no finite value of the sign is as large, the infinity or the largest finite value as the
format and the mode say, with OF or SAT, and NX; else the code of `y`, a zero of the sign of `z`, with NX where `y` is not
`z`, and UF where it lies below the smallest normal value too. -/
def Sys2Proof.fmtRounds (g : Fmt) (rm : Nat) (z : ℚ) (r : Nat × Flags) : Prop :=
  ∀ k : ℤ, (2 : ℚ) ^ k ≤ |z| → |z| < (2 : ℚ) ^ (k + 1) → rm < 5 → g.s = 1 ∨ 0 < z → ∃ y : ℚ,
    roundsTo rm (if g.e = 0 then (2 : ℚ) ^ (-g.bias) else (2 : ℚ) ^ (max k (1 - g.bias) - (g.m : ℤ))) z y ∧
    let beyond : Prop := ∀ c, fmtFinite g c → 0 ≤ z * fmtValue g c → |fmtValue g c| < |y|
    (¬beyond → fmtFinite g r.1 ∧ fmtValue g r.1 = y ∧ (y = 0 → r.1 = if g.e ≠ 0 ∧ z < 0 then 2 ^ (g.w - 1) else 0) ∧
      r.2 = if y = z then Flags.none else if g.e ≠ 0 ∧ |y| < (2 : ℚ) ^ (1 - g.bias) then Flags.nx ||| Flags.uf else Flags.nx) ∧
    (beyond → if g.pol = .std ∨ g.pol = .ieee then
        r = ((if z < 0 then 2 ^ (g.w - 1) else 0) + ((2 ^ g.e - 1) * 2 ^ g.m -
          if rm = 1 ∨ (rm = 2 ∧ z < 0) ∨ (rm = 3 ∧ 0 < z) then 1 else 0), Flags.of ||| Flags.nx)
      else fmtFinite g r.1 ∧ 0 ≤ z * fmtValue g r.1 ∧
        (∀ c, fmtFinite g c → 0 ≤ z * fmtValue g c → |fmtValue g c| ≤ |fmtValue g r.1|) ∧ r.2 = Flags.sat ||| Flags.nx)

/-- R113, R114, R116: the value that an FP32 instruction gives for finite operands: the exact sum, difference, product,
quotient, product and sum, or root, rounded once; the sign of an exact zero; a division by zero; the root of a negative
number; and the outcome of each compare. -/
def Sys2Proof.Parts.FloatValues : Prop :=
  ∀ (rm d x y : Nat), rm < 5 → fmtFinite .f32 d → fmtFinite .f32 x → fmtFinite .f32 y →
    let a := fmtValue .f32 x
    let b := fmtValue .f32 y
    let p := fmtNeg .f32 x
    let q := fmtNeg .f32 y
    let zero (n : Bool) : Nat × Flags := (if n then 2 ^ 31 else 0, Flags.none)
    let sum (z : ℚ) (m n : Bool) (r : Nat × Flags) : Prop :=
      fmtRounds .f32 rm z r ∧ (z = 0 → r = zero (if m = n then m else decide (rm = 3)))
    let rt := Machine.fsqrt .f32 rm x
    let root := fmtValue .f32 rt.1
    sum (a + b) p q (Machine.fadd .f32 rm x y) ∧ sum (a - b) p (!q) (Machine.fsub .f32 rm x y) ∧
    sum (fmtValue .f32 d + a * b) (fmtNeg .f32 d) (p != q) (Machine.ffma .f32 rm d x y) ∧
    fmtRounds .f32 rm (a * b) (Machine.fmul .f32 rm x y) ∧ (a * b = 0 → Machine.fmul .f32 rm x y = zero (p != q)) ∧
    (b ≠ 0 → fmtRounds .f32 rm (a / b) (Machine.fdiv .f32 rm x y) ∧ (a = 0 → Machine.fdiv .f32 rm x y = zero (p != q))) ∧
    (b = 0 → Machine.fdiv .f32 rm x y =
      if a = 0 then (0x7FC00000, Flags.nv) else ((zero (p != q)).1 + 0x7F800000, Flags.dz)) ∧
    (0 < a → ∀ k : ℤ, ((2 : ℚ) ^ k) ^ 2 ≤ a → a < ((2 : ℚ) ^ (k + 1)) ^ 2 →
      let g : ℚ := (2 : ℚ) ^ (k - 23)
      fmtFinite .f32 rt.1 ∧ (∃ r : ℤ, root = r * g) ∧ 0 < root ∧ rt.2 = (if root ^ 2 = a then Flags.none else Flags.nx) ∧
      (rm = 0 ∨ rm = 4 → (root - g / 2) ^ 2 ≤ a ∧ a ≤ (root + g / 2) ^ 2) ∧
      (rm = 1 ∨ rm = 3 → root ^ 2 ≤ a ∧ a < (root + g) ^ 2) ∧ (rm = 2 → (root - g) ^ 2 < a ∧ a ≤ root ^ 2)) ∧
    (a = 0 → rt = zero p) ∧ (a < 0 → rt = (0x7FC00000, Flags.nv)) ∧
    fcompare .f32 0 x y = (decide (a = b), Flags.none) ∧ fcompare .f32 1 x y = (decide (a < b), Flags.none) ∧
    fcompare .f32 2 x y = (decide (a ≤ b), Flags.none) ∧ fcompare .f32 3 x y = (false, Flags.none)

/-- R115: the order of the binary32 codes that are no NaN: by value, −0 below +0. -/
def Sys2Proof.f32Order (c : Nat) : Int := if c / 2 ^ 31 % 2 = 1 then -((c % 2 ^ 31 : Nat) : Int) - 1 else (c % 2 ^ 31 : Nat)

/-- R115, R116, R119: FMIN and FMAX give the lesser and the greater operand unchanged, the other one beside a NaN; a compare
with a NaN; FCLASS describes a value. -/
def Sys2Proof.Parts.FloatSelections : Prop :=
  (∀ x y : Nat, fmtFinite .f32 x → fmtFinite .f32 y → fmtValue .f32 x < fmtValue .f32 y → f32Order x < f32Order y) ∧
  (∀ x y : Nat, x < 2 ^ 32 → y < 2 ^ 32 →
    let lesser := fminmax .f32 false x y
    let greater := fminmax .f32 true x y
    let fl := if f32Snan x || f32Snan y then Flags.nv else Flags.none
    lesser.2 = fl ∧ greater.2 = fl ∧
    (f32Nan x = true → f32Nan y = true → lesser.1 = 0x7FC00000 ∧ greater.1 = 0x7FC00000) ∧
    (f32Nan x = true → f32Nan y = false → lesser.1 = y ∧ greater.1 = y) ∧
    (f32Nan x = false → f32Nan y = true → lesser.1 = x ∧ greater.1 = x) ∧
    (f32Nan x = false → f32Nan y = false → lesser.1 = (if f32Order x ≤ f32Order y then x else y) ∧
      greater.1 = (if f32Order x ≤ f32Order y then y else x)) ∧
    (f32Nan x = true ∨ f32Nan y = true → fcompare .f32 0 x y = (false, fl) ∧ fcompare .f32 1 x y = (false, Flags.nv) ∧
      fcompare .f32 2 x y = (false, Flags.nv) ∧ fcompare .f32 3 x y = (true, fl))) ∧
  ∀ x : Nat, x < 2 ^ 32 →
    let r := (Machine.fclass x).toNat
    let v := fmtValue .f32 x
    r % 8 = (if f32Snan x then 5 else if f32Nan x then 4 else if f32Inf x then 3 else if x % 2 ^ 31 = 0 then 0
      else if x / 2 ^ 23 % 256 = 0 then 1 else 2) ∧
    r / 8 % 2 = x / 2 ^ 31 ∧ (r / 16 % 2 = 1 ↔ fmtFinite .f32 x ∧ ∃ z : ℤ, v = z) ∧ r / 32 % 2 ^ 7 = 0 ∧ r / 2 ^ 24 = 0 ∧
    (∀ k : ℤ, fmtFinite .f32 x → (2 : ℚ) ^ k ≤ |v| → |v| < (2 : ℚ) ^ (k + 1) → r / 2 ^ 12 % 2 ^ 12 = (k % 4096).toNat) ∧
    (¬fmtFinite .f32 x ∨ v = 0 → r / 2 ^ 12 % 2 ^ 12 = 0)

/-- R117, R224, R225: the conversions. Into binary32 from 64-bit integers, BF16, binary16 and the format that a register
describes, and from binary32 into them. -/
def Sys2Proof.Parts.FloatConversions : Prop :=
  ∀ (rm : Nat), rm < 5 →
    (∀ z : ℤ, fmtRounds .f32 rm z (Fmt.f32.encode rm (Val.ofInt z))) ∧ Fmt.f32.encode rm (Val.ofInt 0) = (0, Flags.none) ∧
    (∀ x : Nat, x < 2 ^ 32 →
      let r := toS64 rm (Fmt.f32.real x)
      (f32Nan x = true → r = (0, Flags.nv)) ∧
      (f32Inf x = true → r = (if fmtNeg .f32 x then 0x8000000000000000 else 0x7FFFFFFFFFFFFFFF, Flags.nv)) ∧
      (fmtFinite .f32 x → ∃ y : ℤ, roundsTo rm 1 (fmtValue .f32 x) y ∧
        (-2 ^ 63 ≤ y → y < 2 ^ 63 → r.1.toInt = y ∧ r.2 = if (y : ℚ) = fmtValue .f32 x then Flags.none else Flags.nx) ∧
        (2 ^ 63 ≤ y → r = (0x7FFFFFFFFFFFFFFF, Flags.nv)) ∧ (y < -2 ^ 63 → r = (0x8000000000000000, Flags.nv)))) ∧
    (∀ p ∈ [(Fmt.bf16, 0x7FC0), (Fmt.f16, 0x7E00)],
      let g := p.1
      let top := (2 ^ g.e - 1) * 2 ^ g.m
      (∀ c : Nat, c < 2 ^ 16 →
        let r := Fmt.f32.encode rm (g.real c)
        (fmtFinite g c → fmtFinite .f32 r.1 ∧ fmtValue .f32 r.1 = fmtValue g c ∧ fmtNeg .f32 r.1 = fmtNeg g c ∧ r.2 = Flags.none) ∧
        (c % 2 ^ 15 = top → r = ((if fmtNeg g c then 2 ^ 31 else 0) + 0x7F800000, Flags.none)) ∧
        (top < c % 2 ^ 15 → r = (0x7FC00000, if c / 2 ^ (g.m - 1) % 2 = 0 then Flags.nv else Flags.none))) ∧
      ∀ x : Nat, x < 2 ^ 32 →
        let r := g.encode rm (Fmt.f32.real x)
        let sign := if fmtNeg .f32 x then 2 ^ 15 else 0
        (fmtFinite .f32 x → fmtRounds g rm (fmtValue .f32 x) r ∧ (fmtValue .f32 x = 0 → r = (sign, Flags.none))) ∧
        (f32Inf x = true → r = (sign + top, Flags.none)) ∧
        (f32Nan x = true → r = (p.2, if f32Snan x then Flags.nv else Flags.none))) ∧
    ∀ (v : BitVec 32) (g : Fmt), Fmt.ofReg v = some g →
      let inf : Bool := g.pol = .ieee
      let sat : Flags := Flags.sat ||| Flags.nx
      (∀ c : Nat, c < 2 ^ g.w →
        let r := Fmt.f32.encode rm (g.real c)
        let neg := g.pol ≠ .tc ∧ fmtNeg g c = true
        (fmtFinite g c → fmtRounds .f32 rm (fmtValue g c) r ∧
          (fmtValue g c = 0 → r = (if neg then 2 ^ 31 else 0, Flags.none))) ∧
        (¬fmtFinite g c → r = (if inf ∧ c % 2 ^ g.m = 0 then (if neg then 2 ^ 31 else 0) + 0x7F800000 else 0x7FC00000, Flags.none))) ∧
      ∀ x : Nat, x < 2 ^ 32 →
        let r := g.encode rm (Fmt.f32.real x)
        let p := fmtNeg .f32 x
        let sign : Nat := if p ∧ g.s = 1 then 2 ^ (g.w - 1) else 0
        let z := fmtValue .f32 x
        (fmtFinite .f32 x → fmtRounds g rm z r ∧ (z = 0 → r = (if g.e = 0 then 0 else sign, Flags.none)) ∧
          (z < 0 → g.s = 0 → r = (0, sat))) ∧
        (f32Nan x = true → r.2 = (if f32Snan x ∨ g.pol = .sat ∨ g.pol = .tc then Flags.nv else Flags.none) ∧
          r.1 = if inf then 2 ^ (g.e + g.m) - 1 else if g.pol = .oneNan then 2 ^ g.w - 1 else 0) ∧
        (f32Inf x = true → (p = true → g.s = 0 → r = (0, sat)) ∧ (p = false ∨ g.s = 1 →
          (inf = true → r = (sign + (2 ^ g.e - 1) * 2 ^ g.m, Flags.none)) ∧
          (inf = false → r.2 = sat ∧ fmtFinite g r.1 ∧ (if p then fmtValue g r.1 ≤ 0 else 0 ≤ fmtValue g r.1) ∧
            ∀ c, fmtFinite g c → (if p then fmtValue g r.1 ≤ fmtValue g c else fmtValue g c ≤ fmtValue g r.1))))

/-- R113-R117, R119, R212-R216, R221-R225: the results of the FP32 instructions, their values, and what infinities and NaNs
give. -/
def Obligations.FloatResults : Prop :=
  Parts.FloatResults ∧ Parts.FloatNans ∧ Parts.FloatInfinities ∧ Parts.FloatValues ∧ Parts.FloatSelections ∧ Parts.FloatConversions

/-! ### Control flow -/

/-- R120: the branches, each with its condition. -/
def Sys2Proof.branches : List ((BitVec 9 → Reg → Reg → Instr) × (Word → Word → Bool)) :=
  [(.beq, fun a b => a = b), (.bne, fun a b => a ≠ b), (.blt, fun a b => a.toInt < b.toInt),
   (.bge, fun a b => b.toInt ≤ a.toInt), (.bltu, fun a b => a.toNat < b.toNat), (.bgeu, fun a b => b.toNat ≤ a.toNat)]

def Sys2Proof.Parts.BranchResults : Prop :=
  ∀ (s : State) (k : Nat) (imm : BitVec 9) (imm6 : BitVec 6) (rb ra : Reg) (rd : Reg4),
    let c := s.core k
    (s.tileReady k [ra.toNat, rb.toNat] 0 → ∀ p ∈ branches, exec (p.1 imm rb ra) s = .next (s.setCore k
      (c.retired (c.pc + if p.2 (s.reg ra.toNat) (s.reg rb.toNat) then 2 * imm.signExtend 64 else 4)))) ∧
    (s.tileReady k [rd.toNat] 0 →
      exec (.bezQ imm6 rd) s = .next (s.setCore k
        (c.retired (c.pc + if s.reg rd.toNat = 0 then 2 * imm6.signExtend 64 else 2))) ∧
      exec (.bnzQ imm6 rd) s = .next (s.setCore k
        (c.retired (c.pc + if s.reg rd.toNat ≠ 0 then 2 * imm6.signExtend 64 else 2))))

def Sys2Proof.Parts.JumpResults : Prop :=
  ∀ (s : State) (k : Nat) (imm : BitVec 21) (imm10 : BitVec 10) (w : BitVec 1) (cs : BitVec 2) (ra rd : Reg) (rq : Reg4),
    let c := s.core k
    (s.tileReady k [] 0 → exec (.j imm) s = .next (s.setCore k (c.retired (c.pc + 2 * imm.signExtend 64))) ∧
      exec (.jQ imm10) s = .next (s.setCore k (c.retired (c.pc + 2 * imm10.signExtend 64)))) ∧
    (s.tileReady k [] 63 → exec (.jl imm) s =
      .next (s.setCore k ((c.wrote 63 (c.pc + 4) 0).retired (c.pc + 2 * imm.signExtend 64)))) ∧
    (s.tileReady k [ra.toNat] rd.toNat → exec (.jr w cs ra rd) s =
      .next (s.setCore k ((c.wrote rd.toNat (c.pc + 4) cs.toNat).retired (s.reg ra.toNat)))) ∧
    (s.tileReady k [rq.toNat] 0 → exec (.jrQ rq) s = .next (s.setCore k (c.retired (s.reg rq.toNat))))

/-- R120-R122, R129: branches and jumps. -/
def Obligations.TransferResults : Prop := Parts.BranchResults ∧ Parts.JumpResults

/-- R123, R124, R125, R128: LOOP, BFE, WAITFE and the NOPs. -/
def Obligations.LoopAndTestResults : Prop :=
  ∀ (s : State) (k : Nat) (imm : BitVec 9) (rb ra : Reg),
    let c := s.core k
    (s.tileReady k [ra.toNat] ra.toNat → exec (.loop imm ra) s = .next (s.setCore k
      (if s.reg ra.toNat = 0 then c.retired (c.pc + 2 * imm.signExtend 64)
       else c.done .a [] ra.toNat (s.reg ra.toNat - 1) 0 4))) ∧
    (s.tileReady k [rb.toNat] 0 → exec (.bfe imm rb ra) s = .next (s.setCore k
      (c.retired (c.pc + if c.reg.isEmpty ((ra.toNat + (s.reg rb.toNat).toNat % 2048) % 2048)
        then 2 * imm.signExtend 64 else 4)))) ∧
    (s.tileReady k [ra.toNat, rb.toNat] 0 → (s.reg ra.toNat).toNat < 2048 →
      (s.reg ra.toNat).toNat + (s.reg rb.toNat).toNat ≤ 2048 →
      ((∀ i, i < (s.reg rb.toNat).toNat → c.reg.isEmpty ((s.reg ra.toNat).toNat + i) = false) →
        exec (.waitfe rb ra) s = .next (s.setCore k (c.retired (c.pc + 4)))) ∧
      ((∃ i, i < (s.reg rb.toNat).toNat ∧ c.reg.isEmpty ((s.reg ra.toNat).toNat + i) = true) →
        ∃ b, exec (.waitfe rb ra) s = .next (s.setCore k { c with blocked := some b }))) ∧
    (s.tileReady k [ra.toNat, rb.toNat] 0 → c.pair = .alone →
      2048 ≤ (s.reg ra.toNat).toNat ∨ 2048 < (s.reg ra.toNat).toNat + (s.reg rb.toNat).toNat →
      exec (.waitfe rb ra) s = .next (s.takeTrap k { code := cILLEGAL_OP, pc := c.pc })) ∧
    (s.cur = .tile k → exec .nop s = .next (s.setCore k (c.retired (c.pc + 4))) ∧
      exec .nopQ s = .next (s.setCore k (c.retired (c.pc + 2))))

/-! ### 16-bit and constant-window forms -/

/-- R129: the 16-bit integer forms, each with its value. -/
def Sys2Proof.Parts.ShortResults : Prop :=
  ∀ (s : State) (k : Nat) (ra rd : Reg4) (imm n : BitVec 6),
    let c := s.core k
    let out (v : Word) : State := s.setCore k (c.done .a [] rd.toNat v 0 2)
    let a := s.reg rd.toNat
    let b := s.reg ra.toNat
    (s.tileReady k [rd.toNat, ra.toNat] rd.toNat →
      exec (.addQ ra rd) s = .next (out (a + b)) ∧ exec (.subQ ra rd) s = .next (out (a - b)) ∧
      exec (.andQ ra rd) s = .next (out (a &&& b)) ∧ exec (.orQ ra rd) s = .next (out (a ||| b))) ∧
    (s.tileReady k [ra.toNat] rd.toNat → exec (.movQ ra rd) s = .next (out b)) ∧
    (s.tileReady k [] rd.toNat → exec (.moviQ imm rd) s = .next (out (imm.signExtend 64))) ∧
    (s.tileReady k [rd.toNat] rd.toNat →
      exec (.addiQ imm rd) s = .next (out (a + imm.signExtend 64)) ∧
      exec (.shliQ n rd) s = .next (out (a <<< n.toNat)) ∧ exec (.shriQ n rd) s = .next (out (a >>> n.toNat)))

/-- R112, R77, R314: MOVK and ADDK read the window word as a load of it does: the word of TCM where the core has no access
under way, the word of the core's own store where that is all its buffer holds. -/
def Sys2Proof.Parts.WindowResults : Prop :=
  ∀ (s : State) (k : Nat) (w : BitVec 1) (kn : BitVec 8) (ra rd : Reg) (v : Word),
    let h := tcmHome k + 8 * kn.toNat
    (s.noneOut k ∧ s.badAt h 8 = false ∧ s.eccSoft = [] ∧ v = s.readWord h ∨
      s.acquiring k 1 = false ∧ ∃ b, (s.core k).buffered = [b] ∧ b.word = BitVec.ofNat 64 h ∧
        b.mask = BitVec.allOnes 64 ∧ v = b.data) →
    (s.tileReady k [] rd.toNat → exec (.movk w kn rd) s = .next (s.setCore k ((s.core k).done .a [] rd.toNat v 0 4))) ∧
    (s.tileReady k [ra.toNat] rd.toNat → exec (.addk w kn ra rd) s =
      .next (s.setCore k ((s.core k).done .a [] rd.toNat (s.reg ra.toNat + v) 0 4)))

/-- R108-R112, R118, R119, R129: the results of the one-source, 16-bit and constant-window forms. -/
def Obligations.ShortResults : Prop := Parts.UnaryResults ∧ Parts.ShortResults ∧ Parts.WindowResults

/-! ### CSRs -/

/-- R100: the CSRs of a tile core that hold a plain value, by number. -/
def Sys2Proof.csrValues (s : State) (k : Nat) : List (Nat × Word) :=
  let c := s.core k
  [(0x000, c.fcsr), (0x001, c.vbase), (0x002, c.abase), (0x009, c.instret), (0x020, c.lhold), (0x028, c.hmaskr),
   (0x030, c.tfbase), (0x031, BitVec.ofNat 64 (c.tfcount % 2 ^ 32))] ++
    ((List.range 9).map fun i => (0x010 + i, Tab.get 0 c.pidx i)) ++
    ((List.range 9).map fun i => (0x040 + i, Tab.get 0 (s.cluster (corePos k)).wp i))

/-- R126, R101, R102: the new value of a writable CSR: FCSR keeps RM, the flags and the enables, VBASE and ABASE their
offset; none where the value is refused. -/
def Sys2Proof.csrStored (c : Core) (n : Nat) (v : Word) : Option Core :=
  match n with
  | 0 => if v.toNat % 8 ≤ 4 then some { c with fcsr := v &&& 0x3F3F07 } else none
  | 1 => if v.toNat % 64 = 0 ∧ 512 ≤ v.toNat % 16384 ∧ v.toNat % 16384 ≤ 8192 then some { c with vbase := v &&& 0x3FFF } else none
  | 2 => if v.toNat % 64 = 0 ∧ 512 ≤ v.toNat % 16384 ∧ v.toNat % 16384 ≤ 12288 then some { c with abase := v &&& 0x3FFF } else none
  | _ => none

def Sys2Proof.Parts.CsrResults : Prop :=
  ∀ (s : State) (k : Nat) (csr : BitVec 9) (ra rd : Reg),
    let c := s.core k
    (s.tileReady k [] rd.toNat → ∀ p ∈ csrValues s k, csr.toNat = p.1 →
      exec (.csrr csr rd) s = .next (s.setCore k (c.done .a [] rd.toNat p.2 0 4))) ∧
    (s.tileReady k [] rd.toNat → csr.toNat = 8 → ∃ d : Word, exec (.csrr csr rd) s =
      .next ({ s with free := s.free + 1 }.setCore k
        ({ c with cycle := c.cycle + d }.done .a [] rd.toNat (c.cycle + d) 0 4))) ∧
    (s.tileReady k [ra.toNat] rd.toNat → (csr = 0 → s.opsOf k = []) → ∀ p ∈ [((.csrw : BitVec 9 → Reg → Reg → Instr), fun _ v => v),
        (.csrs, fun o v => o ||| v), (.csrc, fun o v => o &&& ~~~v)],
      ∀ q ∈ csrValues s k, csr.toNat = q.1 → ∀ c', csrStored c q.1 (p.2 q.2 (s.reg ra.toNat)) = some c' →
        exec (p.1 csr ra rd) s = .next (s.setCore k (c'.done .a [] rd.toNat q.2 0 4)))

/-- R100, R92, R101: a CSR number that is not defined, a write to a read-only CSR, and a value that a CSR refuses (a rounding
mode of 5-7, a base that is no multiple of 64 or out of range) raise ILLEGAL_OP, and the CSR keeps its value. -/
def Sys2Proof.Parts.CsrRefusals : Prop :=
  ∀ (s : State) (k : Nat) (csr : BitVec 9) (ra rd : Reg), s.cur = .tile k → (s.core k).pair = .alone →
    (csr.toNat ∉ [8] ++ (csrValues s k).map Prod.fst →
      exec (.csrr csr rd) s = .next (s.takeTrap k { code := cILLEGAL_OP, pc := (s.core k).pc })) ∧
    (2 < csr.toNat → ∀ f ∈ [(.csrw : BitVec 9 → Reg → Reg → Instr), .csrs, .csrc],
      exec (f csr ra rd) s = .next (s.takeTrap k { code := cILLEGAL_OP, pc := (s.core k).pc })) ∧
    (s.tileReady k [ra.toNat] 0 → (csr = 0 → s.opsOf k = []) →
      ∀ p ∈ [((.csrw : BitVec 9 → Reg → Reg → Instr), fun (_ v : Word) => v), (.csrs, fun o v => o ||| v), (.csrc, fun o v => o &&& ~~~v)],
      ∀ q ∈ csrValues s k, csr.toNat = q.1 → q.1 ≤ 2 → csrStored (s.core k) q.1 (p.2 q.2 (s.reg ra.toNat)) = none →
        exec (p.1 csr ra rd) s = .next (s.takeTrap k { code := cILLEGAL_OP, pc := (s.core k).pc }))

/-- R100-R102, R126: reads and writes of CSRs, and their refusals. -/
def Obligations.CsrResults : Prop := Parts.CsrResults ∧ Parts.CsrRefusals

/-! ### Loads and stores -/

/-- R204: the loads of the I form: their bytes, and whether they extend the sign. -/
def Sys2Proof.loads : List ((BitVec 9 → Reg → Reg → Instr) × Nat × Bool) :=
  [(.ldb, 1, true), (.ldbu, 1, false), (.ldh, 2, true), (.ldhu, 2, false), (.ldw, 4, true), (.ldwu, 4, false),
   (.ldd, 8, false)]

/-- The bytes of a load as a word, zero- or sign-extended. -/
def Sys2Proof.loaded (signed : Bool) (n v : Nat) : Word :=
  if signed then (BitVec.ofNat (8 * n) v).signExtend 64 else (BitVec.ofNat (8 * n) v).setWidth 64

/-- R203, R204, R129: a load that the own cluster serves reads its bytes at their home, into rd; nothing else
changes. -/
def Obligations.LocalLoads : Prop :=
  ∀ (s : State) (k : Nat) (imm : BitVec 9) (ra rd : Reg) (ext : BitVec 2) (qa qd : Reg4) (sz : BitVec 2) (sc : BitVec 4),
    let c := s.core k
    let served (n : Nat) (a : Word) (h : Nat) : Prop := ∃ t, s.operand (corePos k) a n .load = some t ∧
      t.home k = some h ∧ a.toNat % n = 0 ∧ s.badAt h n = false
    s.noneOut k → s.quietReads (corePos k) →
    (s.tileReady k [ra.toNat] rd.toNat →
      (∀ p ∈ loads, ∀ h, served p.2.1 (s.reg ra.toNat + imm.signExtend 64) h → exec (p.1 imm ra rd) s =
        .next (s.setCore k (c.done .m [ra.toNat] rd.toNat (loaded p.2.2 p.2.1 (s.readMem h p.2.1)) 0 4))) ∧
      (∀ h, served (2 ^ sz.toNat) (s.reg ra.toNat) h → exec (.ldacq sz sc ra rd) s =
        .next (s.setCore k (c.done .m [ra.toNat] rd.toNat (BitVec.ofNat 64 (s.readMem h (2 ^ sz.toNat))) 0 4)))) ∧
    (s.tileReady k [qa.toNat] qd.toNat →
      (∀ h, served 8 (s.reg qa.toNat + BitVec.ofNat 64 (8 * ext.toNat)) h → exec (.lddQ ext qa qd) s =
        .next (s.setCore k (c.done .m [qa.toNat] qd.toNat (loaded false 8 (s.readMem h 8)) 0 2))) ∧
      (∀ h, served 4 (s.reg qa.toNat + BitVec.ofNat 64 (4 * ext.toNat)) h → exec (.ldwQ ext qa qd) s =
        .next (s.setCore k (c.done .m [qa.toNat] qd.toNat (loaded true 4 (s.readMem h 4)) 0 2))))

/-- Reply slot `i` of a core is its lowest free one (09: R184). -/
def Sys2Proof.Machine.Core.lowestFree (c : Core) (i : Nat) : Prop :=
  i < 8 ∧ nth none c.slots i = none ∧ ∀ j, j < i → nth none c.slots j ≠ none

/-- A core issues a remote access `x` to a target through slot `i`: its request leaves with the fields of R182 and R183, its
register is empty and owed unless it is s0, the instruction retires, and nothing else changes. -/
def Sys2Proof.Machine.State.asksFor (s : State) (k i len : Nat) (x : Access) (t : Target) (signed : Bool) (rd : Nat) (o : Out) : Prop :=
  let c := s.core k
  ∃ (u : State) (l : Slot) (m : Msg), o = .next u ∧ (u.core k).slots = setNth c.slots i (some l) ∧ l.acc = x ∧ l.dst = 8 * rd ∧
    l.pc = c.pc ∧ l.signed = signed ∧ l.performed = false ∧ l.store = false ∧
    (rd ≠ 0 → (u.core k).reg.isEmpty rd = true ∧ (u.core k).reg.isPend rd = true) ∧
    (∀ w, w ≠ rd → (u.core k).reg.isEmpty w = c.reg.isEmpty w ∧ (u.core k).reg.isPend w = c.reg.isPend w) ∧
    (u.core k).reg.words = c.reg.words ∧ (u.core k).pc = c.pc + BitVec.ofNat 64 len ∧ (u.core k).instret = c.instret + 1 ∧
    u.net = s.net ++ [m] ∧ m.vc = 2 ∧ m.at_ = corePos k ∧ m.w0 = header0 (t.server k) 0 2 x.kind x.body.length 0 ∧
    m.w1 = header1 (corePos k) (coreNo k) 0 (s.tagFor (corePos k) 2) ∧ m.w2 = x.addr ∧
    m.w3 = fields [(0, i), (3, 0), (8, sizeCode x.n), (11, x.op), (14, x.ord), (16, x.scope)] ∧ m.body = x.body ∧
    u.mem = s.mem ∧ u.clusters = s.clusters ∧ ∀ j, j ≠ k → u.core j = s.core j

/-- R184, R94, R182, R320: a load from elsewhere takes the lowest free reply slot, marks its register empty and owed, and sends
one LOAD request, LDACQ one of its own kind with its order and scope; memory is as it was. Other loads may be out. -/
def Obligations.RemoteLoads : Prop :=
  ∀ (s : State) (k i : Nat) (imm : BitVec 9) (ra rd : Reg) (t : Target) (ext : BitVec 2) (qa qd : Reg4) (sz : BitVec 2)
    (sc : BitVec 4),
    let c := s.core k
    let asks (len n : Nat) (x : Access) (signed : Bool) (rd : Nat) (o : Out) : Prop :=
      s.operand (corePos k) x.addr n .load = some t → x.addr.toNat % n = 0 → s.asksFor k i len x t signed rd o
    t.home k = none → c.lowestFree i → c.buffered = [] → (∀ l ∈ c.accesses, l.acc.kind = 0 ∨ l.acc.kind = 2) →
    s.ldfeBefore k c.nextSeq = false →
    (s.tileReady k [ra.toNat] rd.toNat →
      (∀ p ∈ loads, asks 4 p.2.1 { kind := 0, addr := s.reg ra.toNat + imm.signExtend 64, n := p.2.1 } p.2.2 rd.toNat
        (exec (p.1 imm ra rd) s)) ∧
      asks 4 (2 ^ sz.toNat) { kind := 6, addr := s.reg ra.toNat, n := 2 ^ sz.toNat, ord := 1, scope := sc.toNat } false rd.toNat
        (exec (.ldacq sz sc ra rd) s)) ∧
    (s.tileReady k [qa.toNat] qd.toNat →
      asks 2 8 { kind := 0, addr := s.reg qa.toNat + BitVec.ofNat 64 (8 * ext.toNat), n := 8 } false qd.toNat
        (exec (.lddQ ext qa qd) s) ∧
      asks 2 4 { kind := 0, addr := s.reg qa.toNat + BitVec.ofNat 64 (4 * ext.toNat), n := 4 } true qd.toNat
        (exec (.ldwQ ext qa qd) s))

/-- R207, R208, R94: LDV fills a vector register from the own cluster; LDR asks for half of one, whose words are then empty
and pending. Word 0 discards a write. -/
def Obligations.VectorLoads : Prop :=
  ∀ (s : State) (k : Nat) (ra : Reg) (vn : VReg) (hb : BitVec 1) (t : Target) (h : Nat),
    let c := s.core k
    let a := s.reg ra.toNat
    let b := vbyte c.vbase.toNat vn.toNat / 8
    s.tileReady k [ra.toNat] 0 → s.noneOut k → c.slotsFree → s.quietReads (corePos k) →
    (s.wordsFree k (span b 32) → s.operand (corePos k) a 256 .localLoad = some t → t.home k = some h →
      a.toNat % 8 = 0 → s.badAt h 256 = false → ∃ u : State, exec (.ldv ra vn) s = .next u ∧
        (∀ i, i < 32 → b + i ≠ 0 → (u.core k).reg.word (b + i) = s.readWord (h + 8 * i)) ∧
        (∀ w, (w < b ∨ b + 32 ≤ w) → (u.core k).reg.word w = c.reg.word w) ∧
        (u.core k).pc = c.pc + 4 ∧ u.mem = s.mem ∧ u.net = s.net) ∧
    (s.wordsFree k (span (b + 16 * hb.toNat) 16) → s.operand (corePos k) a 128 .block = some t → a.toNat % 8 = 0 →
      a.toNat % 4096 + 128 ≤ 4096 → ∃ (u : State) (l : Slot) (m : Msg), exec (.ldr ra hb vn) s = .next u ∧
        (u.core k).slots = some l :: List.replicate 7 none ∧ l.acc = { kind := 2, addr := a, n := 128 } ∧
        l.dst = vbyte c.vbase.toNat vn.toNat + 128 * hb.toNat ∧ l.len = 128 ∧ (u.core k).pc = c.pc + 4 ∧
        (∀ i, i < 16 → b + 16 * hb.toNat + i ≠ 0 → (u.core k).reg.isEmpty (b + 16 * hb.toNat + i) = true ∧
          (u.core k).reg.isPend (b + 16 * hb.toNat + i) = true) ∧
        (∀ w, w < b + 16 * hb.toNat ∨ b + 16 * hb.toNat + 16 ≤ w → (u.core k).reg.isEmpty w = c.reg.isEmpty w) ∧
        (u.core k).reg.words = c.reg.words ∧ u.net = s.net ++ [m] ∧ m.vc = 2 ∧ m.w2 = a ∧ u.mem = s.mem)

/-- R204: the stores of the I form and their bytes. -/
def Sys2Proof.stores : List ((BitVec 9 → Reg → Reg → Instr) × Nat) := [(.stb, 1), (.sth, 2), (.stw, 4), (.std, 8)]

/-- R203, R204, R129, R314: a store enters the store buffer with its bytes; memory changes when the buffer releases
it (StoreReleases). -/
def Obligations.Stores : Prop :=
  ∀ (s : State) (k : Nat) (imm : BitVec 9) (ra rd : Reg) (ext : BitVec 2) (qa qd : Reg4) (sz : BitVec 2) (sc : BitVec 4)
    (t : Target),
    let c := s.core k
    c.storeRoom 1 →
    (s.tileReady k [ra.toNat, rd.toNat] 0 →
      (∀ p ∈ stores, ∀ a, a = s.reg ra.toNat + imm.signExtend 64 → s.operand (corePos k) a p.2 .store = some t →
        a.toNat % p.2 = 0 → ∃ e : Buffered, exec (p.1 imm ra rd) s =
          .next (s.setCore k (((c.readIn .m [ra.toNat, rd.toNat]).buffers [e]).retired (c.pc + 4))) ∧
          e.acc.kind = 1 ∧ e.rel = none ∧ e.holds k t a p.2 (s.reg rd.toNat)) ∧
      (∀ a, a = s.reg ra.toNat → s.operand (corePos k) a (2 ^ sz.toNat) .store = some t → a.toNat % 2 ^ sz.toNat = 0 →
        ∃ e : Buffered, exec (.strel sz sc ra rd) s =
          .next (s.setCore k (((c.readIn .m [ra.toNat, rd.toNat]).buffers [e]).retired (c.pc + 4))) ∧
          e.acc.kind = 7 ∧ e.rel = some sc.toNat ∧ e.holds k t a (2 ^ sz.toNat) (s.reg rd.toNat))) ∧
    (s.tileReady k [qa.toNat, qd.toNat] 0 →
      ∀ p ∈ [((.stdQ : BitVec 2 → Reg4 → Reg4 → Instr), 8), (.stwQ, 4)],
        ∀ a, a = s.reg qa.toNat + BitVec.ofNat 64 (p.2 * ext.toNat) → s.operand (corePos k) a p.2 .store = some t →
        a.toNat % p.2 = 0 → ∃ e : Buffered, exec (p.1 ext qa qd) s =
          .next (s.setCore k (((c.readIn .m [qa.toNat, qd.toNat]).buffers [e]).retired (c.pc + 2))) ∧
          e.acc.kind = 1 ∧ e.rel = none ∧ e.holds k t a p.2 (s.reg qd.toNat))

/-- R207, R209: STV streams the 32 words of a vector register into the buffer; BITST puts a bit field of one word or
of two into it. -/
def Sys2Proof.Parts.VectorAndBitStores : Prop :=
  ∀ (s : State) (k : Nat) (ra rd : Reg) (vn : VReg) (wm1 : BitVec 6) (t : Target) (h : Nat),
    let c := s.core k
    let a := s.reg ra.toNat
    let b := vbyte c.vbase.toNat vn.toNat / 8
    t.home k = some h →
    (s.tileReady k [ra.toNat] 0 → c.storeRoom 16 → c.sbuf = [] → s.operand (corePos k) a 256 .localStore = some t →
      a.toNat % 8 = 0 → (∀ i, i < 32 → c.reg.isEmpty (b + i) = false) → ∃ u : State, exec (.stv ra vn) s = .next u ∧
        (u.core k).sbuf.length = 16 ∧ (u.core k).stream.length = 16 ∧
        (((u.core k).sbuf ++ (u.core k).stream).map fun e => (e.homeAt, e.mask, e.data)) =
          (List.range 32).map (fun i => (some (h / 8 * 8 + 8 * i), BitVec.allOnes 64, c.reg.word (b + i))) ∧
        (u.core k).pc = c.pc + 4 ∧ u.mem = s.mem ∧ u.net = s.net) ∧
    (s.tileReady k [ra.toNat, rd.toNat] 0 → c.storeRoom 2 →
      s.operand (corePos k) (BitVec.ofNat 64 (a.toNat / 8)) ((a.toNat + wm1.toNat) / 8 - a.toNat / 8 + 1) .localStore = some t →
      ∃ es, exec (.bitst wm1 ra rd) s =
          .next (s.setCore k (((c.readIn .m [ra.toNat, rd.toNat]).buffers es).retired (c.pc + 4))) ∧
        (es.map fun e => (e.homeAt, e.mask, e.data)) =
          (let x := 8 * h + a.toNat % 8
           let w := wm1.toNat + 1
           let d := (s.reg rd.toNat).toNat
           if x % 64 + w ≤ 64 then
             [(some (8 * (x / 64)), BitVec.ofNat 64 ((2 ^ w - 1) * 2 ^ (x % 64)), BitVec.ofNat 64 (d % 2 ^ w * 2 ^ (x % 64)))]
           else
             [(some (8 * (x / 64)), BitVec.ofNat 64 ((2 ^ (64 - x % 64) - 1) * 2 ^ (x % 64)),
                BitVec.ofNat 64 (d % 2 ^ (64 - x % 64) * 2 ^ (x % 64))),
              (some (8 * (x / 64) + 8), BitVec.ofNat 64 (2 ^ (x % 64 + w - 64) - 1),
                BitVec.ofNat 64 (d / 2 ^ (64 - x % 64) % 2 ^ (x % 64 + w - 64)))]))

/-- R209: BITLD reads w bits from a bit address, across a word boundary too. -/
def Sys2Proof.Parts.BitLoads : Prop :=
  ∀ (s : State) (k : Nat) (ra rd : Reg) (wm1 : BitVec 6) (t : Target) (h : Nat),
    let c := s.core k
    let a := s.reg ra.toNat
    let x := 8 * h + a.toNat % 8
    s.tileReady k [ra.toNat] rd.toNat → s.noneOut k → s.quietReads (corePos k) → s.eccBad = [] →
    s.operand (corePos k) (BitVec.ofNat 64 (a.toNat / 8)) ((a.toNat + wm1.toNat) / 8 - a.toNat / 8 + 1) .localLoad = some t →
    t.home k = some h →
    exec (.bitld wm1 ra rd) s = .next (s.setCore k (c.done .m [ra.toNat] rd.toNat
      (BitVec.ofNat 64 (s.readMem (x / 64 * 8) 16 / 2 ^ (x % 64) % 2 ^ (wm1.toNat + 1))) 0 4))

/-- R207, R209: STV, BITST and BITLD. -/
def Obligations.BitFieldAccess : Prop := Parts.VectorAndBitStores ∧ Parts.BitLoads

/-! ### Full/empty bits -/

/-- R205, R206: LDS and LDE read a full word and wait while it is empty, LDE sets it empty, SETF and SETE set the bit, STF buffers a store that
will. The data of the word is never changed by the bit. -/
def Sys2Proof.Parts.FullEmptyResults : Prop :=
  ∀ (s : State) (k : Nat) (imm : BitVec 9) (ra rd : Reg) (t : Target) (h : Nat) (a : Word),
    let c := s.core k
    s.noneOut k → c.storeRoom 1 → s.quietReads (corePos k) → s.operand (corePos k) a 8 .localBits = some t → t.home k = some h →
    a.toNat % 8 = 0 → s.badAt h 8 = false →
    (s.tileReady k [ra.toNat] rd.toNat → s.memIsEmpty h = false →
      (s.reg ra.toNat + imm.signExtend 64 = a → exec (.lds imm ra rd) s =
        .next (s.setCore k (c.done .m [ra.toNat] rd.toNat (s.readWord h) 0 4))) ∧
      (s.reg ra.toNat = a → exec (.lde ra rd) s =
        .next ((s.setMemEmpty h).setCore k (c.done .m [ra.toNat] rd.toNat (s.readWord h) 0 4)))) ∧
    (s.tileReady k [ra.toNat] rd.toNat → s.memIsEmpty h = true →
      let waits : State := s.setCore k { c.readIn .m [ra.toNat] with blocked := some (.memWord h) }
      (s.reg ra.toNat = a → exec (.lde ra rd) s = .next waits) ∧
      (s.reg ra.toNat + imm.signExtend 64 = a → exec (.lds imm ra rd) s = .next waits)) ∧
    (s.tileReady k [ra.toNat] 0 → s.reg ra.toNat = a →
      exec (.setf ra) s = .next ((s.setMemFull h).setCore k ((c.readIn .m [ra.toNat]).retired (c.pc + 4))) ∧
      exec (.sete ra) s = .next ((s.setMemEmpty h).setCore k ((c.readIn .m [ra.toNat]).retired (c.pc + 4)))) ∧
    (s.tileReady k [ra.toNat, rd.toNat] 0 → s.reg ra.toNat = a → ∃ e : Buffered, exec (.stf ra rd) s =
      .next (s.setCore k (((c.readIn .m [ra.toNat, rd.toNat]).buffers [e]).retired (c.pc + 4))) ∧
      e.setFull = true ∧ e.holds k t a 8 (s.reg rd.toNat))

/-- R206: the bit of a memory word reads as it was last set, and the other words keep theirs. -/
def Sys2Proof.Parts.FullEmptyBits : Prop :=
  ∀ (s : State) (a b : Nat),
    (s.setMemEmpty a).memIsEmpty b = (if b / 8 = a / 8 then true else s.memIsEmpty b) ∧
    (s.setMemFull a).memIsEmpty b = (if b / 8 = a / 8 then false else s.memIsEmpty b)

/-- R206: the forms on a word of register space: its bit, and nothing of its data; word 0 stays full. -/
def Sys2Proof.Parts.RegisterBits : Prop :=
  ∀ (s : State) (k : Nat) (ra : Reg), s.tileReady k [ra.toNat] 0 → (s.reg ra.toNat).toNat < 2048 →
    s.writeWaits k (s.reg ra.toNat).toNat = false →
    ∀ p ∈ [((.setfRs : Reg → Instr), false), (.seteRs, true)], ∃ u : State, exec (p.1 ra) s = .next u ∧
      (∀ w, (u.core k).reg.isEmpty w =
        if w = (s.reg ra.toNat).toNat then decide (w ≠ 0) && p.2 else (s.core k).reg.isEmpty w) ∧
      (u.core k).reg.words = (s.core k).reg.words ∧ (u.core k).pc = (s.core k).pc + 4 ∧ u.mem = s.mem ∧
      u.memEmpty = s.memEmpty

/-- R205, R206: the full/empty forms and the bits they set. -/
def Obligations.FullEmptyResults : Prop := Parts.FullEmptyResults ∧ Parts.FullEmptyBits ∧ Parts.RegisterBits

/-! ### Atomics -/

/-- R323: the new value of an AMO on `w` bits. -/
def Sys2Proof.amoNew (op w : Nat) (old v : Nat) : Nat :=
  match op with
  | 0 => (old + v) % 2 ^ w
  | 1 => old &&& v
  | 2 => old ||| v
  | 3 => old ^^^ v
  | 4 => if (BitVec.ofNat w old).toInt < (BitVec.ofNat w v).toInt then old else v
  | 5 => if (BitVec.ofNat w v).toInt < (BitVec.ofNat w old).toInt then old else v
  | 6 => if old < v then old else v
  | _ => if v < old then old else v

/-- R321-R325: an atomic that the own cluster serves reads the old value into rd and writes the new one, or nothing,
at its home, in one step; every byte outside its word reads as before. -/
def Sys2Proof.Parts.AtomicResults : Prop :=
  ∀ (s : State) (k : Nat) (wd : BitVec 1) (ord : BitVec 2) (o1 : BitVec 1) (op : BitVec 3) (rb ra rd : Reg) (t : Target)
    (h : Nat),
    let c := s.core k
    let a := s.reg ra.toNat
    let v := (s.reg rd.toNat).toNat
    let x := (s.reg rb.toNat).toNat
    let n4 := if wd = 0 then 8 else 4
    let runs (i : Instr) (rs : List Nat) (n new : Nat) : Prop :=
      s.operand (corePos k) a n .atomic = some t → a.toNat % n = 0 → s.badAt h n = false →
      ∃ u : State, exec i s = .next u ∧
        u.core k = c.done .m rs rd.toNat (BitVec.ofNat 64 (s.readMem h n)) 0 4 ∧ u.readMem h n = new ∧
        (∀ y, y < h ∨ h + n ≤ y → Mem.read u.mem y = Mem.read s.mem y) ∧ u.net = s.net ∧
        ∀ j, j ≠ k → u.core j = s.core j
    s.Inv → s.noneOut k → c.sendq = [] → c.sends = [] → s.quietReads (corePos k) → t.home k = some h →
    (s.tileReady k [ra.toNat, rd.toNat] rd.toNat →
      runs (.amo wd ord op ra rd) [ra.toNat, rd.toNat] n4
        (amoNew op.toNat (8 * n4) (s.readMem h n4) (v % 2 ^ (8 * n4))) ∧
      runs (.amoxXchg ord ra rd) [ra.toNat, rd.toNat] 8 v ∧
      runs (.amofFadd32 o1 ra rd) [ra.toNat, rd.toNat] 4 ((Machine.fadd .f32 0 (s.readMem h 4) (v % 2 ^ 32)).1 % 2 ^ 32) ∧
      runs (.amofFmaxabs o1 ra rd) [ra.toNat, rd.toNat] 4 (maxAbs (s.readMem h 4) (v % 2 ^ 32))) ∧
    (s.tileReady k [ra.toNat, rd.toNat, rb.toNat] rd.toNat →
      runs (.amoxCas ord rb ra rd) [ra.toNat, rd.toNat, rb.toNat] 8
        (if s.readMem h 8 = v then x else s.readMem h 8) ∧
      runs (.amofBumplim o1 rb ra rd) [ra.toNat, rd.toNat, rb.toNat] 8
        (if s.readMem h 8 < x then s.readMem h 8 + 1 else s.readMem h 8))

/-- R182, R184, R321, R322: an atomic on memory that the own cluster does not hold leaves in a request through the lowest free
reply slot with its operands, and rd is empty until the reply. Loads of a wider scope may be out. -/
def Sys2Proof.Parts.RemoteAtomics : Prop :=
  ∀ (s : State) (k i : Nat) (wd : BitVec 1) (ord : BitVec 2) (o1 : BitVec 1) (op : BitVec 3) (rb ra rd : Reg) (t : Target),
    let c := s.core k
    let v := s.reg rd.toNat
    let x := s.reg rb.toNat
    let n4 := if wd = 0 then 8 else 4
    let asks (y : Access) (o : Out) : Prop :=
      s.operand (corePos k) (s.reg ra.toNat) y.n .atomic = some t → (s.reg ra.toNat).toNat % y.n = 0 →
      s.asksFor k i 4 { y with addr := s.reg ra.toNat, scope := s.homeScope (corePos k) t } t false rd.toNat o
    t.home k = none → c.lowestFree i → c.buffered = [] → c.sendq = [] → c.sends = [] → c.held = [] →
    s.ldfeBefore k c.nextSeq = false →
    (∀ l ∈ c.accesses, (l.acc.kind = 0 ∨ l.acc.kind = 2) ∧ (l.performed = true ∨ 3 < l.home ∧ s.homeScope (corePos k) t < l.home)) →
    (s.tileReady k [ra.toNat, rd.toNat] rd.toNat →
      asks { kind := 3, n := n4, op := op.toNat, ord := ord.toNat, d1 := v } (exec (.amo wd ord op ra rd) s) ∧
      asks { kind := 4, n := 8, op := 0, ord := ord.toNat, d1 := v } (exec (.amoxXchg ord ra rd) s) ∧
      asks { kind := 5, n := 4, op := 0, ord := 3 * o1.toNat, d1 := v } (exec (.amofFadd32 o1 ra rd) s) ∧
      asks { kind := 5, n := 4, op := 1, ord := 3 * o1.toNat, d1 := v } (exec (.amofFmaxabs o1 ra rd) s)) ∧
    (s.tileReady k [ra.toNat, rd.toNat, rb.toNat] rd.toNat →
      asks { kind := 4, n := 8, op := 1, ord := ord.toNat, d1 := v, d2 := x } (exec (.amoxCas ord rb ra rd) s) ∧
      asks { kind := 5, n := 8, op := 2, ord := 3 * o1.toNat, d1 := x } (exec (.amofBumplim o1 rb ra rd) s)) ∧
    ∀ y : Access, y.body =
      if y.kind = 3 ∨ y.kind = 5 ∨ y.kind = 4 ∧ y.op % 2 = 0 then toBytes 8 y.d1.toNat
      else if y.kind = 4 then toBytes 8 y.d1.toNat ++ toBytes 8 y.d2.toNat
      else if y.kind = 1 ∨ y.kind = 7 then toBytes y.n y.d1.toNat else []

/-- R182, R184, R321-R325: atomics in the own cluster and elsewhere. -/
def Obligations.AtomicResults : Prop := Parts.AtomicResults ∧ Parts.RemoteAtomics

/-! ### Order -/

/-- R317-R319: with every access performed, no send queued and no engine operation left, the fences complete; a FENCE
or TFENCE of `.host` or wider has met the host ports. -/
def Sys2Proof.Parts.FenceResults : Prop :=
  ∀ (s : State) (k : Nat) (rb ra sc : BitVec 6),
    let c := s.core k
    s.noneOut k → c.sendq = [] → c.sends = [] →
    (s.cur = .tile k → exec (.fence sc) s = .next (s.setCore k
      ((if 6 ≤ sc.toNat then { c with hostPorts := [] } else c).retired (c.pc + 4)))) ∧
    (s.tileReady k [ra.toNat, rb.toNat] 0 → (s.reg ra.toNat).toNat + (s.reg rb.toNat).toNat ≤ 2 ^ 64 →
      exec (.fencer rb ra sc) s = .next (s.setCore k ((c.readIn .m [ra.toNat, rb.toNat]).retired (c.pc + 4)))) ∧
    (s.cur = .tile k → s.opsOf k = [] → (∀ i, i < 6 → ¬(bit c.fcsr (8 + i) = true ∧ bit c.fcsr (16 + i) = true)) →
      exec .tfence s = .next (s.setCore k ({ c with hostPorts := [] }.retired (c.pc + 4))))

/-- R317: a FENCE waits while an access within its scope has not been performed. -/
def Sys2Proof.Parts.FenceWaits : Prop :=
  ∀ (s : State) (k : Nat) (sc : BitVec 6), s.cur = .tile k → 2 ≤ sc.toNat →
    ((∃ b ∈ (s.core k).sbuf, b.home ≤ sc.toNat) ∨
      (∃ l ∈ (s.core k).inUse, l.performed = false ∧ l.home ≤ sc.toNat)) →
    exec (.fence sc) s = .next (s.setCore k { s.core k with blocked := some .performed })

/-- R319, R101: a TFENCE with an enabled flag set takes the trap of the first one in the order NV DZ OF UF NX SAT. -/
def Sys2Proof.Parts.FlagTraps : Prop :=
  ∀ (s : State) (k f : Nat), s.cur = .tile k → s.noneOut k → (s.core k).sendq = [] → (s.core k).sends = [] → s.opsOf k = [] →
    (s.core k).pair = .alone → f < 6 → bit (s.core k).fcsr (8 + f) = true → bit (s.core k).fcsr (16 + f) = true →
    (∀ i, i < f → ¬(bit (s.core k).fcsr (8 + i) = true ∧ bit (s.core k).fcsr (16 + i) = true)) →
    exec .tfence s = .next ((s.setCore k { s.core k with hostPorts := [] }).takeTrap k
      { code := 40 + f, kind := 2, detail := (s.core k).fcsr, pc := (s.core k).pc })

/-- R317-R319: the fences, what they wait for, and the flag trap of TFENCE. -/
def Obligations.FenceResults : Prop := Parts.FenceResults ∧ Parts.FenceWaits ∧ Parts.FlagTraps

/-! ### Messages, activations and barriers from a core -/

/-- R175, R176: SEND, SENDP and SENDV check their header and range and take a place in the send queue; nothing leaves
yet. -/
def Sys2Proof.Parts.SendResults : Prop :=
  ∀ (s : State) (k : Nat) (rb ra rd : Reg) (vn : VReg),
    let c := s.core k
    let h := s.reg ra.toNat
    let a := s.reg rb.toNat
    let n := (s.reg rd.toNat).toNat
    let p := corePos k
    let pre := preludeBytes h
    let rs := [ra.toNat, rb.toNat, rd.toNat]
    let full := 4 ≤ c.sendq.length + c.sends.length
    let waits (rs : List Nat) : State := s.setCore k { c.readIn .m rs with blocked := some .sendQueue }
    let queued (rs : List Nat) (e : SendEntry) : State := s.setCore k
      ({ c.readIn .m rs with sendq := c.sendq ++ [{ e with seq := c.nextSeq }], nextSeq := c.nextSeq + 1 }.retired (c.pc + 4))
    c.pair = .alone →
    (s.tileReady k rs 0 → n ≤ 65535 → (n = 0 ∨ ownRange (s.own p a) n = true) →
      (badHeader h true = false → exec (.send rb ra rd) s =
        .next (if full then waits rs else queued rs { hdr := h, addr := s.payload p a 0, len := n })) ∧
      (badHeader h false = false → (pre = 0 ∨ ownRange (s.own p (a - BitVec.ofNat 64 pre)) pre = true) →
        exec (.sendp rb ra rd) s = .next (if full then waits rs
          else queued rs { hdr := h, addr := s.payload p a pre, len := n, pcnt := bits h 40 3 }))) ∧
    (s.tileReady k [ra.toNat] 0 → badHeader h true = false →
      (∀ i, i < 32 → c.reg.isEmpty (vbyte c.vbase.toNat vn.toNat / 8 + i) = false) →
      exec (.sendv vn ra) s = .next (if full then waits [ra.toNat] else queued [ra.toNat]
        { hdr := h, len := 256, snap := some (c.reg.bytes (vbyte c.vbase.toNat vn.toNat) 256) }))

/-- R176, R191: a refused header and a length above 65,535 raise BAD_HEADER, a payload or prelude outside the own memories
BAD_ADDRESS at its first byte; nothing is queued. The own scratchpad is meant by either of its windows. -/
def Sys2Proof.Parts.SendRefusals : Prop :=
  ∀ (s : State) (k : Nat) (rb ra rd : Reg) (vn : VReg),
    let c := s.core k
    let h := s.reg ra.toNat
    let a := s.reg rb.toNat
    let n := (s.reg rd.toNat).toNat
    let p := corePos k
    let pre := preludeBytes h
    let b := a - BitVec.ofNat 64 pre
    let rs := [ra.toNat, rb.toNat, rd.toNat]
    let traps (rs : List Nat) (cause : Cause) : State := (s.setCore k (c.readIn .m rs)).takeTrap k { cause with pc := c.pc }
    c.pair = .alone →
    (s.tileReady k rs 0 →
      (badHeader h true = true ∨ 65535 < n → exec (.send rb ra rd) s = .next (traps rs { code := cBAD_HEADER })) ∧
      (badHeader h false = true ∨ 65535 < n → exec (.sendp rb ra rd) s = .next (traps rs { code := cBAD_HEADER })) ∧
      (n ≤ 65535 → n ≠ 0 → ownRange (s.own p a) n = false →
        (badHeader h true = false → exec (.send rb ra rd) s = .next (traps rs { code := cBAD_ADDRESS, addr := a })) ∧
        (badHeader h false = false → exec (.sendp rb ra rd) s = .next (traps rs { code := cBAD_ADDRESS, addr := a }))) ∧
      (n ≤ 65535 → n = 0 ∨ ownRange (s.own p a) n = true → badHeader h false = false → pre ≠ 0 →
        ownRange (s.own p b) pre = false →
        exec (.sendp rb ra rd) s = .next (traps rs { code := cBAD_ADDRESS, addr := b }))) ∧
    (s.tileReady k [ra.toNat] 0 → badHeader h true = true →
      exec (.sendv vn ra) s = .next (traps [ra.toNat] { code := cBAD_HEADER }))

/-- R175, R176: sends, a send that waits for room in its queue, and those that are refused. -/
def Obligations.SendResults : Prop := Parts.SendResults ∧ Parts.SendRefusals

/-- R137, R138, R373: POST sends one VC0 word of signals for its launch, HMASK exchanges MASK bits, DBGMARK goes on. -/
def Obligations.SignalResults : Prop :=
  ∀ (s : State) (k : Nat) (rb ra rd : Reg),
    let c := s.core k
    let n := (s.reg ra.toNat).toNat % 65536
    (s.tileReady k [ra.toNat] 0 →
      (n = 0 → exec (.post ra) s = .next (s.setCore k (c.retired (c.pc + 4)))) ∧
      (n ≠ 0 → ∃ (u : State) (m : Msg), exec (.post ra) s = .next u ∧ u.net = s.net ++ [m] ∧ m.vc = 0 ∧ m.at_ = corePos k ∧
        m.w0 = header0 (islandPos (s.partOf (regionOf (corePos k))).lead) 0 0 chPost 16 0 ∧
        m.body = bytesOf [BitVec.ofNat 64 n, BitVec.ofNat 64 c.launchOf] ∧ (u.core k).pc = c.pc + 4 ∧ u.mem = s.mem) ∧
      ((s.cluster (corePos k)).traceOn = false → exec (.dbgmark ra) s = .next (s.setCore k (c.retired (c.pc + 4))))) ∧
    (s.tileReady k [ra.toNat, rb.toNat] rd.toNat → ∃ u : State, exec (.hmask rb ra rd) s = .next u ∧
      (∀ ch, ch < 32 → ((u.core k).hand ch).mask =
        if (c.hand ch).valid && bit (s.reg rb.toNat) ch then bit (s.reg ra.toNat) ch else (c.hand ch).mask) ∧
      (rd ≠ 0 → (u.core k).reg.word rd.toNat = BitVec.ofNat 64 c.masks) ∧ (u.core k).pc = c.pc + 4 ∧
      u.mem = s.mem ∧ u.net = s.net)

/-- R139, R140: CBAR.ARRIVE counts an arrival, the last one ends the phase; CBAR.WAIT goes on once the phase has
passed; CBAR.ARRIVEWAIT does both. -/
def Obligations.BarrierResults : Prop :=
  ∀ (s : State) (k : Nat) (rb ra rd : Reg),
    let c := s.core k
    let i := (s.reg ra.toNat).toNat % 8
    let t := (s.reg rb.toNat).toNat % 65536
    let b := (s.cluster (corePos k)).bar i
    (s.tileReady k [ra.toNat, rb.toNat] rd.toNat → s.noneOut k → c.barWait = none → t ≠ 0 → (b.target = 0 ∨ b.target = t) →
      (b.count + 1 ≠ t → exec (.cbarArrive rb ra rd) s =
        .next ((s.setBar (corePos k) i { b with count := b.count + 1, target := t }).setCore k
          (c.done .a [] rd.toNat (BitVec.ofNat 64 b.phase) 0 4))) ∧
      (b.count + 1 = t → b.phase < 2 ^ 32 →
        exec (.cbarArrive rb ra rd) s =
          .next ((s.setBar (corePos k) i { b with count := 0, target := 0, phase := (b.phase + 1) % 2 ^ 32 }).setCore k
            (c.done .a [] rd.toNat (BitVec.ofNat 64 b.phase) 0 4)) ∧
        exec (.cbarArrivewait rb ra rd) s =
          .next ((s.setBar (corePos k) i { b with count := 0, target := 0, phase := (b.phase + 1) % 2 ^ 32 }).setCore k
            (c.done .a [] rd.toNat (BitVec.ofNat 64 b.phase) 0 4))) ∧
      (b.count + 1 ≠ t → b.phase < 2 ^ 32 → exec (.cbarArrivewait rb ra rd) s =
        .next ((s.setBar (corePos k) i { b with count := b.count + 1, target := t }).setCore k
          { c with barWait := some (i, b.phase), blocked := some .barrier }))) ∧
    (s.tileReady k [ra.toNat, rb.toNat] rd.toNat → s.noneOut k → c.barWait = none → c.pair = .alone →
      ∀ f ∈ [(.cbarArrive : Reg → Reg → Reg → Instr), .cbarArrivewait],
        (t = 0 → exec (f rb ra rd) s = .next (s.takeTrap k { code := cILLEGAL_OP, pc := c.pc })) ∧
        (t ≠ 0 → b.target ≠ 0 → b.target ≠ t → exec (f rb ra rd) s = .next (s.takeTrap k
          { code := cBARRIER_MISMATCH, detail := fields [(0, b.target), (16, t)], pc := c.pc }))) ∧
    (s.tileReady k [ra.toNat, rb.toNat] rd.toNat → ∀ j ph, c.barWait = some (j, ph) →
      let d := (((s.cluster (corePos k)).bar j).phase + 2 ^ 32 - ph % 2 ^ 32) % 2 ^ 32
      (1 ≤ d → d < 2 ^ 31 → exec (.cbarArrivewait rb ra rd) s =
        .next (s.setCore k ({ c with barWait := none }.done .a [] rd.toNat (BitVec.ofNat 64 ph) 0 4))) ∧
      (d = 0 ∨ 2 ^ 31 ≤ d → exec (.cbarArrivewait rb ra rd) s = .next (s.setCore k { c with blocked := some .barrier }))) ∧
    (s.tileReady k [ra.toNat, rb.toNat] 0 →
      let d := (b.phase + 2 ^ 32 - (s.reg rb.toNat).toNat % 2 ^ 32) % 2 ^ 32
      (1 ≤ d → d < 2 ^ 31 → exec (.cbarWait rb ra) s = .next (s.setCore k (c.retired (c.pc + 4)))) ∧
      (d = 0 ∨ 2 ^ 31 ≤ d → exec (.cbarWait rb ra) s = .next (s.setCore k { c with blocked := some .barrier })))

/-- R19, R135, R136: DONE ends the activation and the entry is FILLING again, its counts and chunk bits cleared, the words
of its buffers empty and every other word's bit as it was; DONE.REPOST leaves it READY, its arrival state as it was. -/
def Obligations.DoneResults : Prop :=
  ∀ (s : State) (k ch : Nat), s.cur = .tile k → (s.core k).ch = some ch → s.quiet k = true → (s.core k).pair = .alone →
    (∀ i, i < 6 → ¬(bit (s.core k).fcsr (8 + i) = true ∧ bit (s.core k).fcsr (16 + i) = true)) →
    (s.cluster (corePos k)).traceOn = false →
    (∀ p ∈ [(Instr.done, 4), (.doneQ, 2)], (∀ vc, s.inq (corePos k) vc = []) → ∃ u : State, exec p.1 s = .next u ∧ (u.core k).ch = none ∧
      ((u.core k).hand ch).life = .filling ∧ ((u.core k).hand ch).counts = [0, 0, 0, 0] ∧
      ((u.core k).hand ch).chunks = [[], [], [], []] ∧ ((u.core k).hand ch).fill = [[], [], [], []] ∧
      (let h := (s.core k).hand ch
       let within (b w : Nat) : Prop := bufHome k (h.buf b) / 8 ≤ w ∧ w < bufHome k (h.buf b) / 8 + bufCap (h.buf b) / 8
       ∀ w, ((∃ b, b < h.nbuf ∧ within b w) → u.memIsEmpty (8 * w) = true) ∧
         ((∀ b, b < h.nbuf → ¬within b w) → u.memIsEmpty (8 * w) = s.memIsEmpty (8 * w))) ∧
      (u.core k).instret = (s.core k).instret + 1 ∧ (u.core k).pc = (s.core k).pc + BitVec.ofNat 64 p.2 ∧ u.mem = s.mem) ∧
    (∃ u : State, exec .doneRepost s = .next u ∧ (u.core k).ch = none ∧ ((u.core k).hand ch).life = .ready ∧
      ((u.core k).hand ch).counts = ((s.core k).hand ch).counts ∧ ((u.core k).hand ch).arrival = ((s.core k).hand ch).arrival ∧
      ((u.core k).hand ch).chunks = ((s.core k).hand ch).chunks ∧ ((u.core k).hand ch).fill = ((s.core k).hand ch).fill ∧
      (u.core k).instret = (s.core k).instret + 1 ∧ u.mem = s.mem ∧ u.memEmpty = s.memEmpty)

/-! ### Arrival state -/

/-- R234-R236: ARRADD adds to a count that saturates, ARRRESET returns and clears it with the buffer's chunk bits, the
other buffers and every full bit as they were, ARRWAIT goes on at the count, WAITMASK once every chunk of the mask is there,
TESTMASK says which are. -/
def Sys2Proof.Parts.ArrivalResults : Prop :=
  ∀ (s : State) (k : Nat) (rb ra rd : Reg),
    let c := s.core k
    let sel := s.reg ra.toNat
    let x := s.reg rb.toNat
    let ch := sel.toNat % 32
    let b := sel.toNat / 32 % 4
    let h := c.hand ch
    let n := nth 0 h.counts b
    h.valid = true → b < h.nbuf → h.counts.length = 4 →
    (s.tileReady k [ra.toNat, rb.toNat] 0 → s.noneOut k → ∃ u : State, exec (.arradd rb ra) s = .next u ∧
      nth 0 ((u.core k).hand ch).counts b = min (n + x.toNat % 2 ^ 21) 2097151 ∧ (u.core k).pc = c.pc + 4 ∧ u.mem = s.mem) ∧
    (s.tileReady k [ra.toNat, rb.toNat] 0 →
      (x.toNat % 2 ^ 21 ≤ n → exec (.arrwait rb ra) s = .next (s.setCore k (c.retired (c.pc + 4)))) ∧
      (n < x.toNat % 2 ^ 21 → exec (.arrwait rb ra) s = .next (s.setCore k { c with blocked := some .arrival }))) ∧
    (s.tileReady k [ra.toNat] rd.toNat → ∃ u : State, exec (.arrreset ra rd) s = .next u ∧
      nth 0 ((u.core k).hand ch).counts b = 0 ∧ nth [] ((u.core k).hand ch).chunks b = [] ∧
      nth [] ((u.core k).hand ch).fill b = [] ∧ (rd ≠ 0 → (u.core k).reg.word rd.toNat = BitVec.ofNat 64 n) ∧
      (∀ j, j ≠ b → nth 0 ((u.core k).hand ch).counts j = nth 0 h.counts j ∧
        nth [] ((u.core k).hand ch).chunks j = nth [] h.chunks j ∧ nth [] ((u.core k).hand ch).fill j = nth [] h.fill j) ∧
      ((u.core k).hand ch).life = h.life ∧ u.memEmpty = s.memEmpty ∧ (u.core k).pc = c.pc + 4 ∧ u.mem = s.mem) ∧
    (∀ m, h.maskSet b (sel.toNat / 128 % 2048) x = some m →
      (s.tileReady k [ra.toNat, rb.toNat] 0 → (m = x.toNat →
        exec (.waitmask rb ra) s = .next (s.setCore k (c.retired (c.pc + 4)))) ∧
        (m ≠ x.toNat → exec (.waitmask rb ra) s = .next (s.setCore k { c with blocked := some .arrival }))) ∧
      (s.tileReady k [ra.toNat, rb.toNat] rd.toNat →
        exec (.testmask rb ra rd) s = .next (s.setCore k (c.done .a [] rd.toNat (BitVec.ofNat 64 m) 0 4)))) ∧
    (h.maskSet b (sel.toNat / 128 % 2048) x = none ↔
      ∃ i, i < 64 ∧ bit x i = true ∧ bufCap (h.buf b) / 512 ≤ sel.toNat / 128 % 2048 + i) ∧
    (∀ m, h.maskSet b (sel.toNat / 128 % 2048) x = some m → ∀ i, i < 64 →
      (m / 2 ^ i % 2 = 1 ↔ bit x i = true ∧ Tab.get false (nth [] h.chunks b) (sel.toNat / 128 % 2048 + i) = true))

/-- R235, R236: an arrival instruction whose entry is not valid, or has no such buffer, raises BAD_DEPOSIT, and so does
WAITMASK or TESTMASK of a chunk beyond the buffer. -/
def Sys2Proof.Parts.DepositTraps : Prop :=
  ∀ (s : State) (k : Nat) (rb ra rd : Reg),
    let c := s.core k
    let sel := s.reg ra.toNat
    let b := sel.toNat / 32 % 4
    let h := c.hand (sel.toNat % 32)
    let trapped : State := (s.setCore k c).takeTrap k { code := cBAD_DEPOSIT, pc := c.pc }
    c.pair = .alone → s.tileReady k [ra.toNat, rb.toNat] rd.toNat →
    (h.valid = false ∨ h.nbuf ≤ b → exec (.arrreset ra rd) s = .next trapped ∧
      ∀ i ∈ [Instr.arradd rb ra, .arrwait rb ra, .waitmask rb ra, .testmask rb ra rd], exec i s = .next trapped) ∧
    (h.valid = true → b < h.nbuf → h.maskSet b (sel.toNat / 128 % 2048) (s.reg rb.toNat) = none →
      ∀ i ∈ [Instr.waitmask rb ra, .testmask rb ra rd], exec i s = .next trapped)

/-- R234-R236: the arrival instructions. -/
def Obligations.ArrivalResults : Prop := Parts.ArrivalResults ∧ Parts.DepositTraps

/-! ### The copy engine, maps and formats -/

/-- R243, R244: CPYGO acts on its channel by the channel's state and owner, and returns the code; CPYSTAT and CPYWAIT return
the status word. -/
def Obligations.CopyResults : Prop :=
  ∀ (s : State) (k : Nat) (rb ra rd : Reg),
    let c := s.core k
    let a := s.reg ra.toNat
    let r := s.own (corePos k) a
    let h := (s.reg rb.toNat).toNat % 4
    let x := (s.cluster (corePos k)).chan h
    (s.tileReady k [ra.toNat, rb.toNat] rd.toNat → s.noneOut k → a = 0 ∨ a.toNat % 64 = 0 ∧ recordSpot r = true →
      ∃ (u : State) (v : Word), exec (.cpygo rb ra rd) s = .next u ∧ u.core k = c.done .d [ra.toNat, rb.toNat] rd.toNat v 0 4 ∧ u.mem = s.mem ∧
        (∀ j, j ≠ h → (u.cluster (corePos k)).chan j = (s.cluster (corePos k)).chan j) ∧
        let y := (u.cluster (corePos k)).chan h
        (x.st = .idle → a ≠ 0 → v = 0 ∧ y.st = .active ∧ y.addr = r ∧ y.owner = coreNo k ∧ y.recs = 0) ∧
        (x.st = .idle → a = 0 → v = 2 ∧ y = x) ∧
        (x.st = .active ∨ x.st ≠ .idle ∧ x.owner ≠ coreNo k → v = 1 ∧ y = x) ∧
        (x.st = .parked → x.owner = coreNo k → v = 0 ∧ y.st = .active ∧ y.addr = (if a = 0 then x.addr else r) ∧
          y.owner = x.owner ∧ y.recs = x.recs ∧ y.restart = false) ∧
        (x.st = .fault → x.owner = coreNo k → v = 0 ∧ y.st = .active ∧ y.addr = (if a = 0 then x.addr else r) ∧
          y.owner = x.owner ∧ y.cause = 0 ∧ y.restart = decide (a = 0) ∧ y.prog = (if a = 0 then x.prog else 0) ∧
          (a = 0 → y.inNotify = x.inNotify))) ∧
    (s.tileReady k [ra.toNat, rb.toNat] 0 → c.pair = .alone → a ≠ 0 →
      let traps (cause : Cause) : State := (s.setCore k (c.readIn .d [ra.toNat, rb.toNat])).takeTrap k { cause with pc := c.pc }
      (a.toNat % 64 ≠ 0 → exec (.cpygo rb ra rd) s = .next (traps { code := cMISALIGNED, addr := a })) ∧
      (a.toNat % 64 = 0 → recordSpot r = false → exec (.cpygo rb ra rd) s = .next (traps { code := cBAD_ADDRESS, addr := a }))) ∧
    (s.tileReady k [rb.toNat] rd.toNat →
      exec (.cpystat rb rd) s = .next (s.setCore k (c.done .d [rb.toNat] rd.toNat x.status 0 4)) ∧
      (x.st ≠ .active → exec (.cpywait rb rd) s = .next (s.setCore k
        ({ c with pidx := Tab.put c.pidx 8 (Tab.get 0 c.pidx 8 &&& ~~~(1#64 <<< 32)) }.done .d [rb.toNat] rd.toNat x.status 0 4))) ∧
      (x.st = .active → exec (.cpywait rb rd) s =
        .next (s.setCore k { c.readIn .d [rb.toNat] with blocked := some .copy })))

/-- R249, R218, R98: TMSET reads a descriptor of 64 bytes, TMGET buffers eight words of one, FMTSET takes the low 32
bits of its source. -/
def Sys2Proof.Parts.DescriptorResults : Prop :=
  ∀ (s : State) (k : Nat) (ra : Reg) (tm : BitVec 4) (fd : BitVec 3) (t : Target) (h : Nat),
    let c := s.core k
    let a := s.reg ra.toNat
    s.tileReady k [ra.toNat] 0 →
    (t.home k = some h → a.toNat % 8 = 0 → s.noneOut k → s.quietReads (corePos k) → s.badAt h 64 = false →
      s.operand (corePos k) a 64 .localLoad = some t → exec (.tmset ra tm) s = .next (s.setCore k
        ({ c.readIn .d [ra.toNat] with tms := Tab.put c.tms tm.toNat (BitVec.ofNat 512 (s.readMem h 64)) }.retired (c.pc + 4)))) ∧
    (t.home k = some h → a.toNat % 8 = 0 → c.storeRoom 8 → s.operand (corePos k) a 64 .localStore = some t →
      ∃ es, exec (.tmget ra tm) s =
      .next (s.setCore k (((c.readIn .d [ra.toNat]).buffers es).retired (c.pc + 4))) ∧
      (es.map fun e => (e.homeAt, e.mask, e.data)) = (List.range 8).map fun i =>
        (some (h + 8 * i), BitVec.allOnes 64, BitVec.ofNat 64 ((Tab.get 0 c.tms tm.toNat).toNat / 2 ^ (64 * i) % 2 ^ 64))) ∧
    exec (.fmtset ra fd) s = .next (s.setCore k
      ({ c with fmts := Tab.put c.fmts fd.toNat ((s.reg ra.toNat).setWidth 32) }.retired (c.pc + 4)))

/-- R253: HBSET exchanges the pattern register of an edge, to no pattern or to one the partition is granted. -/
def Sys2Proof.Parts.PatternResults : Prop :=
  ∀ (s : State) (k : Nat) (rb ra rd : Reg),
    let c := s.core k
    let cl := s.cluster (corePos k)
    let w := s.reg rb.toNat
    let edge := (s.reg ra.toNat).toNat % 2
    s.tileReady k [ra.toNat, rb.toNat] rd.toNat → bit w 0 = false ∨ (bit cl.hbGrant edge = true ∧
        bits w 5 4 ≤ bits w 1 4 ∧ bits w 32 16 ≠ 0 ∧ patDoff w % 64 = 0 ∧
        patDoff w + patSlots w * patStride w ≤ (if bit w 11 then 2 ^ 20 else 2 ^ 16) ∧
        (bit w 11 = true ∨ 0x800 ≤ patDoff w)) →
    exec (.hbset rb ra rd) s = .next ((s.setCluster (corePos k) { cl with hb := Tab.put cl.hb edge w }).setCore k
      (c.done .a [] rd.toNat (Tab.get 0 cl.hb edge) 0 4))

/-- R218, R249, R253: descriptors, formats and patterns. -/
def Obligations.DescriptorResults : Prop := Parts.DescriptorResults ∧ Parts.PatternResults

/-! ### Engine operations -/

/-- What a vector-register operation is to the bay (07: R143; 14: R284): its engine, the lane types it checks, vector
registers and scalars read, vector registers and scalars written. -/
structure VOp where
  i : Instr
  eng : Nat
  tys : List Nat
  vr : List Nat
  sr : List Nat
  vw : List Nat
  sw : List Nat

/-- R286-R299, R304-R307: the register operations of VX, SF, SM, GX, ZD and RD whose operands alone decide their
issue. -/
def Sys2Proof.vectorOps (cond op3 ty : BitVec 3) (vb va vd : BitVec 5) : List VOp :=
  let t := ty.toNat
  let a := va.toNat
  let b := vb.toNat
  let d := vd.toNat
  [⟨.vadd ty vb va vd, 2, [t], [a, b], [], [d], []⟩, ⟨.vsub ty vb va vd, 2, [t], [a, b], [], [d], []⟩,
   ⟨.vmul ty vb va vd, 2, [t], [a, b], [], [d], []⟩, ⟨.vfma ty vb va vd, 2, [t], [a, b, d], [], [d], []⟩,
   ⟨.vmin ty vb va vd, 2, [t], [a, b], [], [d], []⟩, ⟨.vmax ty vb va vd, 2, [t], [a, b], [], [d], []⟩,
   ⟨.vabs ty va vd, 2, [t], [a], [], [d], []⟩, ⟨.vneg ty va vd, 2, [t], [a], [], [d], []⟩,
   ⟨.vand vb va vd, 2, [], [a, b], [], [d], []⟩, ⟨.vor vb va vd, 2, [], [a, b], [], [d], []⟩,
   ⟨.vxor vb va vd, 2, [], [a, b], [], [d], []⟩, ⟨.vandn vb va vd, 2, [], [a, b], [], [d], []⟩,
   ⟨.vshl ty vb va vd, 2, [t], [a, b], [], [d], []⟩, ⟨.vshr ty vb va vd, 2, [t], [a, b], [], [d], []⟩,
   ⟨.vsar ty vb va vd, 2, [t], [a, b], [], [d], []⟩, ⟨.vnot va vd, 2, [], [a], [], [d], []⟩,
   ⟨.vcmp cond ty vb va vd, 2, [t], [a, b], [], [d], []⟩, ⟨.vsel ty vb va vd, 2, [t], [a, b, d], [], [d], []⟩] ++
  [⟨.vbcast ty va vd, 2, [t], [a], [], [d], []⟩, ⟨.vslideup ty vb va vd, 2, [t], [a], [b], [d], []⟩,
   ⟨.vslidedn ty vb va vd, 2, [t], [a], [b], [d], []⟩, ⟨.vzip ty vb va vd, 2, [t], [a, b], [], [d], []⟩,
   ⟨.vunzip ty va vd, 2, [t], [a], [], [d], []⟩, ⟨.viota ty vd, 2, [t], [], [], [d], []⟩,
   ⟨.vred op3 ty va vd, 2, [t], [a], [], [], [d]⟩, ⟨.vmovls ty vb va vd, 2, [t], [a], [b], [], [d]⟩,
   ⟨.ldfe va vd, 2, [], [], [a], [d], []⟩] ++
  [⟨.exp ty va vd, 3, [t], [a], [], [d], []⟩, ⟨.exp2 ty va vd, 3, [t], [a], [], [d], []⟩,
   ⟨.log2 ty va vd, 3, [t], [a], [], [d], []⟩, ⟨.rsqrt ty va vd, 3, [t], [a], [], [d], []⟩,
   ⟨.rcp ty va vd, 3, [t], [a], [], [d], []⟩, ⟨.tanh ty va vd, 3, [t], [a], [], [d], []⟩,
   ⟨.sigmoid ty va vd, 3, [t], [a], [], [d], []⟩, ⟨.rowmaxsub ty va vd, 3, [t], [a], [], [d], []⟩] ++
  [⟨.smsort ty va vd, 4, [], [a], [], [d, d + 1], []⟩, ⟨.gxstat vd, 5, [], [], [], [], [d]⟩,
   ⟨.zdgo vb, 6, [], [], [b, b + 1, b + 2], [], []⟩, ⟨.zdwait vd, 6, [], [], [], [], [d]⟩,
   ⟨.rdjoin vb, 7, [], [], [b, b + 1], [], []⟩, ⟨.rdsum ty vb va, 7, [], [a], [b], [], []⟩,
   ⟨.rdmax ty vb va, 7, [], [a], [b], [], []⟩]

/-- The operations that also ask for something of the state: lanes of at least 8 bits, the ratio of a conversion, the
map of a tensor access, the group of a sort or merge. -/
def Sys2Proof.checkedOps (c : Core) (src part ty : BitVec 3) (mode : BitVec 2) (tm : BitVec 4) (vb va vd : BitVec 5) : List (VOp × Prop) :=
  let t := ty.toNat
  let a := va.toNat
  let b := vb.toNat
  let d := vd.toNat
  let m : TMap := Tab.get 0 c.tms tm.toNat
  let wide : Prop := ∀ f, laneFmt c t = some f → 8 ≤ laneW f
  let fits (st : Bool) : Prop := ∀ f, laneFmt c t = some f → tmLaneOk m (laneW f) st = true
  let box : List Nat := if vb = 0 then [] else [b]
  [(⟨.vpermx ty vb va vd, 2, [t], [a, b], [], [d], []⟩, wide),
   (⟨.ldstr ty vb va vd, 2, [t], [], [a, b], [d], []⟩, wide), (⟨.ststr ty vb va vd, 2, [t], [d], [a, b], [], []⟩, wide),
   (⟨.ldgi ty vb va vd, 2, [t], [a], [b], [d], []⟩, wide), (⟨.stsi ty vb va vd, 2, [t], [a, d], [b], [], []⟩, wide),
   (⟨.ldtm ty vb tm vd, 2, [t], [], box, [d], []⟩, fits false), (⟨.sttm ty vb tm vd, 2, [t], [d], box, [], []⟩, fits true),
   (⟨.vcvt ty src part mode va vd, 2, [src.toNat, t], [a], [], [d], []⟩,
     ∀ f g, laneFmt c src.toNat = some f → laneFmt c t = some g → 2048 / laneW g ≤ 2048 / laneW f ∧
       convOk (2048 / laneW f) (2048 / laneW g) part.toNat = true),
   (⟨.vcvt ty src part mode va vd, 2, [src.toNat, t], [a, d], [], [d], []⟩,
     ∀ f g, laneFmt c src.toNat = some f → laneFmt c t = some g → 2048 / laneW f < 2048 / laneW g ∧
       convOk (2048 / laneW f) (2048 / laneW g) part.toNat = true),
   (⟨.smpath ty vb vd, 4, [], [], [b, b + 1, b + 2, b + 3], [], [d]⟩, groupOk vb = true),
   (⟨.smerge ty vb, 4, [], [], [b, b + 1, b + 2, b + 3], [], []⟩, groupOk vb = true),
   (⟨.smkv ty vb, 4, [], [], [b, b + 1, b + 2, b + 3], [], []⟩, groupOk vb = true)]

/-- R143, step 4, R93 and R94: the operation joins the core's dispatch queue with what it needs, its destination words
become empty and owed, and the instruction retires. -/
def Sys2Proof.Machine.State.issues (s : State) (k : Nat) (i : Instr) (engs : List Nat) (reads writes : List (Nat × Nat)) : Prop :=
  let c := s.core k
  ∃ (u : State) (op : EngOp), exec i s = .next u ∧ (u.core k).dispq = c.dispq ++ [op] ∧ op.instr = i ∧ op.engs = engs ∧ op.pc = c.pc ∧
    op.rm = s.rm ∧ op.vbase = c.vbase.toNat ∧ op.abase = c.abase.toNat ∧ op.reads = reads ∧ op.writes = writes ∧
    (∀ w, (u.core k).reg.isEmpty w = (decide (w ≠ 0) && inRanges writes w || c.reg.isEmpty w)) ∧
    (u.core k).reg.words = c.reg.words ∧ (u.core k).pc = c.pc + 4 ∧ (u.core k).instret = c.instret + 1 ∧
    u.mem = s.mem ∧ u.net = s.net ∧ u.clusters = s.clusters ∧ ∀ j, j ≠ k → u.core j = s.core j

/-- The bay's side of an issue (07: R143): the leases are held, the queue has room, no stopped operation waits to be
resumed, the destination words may be written, and those that are also read are full. -/
def Sys2Proof.Machine.State.bayReady (s : State) (k : Nat) (engs : List Nat) (reads writes : List (Nat × Nat)) : Prop :=
  let c := s.core k
  s.cur = .tile k ∧ c.leased engs ∧ c.canDispatch = true ∧ (∀ e ∈ engs, pidxValid (Tab.get 0 c.pidx e) = false) ∧
  (∀ w ∈ wordsIn writes, s.writeWaits k w = false) ∧
  (∀ w ∈ wordsIn writes, inRanges reads w = true → c.reg.isEmpty w = false)

def Obligations.VectorIssue : Prop :=
  ∀ (s : State) (k : Nat) (cond op3 src part ty : BitVec 3) (mode : BitVec 2) (tm : BitVec 4) (vb va vd : BitVec 5),
    let c := s.core k
    let v := vWords c.vbase.toNat
    ∀ o : VOp, (o ∈ vectorOps cond op3 ty vb va vd ∨ ∃ q, q ∧ (o, q) ∈ checkedOps c src part ty mode tm vb va vd) →
      o.i.wf = true → (∀ t ∈ o.tys, (laneFmt c t).isSome = true) →
      let rs := o.vr.map v ++ o.sr.map fun r => (r, 1)
      let ws := o.vw.map v ++ o.sw.map fun r => (r, 1)
      s.bayReady k [o.eng] rs ws → s.issues k o.i [o.eng] rs ws

/-- R290: VMOVSL owes only the word that holds its lane. -/
def Sys2Proof.Parts.LaneIssue : Prop :=
  ∀ (s : State) (k : Nat) (ty : BitVec 3) (vb va vd : BitVec 5) (f : Fmt),
    let c := s.core k
    let w := laneW f
    let lane := (s.reg vb.toNat).toNat % (2048 / w)
    let rs := [(va.toNat, 1)]
    let ws := [(vbyte c.vbase.toNat vd.toNat / 8 + lane * w / 64, 1)]
    laneFmt c ty.toNat = some f → c.reg.isEmpty vb.toNat = false → s.bayReady k [2] rs ws →
    s.issues k (.vmovsl ty vb va vd) [2] rs ws

/-- R142: the engines that an engine operation needs, in the order in which step 2 of R143 takes them; none for another
instruction. -/
def Sys2Proof.enginesOf : Instr → List Nat
  | .mldw _ _ _ wb => [if 2 ≤ wb.toNat then 1 else 0]
  | .mmul .. | .mstore .. => [0]
  | .mream .. | .mrmrg .. | .mdrain .. => [1]
  | .mclr tgt => if tgt.toNat < 4 then [0] else if tgt.toNat < 6 then [1] else [0, 1]
  | .vadd .. | .vsub .. | .vmul .. | .vfma .. | .vmin .. | .vmax .. | .vabs .. | .vneg .. | .vand .. | .vor .. | .vxor ..
  | .vandn .. | .vshl .. | .vshr .. | .vsar .. | .vnot .. | .vcmp .. | .vsel .. | .vpermx .. | .vbcast .. | .vslideup ..
  | .vslidedn .. | .vzip .. | .vunzip .. | .viota .. | .vcvt .. | .vred .. | .ldtm .. | .sttm .. | .ldstr .. | .ststr ..
  | .ldgi .. | .stsi .. | .ldfe .. | .vmovls .. | .vmovsl .. => [2]
  | .exp .. | .exp2 .. | .log2 .. | .rsqrt .. | .rcp .. | .tanh .. | .sigmoid .. | .rowmaxsub .. => [3]
  | .smpath .. | .smerge .. | .smkv .. | .smsort .. => [4]
  | .gxgather .. | .gxscat .. | .gxbins .. | .gxstat .. => [5]
  | .zdgo .. | .zdwait .. => [6]
  | .rdsum .. | .rdmax .. | .rdjoin .. => [7]
  | _ => []

/-- R142, R143, R154: without the lease of an engine that it needs, an engine operation traps, whatever its operands hold:
LEASE_LOST after an eviction, else ENGINE_NOT_HELD; it waits while the lease is queued or being given back. -/
def Sys2Proof.Parts.EngineNotHeld : Prop :=
  ∀ (s : State) (k e : Nat) (i : Instr) (pre post : List Nat), i.wf = true → enginesOf i = pre ++ e :: post →
    (s.core k).leased pre → s.cur = .tile k → (s.core k).pair = .alone →
    let l : Lease := Tab.get {} (s.core k).leases e
    (l.st = .none → exec i s = .next (s.takeTrap k { code := cENGINE_NOT_HELD, unit := e, pc := (s.core k).pc })) ∧
    (l.st = .lost → exec i s =
      .next (s.takeTrap k { code := cLEASE_LOST, unit := e, detail := l.restart, pc := (s.core k).pc })) ∧
    (l.st = .queued ∨ (l.st = .held ∨ l.st = .grace) ∧ l.yielding = true →
      exec i s = .next (s.setCore k { s.core k with blocked := some (.lease e) }))

/-- R262: the pair of a matrix operation as it issues: with r = 0 no table and a box start of zero, else s(r) and s(r+1),
which are full. -/
def Sys2Proof.Machine.State.pairIs (s : State) (k r : Nat) (a box : Word) : Prop :=
  (r = 0 → a = 0 ∧ box = 0) ∧
  (r ≠ 0 → (s.core k).reg.isEmpty r = false ∧ (s.core k).reg.isEmpty (r + 1) = false ∧ a = s.reg r ∧ box = s.reg (r + 1))

/-- R263: the scales that an instruction reads at issue from a table of `n` entries: 1.0 each where there is none, else the low
12 bits of the 16-bit entries in the own TCM or scratchpad. -/
def Sys2Proof.Machine.State.scalesAre (s : State) (k : Nat) (a : Word) (n : Nat) (scales : List Nat) : Prop :=
  (a = 0 → scales = List.replicate n 0x7F0) ∧
  (a ≠ 0 → a.toNat % 8 = 0 ∧ ownRange (s.own (corePos k) a) (2 * n) = true ∧ s.noneOut k ∧ s.quietReads (corePos k) ∧
    s.badAt (ownHome k (s.own (corePos k) a)) (2 * n) = false ∧
    scales = (List.range n).map fun i => s.readMem (ownHome k (s.own (corePos k) a) + 2 * i) 2 % 4096)

/-- R276, R277: an absmax address that the checks of the issue let pass. -/
def Sys2Proof.Machine.State.absmaxIs (s : State) (k : Nat) (a : Word) : Prop :=
  a = 0 ∨ a.toNat % 4 = 0 ∧ (s.operand (corePos k) a 4 .atomic).isSome = true

/-- An issue (State.issues) whose operation carries box starts, an absmax address, scales. -/
def Sys2Proof.Machine.State.issuesWith (s : State) (k : Nat) (i : Instr) (engs : List Nat) (reads writes : List (Nat × Nat))
    (scal : List Word) (scales : List Nat) : Prop :=
  s.issues k i engs reads writes ∧
  ∃ (u : State) (pre : List EngOp) (op : EngOp), exec i s = .next u ∧ (u.core k).dispq = pre ++ [op] ∧ op.scal = scal ∧ op.tabl = scales

/-- R261-R264, R268, R269, R274, R277: the matrix operations, with a table and a box start in the scalar registers of their pair
or with none, in formats that the code or its register gives, through a map that fits. An MSTORE reads the words of the
elements that lie inside the tensor, and its pair may name an absmax word. -/
def Sys2Proof.Parts.MatrixIssue : Prop :=
  ∀ (s : State) (k : Nat) (pr : BitVec 6) (fmt : BitVec 3) (tm : BitVec 4) (bank q cb set : BitVec 1) (acc : BitVec 2) (f : Fmt)
    (a box : Word) (sc : List Nat),
    let c := s.core k
    let code := fmt.toNat
    let kk := classK (matClass code)
    let t : TMap := Tab.get 0 c.tms tm.toNat
    let rows := tileWords c.abase.toNat acc.toNat t.nr
    let wb (e : Nat) : BitVec 2 := BitVec.ofNat 2 (2 * e + bank.toNat)
    pr.toNat % 2 = 0 → s.pairIs k pr.toNat a box → matFmt code (c.fmtReg code) = some f →
    (1 ≤ code → t.fits (pitch f.w) kk false = true → s.scalesAre k a (kk / 2) sc → s.bayReady k [0] [] [] →
      s.issuesWith k (.mldw pr fmt tm (wb 0)) [0] [] [] [box] sc) ∧
    (t.fits (pitch f.w) 512 false = true → 3 ≤ code → reamFmt (c.fmtReg code) = true → s.scalesAre k a 16 sc →
      s.bayReady k [1] [] [] → s.issuesWith k (.mldw pr fmt tm (wb 1)) [1] [] [] [box] sc) ∧
    (1 ≤ code → t.fits (pitch f.w) kk true = true → s.scalesAre k a (kk / 2) sc → (c.bank bank.toNat).loaded = true →
      (c.bank bank.toNat).cls = matClass code →
      let rs := if set = 1 then [] else [rows]
      s.bayReady k [0] rs [rows] → s.issuesWith k (.mmul pr set fmt tm bank acc) [0] rs [rows] [box] sc) ∧
    (t.fits (pitch f.w) 16 false = true → s.absmaxIs k a →
      let read := t.storeReads (boxOf box ++ [0]) (abyte c.abase.toNat acc.toNat)
      s.bayReady k [0] read [] → s.issuesWith k (.mstore pr fmt tm acc) [0] read [] [box, a] []) ∧
    (t.fits 4 512 true = true → 3 ≤ code → reamFmt (c.fmtReg code) = true → s.scalesAre k a 16 sc →
      mreamCheck (c.bank (2 + q.toNat)) (c.counter cb.toNat) (c.fmtReg code) sc t.nk = none →
      s.bayReady k [1] [] [] → s.issuesWith k (.mream pr fmt tm q cb) [1] [] [] [box] sc)

/-- R275, R276, R279: the operations on banks and tiles alone; an MDRAIN may name an absmax word. -/
def Sys2Proof.Parts.BankIssue : Prop :=
  ∀ (s : State) (k : Nat) (src dst cb set : BitVec 1) (acc : BitVec 2) (tgt : BitVec 3) (ra : BitVec 6),
    let c := s.core k
    let tile (n rows : Nat) := tileWords c.abase.toNat n rows
    let rs := if set = 1 then [] else [tile acc.toNat 16]
    let engs := if tgt.toNat < 4 then [0] else if tgt.toNat < 6 then [1] else [0, 1]
    let ws := if tgt.toNat < 4 then [tile tgt.toNat 16] else if tgt.toNat < 6 then [] else [tile 0 64]
    (src ≠ dst → mergeCheck (c.counter dst.toNat) (c.counter src.toNat) = none → s.bayReady k [1] [] [] →
      s.issues k (.mrmrg src dst) [1] [] []) ∧
    (c.reg.isEmpty ra.toNat = false → s.absmaxIs k (s.reg ra.toNat) → s.bayReady k [1] rs [tile acc.toNat 16] →
      s.issuesWith k (.mdrain ra set acc cb) [1] rs [tile acc.toNat 16] [s.reg ra.toNat] []) ∧
    (tgt.toNat < 7 → s.bayReady k engs [] ws → s.issues k (.mclr tgt) engs [] ws)

/-- R280: MSTAT field by field: what the core knows of the banks of an engine that it holds; the fields of one that it does
not hold, a format code of a bank that is not loaded, and the reserved bits read 0. -/
def Sys2Proof.Parts.MatrixStatus : Prop :=
  ∀ (s : State) (k : Nat) (rd : Reg), s.tileReady k [] rd.toNat →
    let c := s.core k
    let held (e : Nat) : Bool := c.leaseHeld e
    let loaded (e b : Nat) : Nat := if held e && (c.bank b).loaded then 1 else 0
    let code (e b : Nat) : Nat := if held e && (c.bank b).loaded then (c.bank b).code % 8 else 0
    let bound (b : Nat) : Nat := if held 1 && (c.counter b).bound then 1 else 0
    let depth (b : Nat) : Nat := if held 1 then (c.counter b).depth % 65536 else 0
    ∃ v : Word, exec (.mstat rd) s = .next (s.setCore k (c.done .a [] rd.toNat v 0 4)) ∧
      ∀ p ∈ [(0, 1, if held 0 then 1 else 0), (1, 1, if held 1 then 1 else 0), (2, 6, 0),
          (8, 1, loaded 0 0), (9, 3, code 0 0), (12, 1, loaded 0 1), (13, 3, code 0 1),
          (16, 1, loaded 1 2), (17, 3, code 1 2), (20, 1, loaded 1 3), (21, 3, code 1 3), (24, 4, 0),
          (28, 1, bound 0), (29, 1, bound 1), (30, 2, 0), (32, 16, depth 0), (48, 16, depth 1)],
        v.toNat / 2 ^ p.1 % 2 ^ p.2.1 = p.2.2

/-- R261-R280: issue of the matrix operations, and MSTAT. -/
def Obligations.MatrixIssue : Prop := Parts.MatrixIssue ∧ Parts.BankIssue ∧ Parts.MatrixStatus

/-- R254-R258: gather, scatter and bins of the index types 1 (i16) and 2 (i32), with their control word and packed rows;
another index type raises ILLEGAL_OP, with a lease or without (R284; that this check comes before the leases is the
model's reading, log 132). The packed side may lie in either window of the own scratchpad (R191). That a ROWB/8 outside 1 to 8,192
is no ground for a refusal, and the order of the lease, the group and the sources, are the model's readings too (logs 68
and 69). -/
def Sys2Proof.Parts.GatherIssue : Prop :=
  ∀ (s : State) (k : Nat) (ty : BitVec 3) (vb va vd : BitVec 5),
    let c := s.core k
    let p := s.reg vb.toNat
    let ctl := s.reg (vb.toNat + 2)
    let n := bits ctl 0 16
    let rs := [vWords c.vbase.toNat va.toNat, (vb.toNat, 3)]
    let ws := [(vbyte c.vbase.toNat vd.toNat / 8, (n + 1) / 2)]
    (ty = 1 ∨ ty = 2 → groupOk vb = true → c.reg.isEmpty vb.toNat = false → c.reg.isEmpty (vb.toNat + 2) = false →
      1 ≤ n → bits ctl 40 24 = 0 → p.toNat % 8 = 0 → ownRange (s.own (corePos k) p) (n * (8 * bits ctl 16 16)) = true →
      (n ≤ (if ty = 1 then 128 else 64) → s.bayReady k [5] rs [] →
        s.issues k (.gxgather ty vb va) [5] rs [] ∧ s.issues k (.gxscat ty vb va) [5] rs []) ∧
      (n ≤ 64 → s.bayReady k [5] rs ws → s.issues k (.gxbins ty vb va vd) [5] rs ws)) ∧
    (ty ≠ 1 → ty ≠ 2 → s.cur = .tile k → c.pair = .alone →
      ∀ i ∈ [Instr.gxgather ty vb va, .gxscat ty vb va, .gxbins ty vb va vd],
        exec i s = .next (s.takeTrap k { code := cILLEGAL_OP, pc := c.pc }))

/-- R254-R258, R290: issues that a scalar register decides. -/
def Obligations.AddressedIssue : Prop := Parts.LaneIssue ∧ Parts.GatherIssue

/-! ### Leases -/

/-- R146, R152-R154: what LEASE, LYIELD, LFREE and LSTAT do by the core's state for the engine; a LEASE at an idle bay
begins the wake, and LYIELD or LFREE of a held lease wait for the core's operations, then release it: LYIELD where another
request waits for it. An engine that another core has asked for begins its wake at once. What is left of a
grace window is a free value (log 8), and a wake whose request is withdrawn goes on for none (log 25). -/
def Sys2Proof.Parts.LeaseResults : Prop :=
  ∀ (s : State) (k : Nat) (prio : BitVec 2) (eng : BitVec 3) (ra rd : Reg),
    let c := s.core k
    let cl := s.cluster (corePos k)
    let e := eng.toNat
    let l : Lease := Tab.get {} c.leases e
    l.yieldDone = none →
    ((l.st = .held ∨ l.st = .grace) → s.tileReady k [ra.toNat] rd.toNat →
      exec (.lease prio eng ra rd) s = .next (s.setCore k (c.done .d [ra.toNat] rd.toNat l.handle 0 4))) ∧
    ((l.st = .none ∨ l.st = .lost) → s.tileReady k [ra.toNat] rd.toNat → (s.cluster (corePos k)).leaseQ = [] →
      (s.cluster (corePos k)).engs = [] → (s.cluster (corePos k)).demand = none →
      ∃ u : State, exec (.lease prio eng ra rd) s = .next u ∧ (u.core k).pc = c.pc + 4 ∧
        (Tab.get {} (u.core k).leases e : Lease) =
          { st := .queued, prio := prio.toNat, restart := s.reg ra.toNat, rd := rd.toNat } ∧
        (rd ≠ 0 → (u.core k).reg.isEmpty rd.toNat = true) ∧
        (u.cluster (corePos k)).leaseQ = [{ core := coreNo k, eng := e, prio := prio.toNat }] ∧
        ((u.cluster (corePos k)).eng e).power = .waking (some (coreNo k)) prio.toNat false false ∧ u.mem = s.mem) ∧
    ((l.st = .none ∨ l.st = .queued) → s.tileReady k [] rd.toNat →
      exec (.lyield eng rd) s = .next (s.setCore k (c.done .a [] rd.toNat 0 0 4))) ∧
    (l.st = .lost → s.tileReady k [] rd.toNat → exec (.lyield eng rd) s = .next (s.setCore k
      ({ c with leases := Tab.put c.leases e { l with st := .none } }.done .a [] rd.toNat 2 0 4))) ∧
    (s.cur = .tile k → l.st = .none → exec (.lfree eng) s = .next (s.setCore k (c.retired (c.pc + 4)))) ∧
    (s.cur = .tile k → l.st = .lost → exec (.lfree eng) s = .next (s.setCore k
      ({ c with leases := Tab.put c.leases e { l with st := .none } }.retired (c.pc + 4)))) ∧
    (l.st = .held → l.yielding = false → s.waitedFor k e = false → s.tileReady k [] rd.toNat →
      exec (.lyield eng rd) s = .next (s.setCore k (c.done .a [] rd.toNat 0 0 4))) ∧
    (s.opsOn k e ≠ [] →
      let waits := s.setCore k { c with leases := Tab.put c.leases e { l with yielding := true }, blocked := some (.lease e) }
      (l.st = .held ∧ (s.waitedFor k e = true ∨ l.yielding = true) ∨ l.st = .grace → s.tileReady k [] rd.toNat →
        exec (.lyield eng rd) s = .next waits) ∧
      (l.st = .held ∨ l.st = .grace → s.cur = .tile k → exec (.lfree eng) s = .next waits)) ∧
    (∀ x : Engine, cl.engs = [(e, x)] → cl.leaseQ = [] → (∀ d ∈ cl.demand, d.eng = e ∧ d.core = coreNo k) →
      s.opsOn k e = [] →
      let released (u : State) : Prop := (Tab.get {} (u.core k).leases e : Lease) = { l with st := .none, yielding := false } ∧
        ((u.cluster (corePos k)).eng e).power = .warm ∧ (u.cluster (corePos k)).demand = none ∧ (u.core k).pc = c.pc + 4 ∧
        u.mem = s.mem
      (l.st = .held ∧ l.yielding = true ∨ l.st = .grace → s.tileReady k [] rd.toNat → ∃ u : State,
        exec (.lyield eng rd) s = .next u ∧ released u ∧ (rd ≠ 0 → (u.core k).reg.word rd.toNat = 1)) ∧
      (l.st = .held ∨ l.st = .grace → s.cur = .tile k → ∃ u : State, exec (.lfree eng) s = .next u ∧ released u ∧
        (u.core k).reg = c.reg)) ∧
    (∀ (x : Engine) (j pr : Nat), cl.engs = [(e, x)] → cl.leaseQ = [{ core := j, eng := e, prio := pr }] → j ≠ coreNo k →
      pr < 4 → cl.demand = none → l.st = .held → s.opsOn k e = [] →
      let handed (u : State) : Prop := (Tab.get {} (u.core k).leases e : Lease) = { l with st := .none, yielding := false } ∧
        ((u.cluster (corePos k)).eng e).power = .waking (some j) pr true false ∧ (u.cluster (corePos k)).leaseQ = cl.leaseQ ∧
        (u.core k).pc = c.pc + 4 ∧ u.mem = s.mem
      (l.prio ≤ pr → s.tileReady k [] rd.toNat → ∃ u : State, exec (.lyield eng rd) s = .next u ∧ handed u ∧
        (rd ≠ 0 → (u.core k).reg.word rd.toNat = 1)) ∧
      (s.cur = .tile k → ∃ u : State, exec (.lfree eng) s = .next u ∧ handed u ∧ (u.core k).reg = c.reg)) ∧
    (∀ x : Engine, cl.engs = [(e, x)] → cl.leaseQ = [{ core := coreNo k, eng := e, prio := l.prio }] → cl.demand = none →
      l.st = .queued → l.rd < 64 → s.cur = .tile k → ∃ u : State, exec (.lfree eng) s = .next u ∧
        (Tab.get {} (u.core k).leases e : Lease) = { l with st := .none } ∧ (u.cluster (corePos k)).leaseQ = [] ∧
        (l.rd ≠ 0 → (u.core k).reg.word l.rd = 0 ∧ (u.core k).reg.isEmpty l.rd = false) ∧ (u.core k).pc = c.pc + 4 ∧
        (∀ pr w b, x.power = .waking (some (coreNo k)) pr w b →
          ((u.cluster (corePos k)).eng e).power = .waking none pr w b) ∧ u.mem = s.mem) ∧
    (s.tileReady k [] rd.toNat → ∃ q left : Nat,
      let holder : Option Nat := match (cl.eng e).power with
        | .held kc => some kc
        | _ => none
      let v := fields [(0, l.st.code), (8, if l.st = .none ∨ l.st = .lost then 0 else l.prio), (13, b2n holder.isSome),
        (14, holder.getD 0), (16, (cl.eng e).power.code), (20, q), (32, left)]
      exec (.lstat eng rd) s =
        .next ((if l.st = .grace then (s.fresh 26).2 else s).setCore k (c.done .a [] rd.toNat v 0 4)) ∧
      left ≤ 4096 ∧ (l.st ≠ .grace → left = 0) ∧
      ((∀ r ∈ cl.scanOrder, ¬(r.core = coreNo k ∧ r.eng = e)) → q = 31) ∧
      (∀ pre r post, cl.scanOrder = pre ++ r :: post → r.core = coreNo k → r.eng = e →
        (∀ y ∈ pre, ¬(y.core = coreNo k ∧ y.eng = e)) → q = pre.length))

/-- R143, R146, R152, R154: lease instructions, and an operation without its lease. -/
def Obligations.LeaseResults : Prop := Parts.EngineNotHeld ∧ Parts.LeaseResults

/-! ### Maps and copies -/

/-- R56, R57, R168: QTILE asks the own island through a slot; QCAP and QPWR read the cluster's copies, OPP the one of the
core itself. -/
def Obligations.MapResults : Prop :=
  ∀ (s : State) (k : Nat) (rb ra rd : Reg),
    let c := s.core k
    let cl := s.cluster (corePos k)
    (s.tileReady k [] rd.toNat →
      exec (.qcap rd) s = .next (s.setCore k (c.done .a [] rd.toNat cl.qcap 0 4)) ∧
      exec (.qpwr rd) s = .next (s.setCore k (c.done .a [] rd.toNat
        (cl.qpwr ||| fields [(26, nth 0 cl.qopp (coreNo k))]) 0 4))) ∧
    (s.tileReady k [ra.toNat, rb.toNat] rd.toNat → c.slotsFree → ∃ (u : State) (l : Slot) (m : Msg), exec (.qtile rb ra rd) s = .next u ∧
      (u.core k).slots = some l :: List.replicate 7 none ∧ l.dst = 8 * rd.toNat ∧ (u.core k).pc = c.pc + 4 ∧
      u.net = s.net ++ [m] ∧ m.vc = 2 ∧ m.at_ = corePos k ∧ u.mem = s.mem ∧
      (rd ≠ 0 → (u.core k).reg.isEmpty rd.toNat = true))

/-! ### Traps -/

/-- R335, R336: a trap of a tile core writes its frame of eight words in the core's save area and sends it to the
region's island; the core is TRAPPED with its pc as it stood, and TFCOUNT counts it. Where the trap-frame base names no
memory the frame is sent and written nowhere: that clause is the model's reading (log 20, DEDUCED). -/
def Obligations.TrapEntry : Prop :=
  ∀ (s : State) (k : Nat) (c : Cause),
    let d := s.core k
    let u := s.takeTrap k c
    (∃ t m, (u.core k).trapped = some t ∧ t.frame.length = 8 ∧
      nth 0 t.frame 0 = fields [(0, c.code), (8, c.kind), (11, b2n c.fetch), (12, c.unit), (16, c.slot),
        (19, b2n (d.pair != .alone)), (24, d.ch.getD 0), (29, b2n d.ch.isSome), (32, (d.tfcount + 1) % 2 ^ 32)] ∧
      nth 0 t.frame 6 = fields [(0, bits (s.identity k 252) 0 32), (32, bits (s.identity k 252) 32 16), (48, c.trapn)] ∧
      nth 0 t.frame 1 = c.pc ∧ nth 0 t.frame 2 = d.pc ∧
      nth 0 t.frame 3 = c.addr ∧ nth 0 t.frame 4 = c.detail ∧ nth 0 t.frame 5 = c.pidx ∧ nth 0 t.frame 7 = 7 ∧
      u.net = s.net ++ [m] ∧ m.vc = 0 ∧ m.at_ = corePos k ∧ m.body = bytesOf t.frame ∧
      (∀ a, s.tfHome k = some a → s.Inv → Mem.readBytes u.mem a 64 = bytesOf t.frame) ∧
      (s.tfHome k = none → u.mem = s.mem) ∧
      (∀ a x, s.tfHome k = some a → s.Inv → (x < a ∨ a + 64 ≤ x) → Mem.read u.mem x = Mem.read s.mem x)) ∧
    (u.core k).pc = d.pc ∧ (u.core k).reg = d.reg ∧ (u.core k).fcsr = d.fcsr ∧ (u.core k).instret = d.instret ∧
    (u.core k).tfcount = (d.tfcount + 1) % 2 ^ 32 ∧ (u.core k).blocked = none ∧ u.clusters = s.clusters ∧
    ∀ j, j ≠ k → u.core j = s.core j

/-- R339, R367: TRAP and BRK, in both widths, take their trap: USER_TRAP with s(ra) and n, BREAKPOINT. -/
def Sys2Proof.Parts.UserTraps : Prop :=
  ∀ (s : State) (k : Nat) (n ra : BitVec 6), s.cur = .tile k → (s.core k).pair = .alone →
    exec .brk s = .next (s.takeTrap k { code := cBREAKPOINT, pc := (s.core k).pc }) ∧
    exec .brkQ s = .next (s.takeTrap k { code := cBREAKPOINT, pc := (s.core k).pc }) ∧
    ((s.core k).reg.isEmpty ra.toNat = false → exec (.trap n ra) s =
      .next ((s.setCore k (s.core k)).takeTrap k
        { code := cUSER_TRAP, detail := s.reg ra.toNat, trapn := n.toNat, pc := (s.core k).pc }))

/-- R75, R104: an empty source traps EMPTY_READ where W is set and else leaves the instruction unexecuted; neither
writes a register. With both sources empty the trap names ra: that order is the model's choice (log 58). -/
def Sys2Proof.Parts.EmptySources : Prop :=
  ∀ (s : State) (k : Nat) (cs : BitVec 2) (rb ra rd : Reg), s.cur = .tile k → (s.core k).pair = .alone →
    ∀ r : Reg, (s.core k).reg.isEmpty r.toNat = true → (r = ra ∨ r = rb ∧ (s.core k).reg.isEmpty ra.toNat = false) →
      ∀ p ∈ rIntegers,
        exec (p.1 1 cs rb ra rd) s = .next (s.takeTrap k
          { code := cEMPTY_READ, detail := BitVec.ofNat 64 r.toNat, pc := (s.core k).pc }) ∧
        exec (p.1 0 cs rb ra rd) s = .next (s.setCore k { s.core k with blocked := some (.regWord r.toNat) })

/-- R203: a load or store whose range no window holds raises BAD_ADDRESS, one that is not aligned MISALIGNED, whatever its
destination or its data register holds. -/
def Sys2Proof.Parts.AccessFaults : Prop :=
  ∀ (s : State) (k : Nat) (imm : BitVec 9) (ra rd : Reg), s.tileReady k [ra.toNat] 0 → (s.core k).pair = .alone →
    let a := s.reg ra.toNat + imm.signExtend 64
    let after (c : Nat) : State := (s.setCore k ((s.core k).readIn .m [ra.toNat])).takeTrap k
      { code := c, addr := a, pc := (s.core k).pc }
    let faults (n : Nat) (u : Use) (i : Instr) : Prop :=
      (s.operand (corePos k) a n u = none → exec i s = .next (after cBAD_ADDRESS)) ∧
      (∀ t, s.operand (corePos k) a n u = some t → a.toNat % n ≠ 0 → exec i s = .next (after cMISALIGNED))
    (∀ p ∈ loads, faults p.2.1 .load (p.1 imm ra rd)) ∧ ∀ p ∈ stores, faults p.2 .store (p.1 imm ra rd)

/-- R75, R203, R339, R367: TRAP and BRK, empty sources, refused accesses. -/
def Obligations.ScalarTraps : Prop := Parts.UserTraps ∧ Parts.EmptySources ∧ Parts.AccessFaults

/-! ### Island cores -/

/-- R352: an island core executes the scalar instructions with the same results on its own registers, the FP32 ones without a
flag trap. -/
def Sys2Proof.Parts.IslandScalars : Prop :=
  ∀ (s : State) (k : Nat) (w : BitVec 1) (cs : BitVec 2) (rb ra rd : Reg) (imm : BitVec 9) (j : BitVec 21) (n : BitVec 6),
    s.cur = .island k →
    let c := s.icore k
    let x := (s.reg ra.toNat).toNat % 2 ^ 32
    let y := (s.reg rb.toNat).toNat % 2 ^ 32
    let d := (s.reg rd.toNat).toNat % 2 ^ 32
    let out (v : Word) (f : Flags) : State := s.setICore k (((c.flagged f).wrote rd.toNat v).retired (c.pc + 4))
    let fp (r : Nat × Flags) : State := out (BitVec.ofNat 64 r.1) r.2
    (∀ p ∈ rIntegers, exec (p.1 w cs rb ra rd) s = .next (s.setICore k
      ((c.wrote rd.toNat (p.2 (s.reg ra.toNat) (s.reg rb.toNat))).retired (c.pc + 4)))) ∧
    (∀ p ∈ unaryIntegers ++ immediates imm n,
      exec (p.1 ra rd) s = .next (s.setICore k ((c.wrote rd.toNat (p.2 (s.reg ra.toNat))).retired (c.pc + 4)))) ∧
    (∀ p ∈ rFloats, exec (p.1 w cs rb ra rd) s = .next (fp (p.2 s.rm x y))) ∧
    (∀ p ∈ compares, exec (p.1 rb ra rd) s =
      .next (fp (if (fcompare .f32 p.2 x y).1 then 1 else 0, (fcompare .f32 p.2 x y).2))) ∧
    exec (.ffma w cs rb ra rd) s = .next (fp (Machine.ffma .f32 s.rm d x y)) ∧
    exec (.fsqrt w cs ra rd) s = .next (fp (Machine.fsqrt .f32 s.rm x)) ∧
    (∀ p ∈ conversions, exec (p.1 ra rd) s = .next (out (p.2 s.rm (s.reg ra.toNat)).1 (p.2 s.rm (s.reg ra.toNat)).2)) ∧
    (∀ p ∈ branches, exec (p.1 imm rb ra) s = .next (s.setICore k
      (c.retired (c.pc + if p.2 (s.reg ra.toNat) (s.reg rb.toNat) then 2 * imm.signExtend 64 else 4)))) ∧
    exec (.j j) s = .next (s.setICore k (c.retired (c.pc + 2 * j.signExtend 64))) ∧
    exec .nop s = .next (s.setICore k (c.retired (c.pc + 4)))

/-- R352, R196, R199: `n` bytes at an address of island core `k` lie at the home `h`: a physical address in S mode; in U mode
one that the tables of KXLAT map with the permission. -/
def Sys2Proof.Machine.State.islandAt (s : State) (k : Nat) (a : Word) (n : Nat) (w : Want) (h : Nat) : Prop :=
  let c := s.icore k
  a.toNat % n = 0 ∧ ∃ pa, physHome pa = some h ∧ (physHome (pa + n - 1)).isSome = true ∧
    (bit c.kstat 0 = true → pa = a.toNat) ∧
    (bit c.kstat 0 = false → a.toNat < 2 ^ 48 ∧ s.translate (c.kxlat.toNat / 4096 * 4096) a.toNat w = .ok pa)

/-- R352, R204, R314: a load of an island core whose store buffer is empty reads its home; a store joins the buffer, and memory
changes when the buffer releases it (StoreReleases). -/
def Sys2Proof.Parts.IslandAccesses : Prop :=
  ∀ (s : State) (k : Nat) (imm : BitVec 9) (ra rd : Reg) (ext : BitVec 2) (qa qd : Reg4) (sz : BitVec 2) (sc : BitVec 4),
    s.cur = .island k → s.eccSoft = [] →
    let c := s.icore k
    let reads (len n : Nat) (signed : Bool) (a : Word) (rd : Nat) (i : Instr) : Prop :=
      ∀ h, s.islandAt k a n .read h → s.badAt h n = false → exec i s = .next (s.setICore k
        ((c.wrote rd (loaded signed n (s.readMem h n))).retired (c.pc + BitVec.ofNat 64 len)))
    let puts (len n : Nat) (a v : Word) (i : Instr) : Prop :=
      ∀ h, s.islandAt k a n .write h → ∃ e : Buffered, exec i s = .next (s.setICore k
          ({ c with sbuf := c.sbuf ++ [e], nextSeq := c.nextSeq + 1 }.retired (c.pc + BitVec.ofNat 64 len))) ∧
        e.homeAt = some (h / 8 * 8) ∧ e.mask = BitVec.ofNat 64 ((2 ^ (8 * n) - 1) * 2 ^ (8 * (h % 8))) ∧
        e.data = (v &&& BitVec.ofNat 64 (2 ^ (8 * n) - 1)) <<< (8 * (h % 8))
    (c.sbuf = [] →
      (∀ p ∈ loads, reads 4 p.2.1 p.2.2 (s.reg ra.toNat + imm.signExtend 64) rd.toNat (p.1 imm ra rd)) ∧
      reads 4 (2 ^ sz.toNat) false (s.reg ra.toNat) rd.toNat (.ldacq sz sc ra rd) ∧
      reads 2 8 false (s.reg qa.toNat + BitVec.ofNat 64 (8 * ext.toNat)) qd.toNat (.lddQ ext qa qd) ∧
      reads 2 4 true (s.reg qa.toNat + BitVec.ofNat 64 (4 * ext.toNat)) qd.toNat (.ldwQ ext qa qd)) ∧
    (c.sbuf.length < 16 →
      (∀ p ∈ stores, puts 4 p.2 (s.reg ra.toNat + imm.signExtend 64) (s.reg rd.toNat) (p.1 imm ra rd)) ∧
      puts 4 (2 ^ sz.toNat) (s.reg ra.toNat) (s.reg rd.toNat) (.strel sz sc ra rd) ∧
      puts 2 8 (s.reg qa.toNat + BitVec.ofNat 64 (8 * ext.toNat)) (s.reg qd.toNat) (.stdQ ext qa qd) ∧
      puts 2 4 (s.reg qa.toNat + BitVec.ofNat 64 (4 * ext.toNat)) (s.reg qd.toNat) (.stwQ ext qa qd))

/-- R352, R203, R190, R199: an address that no memory holds, one that is not aligned, one that the tables do not map and a read
of an uncorrectable error trap, in this order. -/
def Sys2Proof.Parts.IslandFaults : Prop :=
  ∀ (s : State) (k : Nat) (imm : BitVec 9) (ra rd : Reg), s.cur = .island k → s.eccSoft = [] →
    let c := s.icore k
    let a := s.reg ra.toNat + imm.signExtend 64
    let faults (n : Nat) (w : Want) (i : Instr) : Prop :=
      let traps (x : Nat) : Prop := exec i s = .next (s.islandTrap k x a c.pc)
      (bit c.kstat 0 = true → (physHome a.toNat = none → traps cBAD_ADDRESS) ∧
        ((physHome a.toNat).isSome = true → a.toNat % n ≠ 0 → traps cMISALIGNED)) ∧
      (bit c.kstat 0 = false → (2 ^ 48 ≤ a.toNat → traps cBAD_ADDRESS) ∧
        (a.toNat < 2 ^ 48 → a.toNat % n ≠ 0 → traps cMISALIGNED) ∧
        (a.toNat < 2 ^ 48 → a.toNat % n = 0 → ∀ x,
          s.translate (c.kxlat.toNat / 4096 * 4096) a.toNat w = .error x → traps x)) ∧
      (w = .read → ∀ h, s.islandAt k a n w h → s.badAt h n = true → traps cUNCORR_ECC)
    (∀ p ∈ loads, faults p.2.1 .read (p.1 imm ra rd)) ∧ ∀ p ∈ stores, faults p.2 .write (p.1 imm ra rd)

/-- R352, R321-R323: an atomic of an island core whose stores are performed; in host memory only AMO ADD and AMOX are
carried, another raises BAD_ADDRESS (R322). -/
def Sys2Proof.Parts.IslandAtomics : Prop :=
  ∀ (s : State) (k h : Nat) (wd : BitVec 1) (ord : BitVec 2) (o1 : BitVec 1) (op : BitVec 3) (rb ra rd : Reg),
    s.cur = .island k → s.eccSoft = [] → (s.icore k).sbuf = [] → s.Inv →
    let c := s.icore k
    let a := s.reg ra.toNat
    let v := (s.reg rd.toNat).toNat
    let x := (s.reg rb.toNat).toNat
    let n4 := if wd = 0 then 8 else 4
    let host : Prop := 0x8000000000000 ≤ h ∧ h < 0x10000000000000
    let runs (carried : Bool) (i : Instr) (n new : Nat) : Prop :=
      s.islandAt k a n .atomic h → s.badAt h n = false →
      (¬host ∨ carried = true → ∃ u : State, exec i s = .next u ∧
        u.icore k = (c.wrote rd.toNat (BitVec.ofNat 64 (s.readMem h n))).retired (c.pc + 4) ∧ u.readMem h n = new ∧
        (∀ y, y < h ∨ h + n ≤ y → Mem.read u.mem y = Mem.read s.mem y) ∧ u.cores = s.cores ∧
        ∀ j, j ≠ k → u.icore j = s.icore j) ∧
      (host → carried = false → exec i s = .next (s.islandTrap k cBAD_ADDRESS a c.pc))
    runs (op = 0) (.amo wd ord op ra rd) n4 (amoNew op.toNat (8 * n4) (s.readMem h n4) (v % 2 ^ (8 * n4))) ∧
    runs true (.amoxXchg ord ra rd) 8 v ∧
    runs true (.amoxCas ord rb ra rd) 8 (if s.readMem h 8 = v then x else s.readMem h 8) ∧
    runs false (.amofFadd32 o1 ra rd) 4 ((Machine.fadd .f32 0 (s.readMem h 4) (v % 2 ^ 32)).1 % 2 ^ 32) ∧
    runs false (.amofFmaxabs o1 ra rd) 4 (maxAbs (s.readMem h 4) (v % 2 ^ 32)) ∧
    runs false (.amofBumplim o1 rb ra rd) 8 (if s.readMem h 8 < x then s.readMem h 8 + 1 else s.readMem h 8)

/-- R353: the CSRs of an island core, by number; FCSR and INSTRET are there for its scalar instructions (the model's reading,
log 21). -/
def Sys2Proof.islandCsrs (s : State) (k : Nat) : List (Nat × Word) :=
  let c := s.icore k
  let g := s.region (k / 8)
  [(0x000, c.fcsr), (0x009, c.instret), (0x100, c.kstat), (0x101, c.ksp), (0x102, c.kvt), (0x103, c.kwhy), (0x104, c.kaddr),
   (0x105, fields [(0, b2n (decide ((Tab.get [] g.inq 0 : List Msg) ≠ []))), (1, b2n (decide (g.doorbell ≠ 0))),
                   (2, b2n (decide (c.ktcmp.toNat ≤ g.ktime.toNat)))]),
   (0x106, c.kxlat), (0x107, g.ktime), (0x108, c.ktcmp)]

/-- R353: the new value of a writable CSR: of KSTAT only SUP and EVEN change. KSP keeps a multiple of 64 and KVT one of 4,096,
with the low bits written 0 (the model's choice, log 59). -/
def Sys2Proof.islandStored (c : ICore) (n : Nat) (v : Word) : Option ICore :=
  match n with
  | 0x000 => if v.toNat % 8 ≤ 4 then some { c with fcsr := v &&& 0x3F3F07 } else none
  | 0x100 => some { c with kstat := BitVec.ofNat 64 (c.kstat.toNat / 4 * 4 + v.toNat % 4) }
  | 0x101 => some { c with ksp := BitVec.ofNat 64 (v.toNat / 64 * 64) }
  | 0x102 => some { c with kvt := BitVec.ofNat 64 (v.toNat / 4096 * 4096) }
  | 0x106 => some { c with kxlat := v }
  | 0x108 => some { c with ktcmp := v }
  | _ => none

/-- R352, R353, R126: in S mode the CSRs of an island core are read, and the writable ones written; a number that it does not
have, a write of a read-only CSR and an FCSR value with a rounding mode of 5-7 raise ILLEGAL_OP, and in U mode each of the
four instructions does. -/
def Sys2Proof.Parts.IslandCsrs : Prop :=
  ∀ (s : State) (k : Nat) (csr : BitVec 9) (ra rd : Reg), s.cur = .island k →
    let c := s.icore k
    let illegal : State := s.islandTrap k cILLEGAL_OP 0 c.pc
    let writes : List ((BitVec 9 → Reg → Reg → Instr) × (Word → Word → Word)) :=
      [(.csrw, fun _ v => v), (.csrs, fun o v => o ||| v), (.csrc, fun o v => o &&& ~~~v)]
    (bit c.kstat 0 = true →
      (∀ p ∈ islandCsrs s k, csr.toNat = p.1 →
        exec (.csrr csr rd) s = .next (s.setICore k ((c.wrote rd.toNat p.2).retired (c.pc + 4)))) ∧
      (csr.toNat = 8 → ∃ d : Word, exec (.csrr csr rd) s = .next ({ s with free := s.free + 1 }.setICore k
        (({ c with cycle := c.cycle + d }.wrote rd.toNat (c.cycle + d)).retired (c.pc + 4)))) ∧
      (∀ p ∈ writes, ∀ q ∈ islandCsrs s k, csr.toNat = q.1 →
        (∀ c', islandStored c q.1 (p.2 q.2 (s.reg ra.toNat)) = some c' →
          exec (p.1 csr ra rd) s = .next (s.setICore k ((c'.wrote rd.toNat q.2).retired (c.pc + 4)))) ∧
        (islandStored c q.1 (p.2 q.2 (s.reg ra.toNat)) = none → exec (p.1 csr ra rd) s = .next illegal)) ∧
      (csr.toNat ∉ [8] ++ (islandCsrs s k).map Prod.fst → exec (.csrr csr rd) s = .next illegal) ∧
      (csr.toNat ∉ (islandCsrs s k).map Prod.fst → ∀ p ∈ writes, exec (p.1 csr ra rd) s = .next illegal)) ∧
    (bit c.kstat 0 = false →
      exec (.csrr csr rd) s = .next illegal ∧ ∀ p ∈ writes, exec (p.1 csr ra rd) s = .next illegal)

/-- What an island core executes, in S mode at least (16: R352). The conversions with a format register are left out of the
claim: that they raise ILLEGAL_OP is the model's reading (log 21). -/
def Sys2Proof.islandRuns : Instr → Bool
  | .add .. | .sub .. | .and .. | .or .. | .xor .. | .andn .. | .shl .. | .shr .. | .sar .. | .ror .. | .mul .. | .mulh ..
  | .mulhu .. | .div .. | .divu .. | .rem .. | .remu .. | .min .. | .max .. | .minu .. | .maxu .. | .slt .. | .sltu .. | .seq ..
  | .sel .. | .clz .. | .ctz .. | .popc .. | .bswap .. | .sextb .. | .sexth .. | .sextw .. | .zextw .. | .bext .. | .bdep ..
  | .addi .. | .andi .. | .ori .. | .shli .. | .shri .. | .sari .. | .rori .. | .fadd .. | .fsub .. | .fmul .. | .fdiv ..
  | .ffma .. | .fmin .. | .fmax .. | .fsqrt .. | .fcmpEq .. | .fcmpLt .. | .fcmpLe .. | .fcmpUnord .. | .fcvtF32S64 ..
  | .fcvtS64F32 .. | .fcvtF32Bf16 .. | .fcvtBf16F32 .. | .fcvtF32F16 .. | .fcvtF16F32 .. | .fcvtF32Fmt .. | .fcvtFmtF32 ..
  | .fneg .. | .fabs .. | .fcopysign .. | .fclass .. | .beq .. | .bne .. | .blt .. | .bge .. | .bltu .. | .bgeu .. | .j ..
  | .jl .. | .jr .. | .csrw .. | .csrs .. | .csrc .. | .csrr .. | .ldb .. | .ldbu .. | .ldh .. | .ldhu .. | .ldw .. | .ldwu ..
  | .ldd .. | .stb .. | .sth .. | .stw .. | .std .. | .amo .. | .amoxXchg .. | .amoxCas .. | .amofFadd32 .. | .amofFmaxabs ..
  | .amofBumplim .. | .fence .. | .fencer .. | .tfence | .ldacq .. | .strel .. | .brk | .trap .. | .dbgmark .. | .nop | .tret
  | .evwait | .tlbinv .. | .tlbinva .. | .icinv .. | .dcflush .. | .dcinv .. | .haltb .. | .resumeb .. | .savectx ..
  | .loadctx .. | .addQ .. | .subQ .. | .andQ .. | .orQ .. | .movQ .. | .moviQ .. | .addiQ .. | .shliQ .. | .shriQ .. | .lddQ ..
  | .stdQ .. | .ldwQ .. | .stwQ .. | .bezQ .. | .bnzQ .. | .jQ .. | .jrQ .. | .brkQ | .nopQ => true
  | _ => false

/-- The SYS instructions (16: R356). -/
def Sys2Proof.systemOps (ra rd : Reg) : List Instr :=
  [.tret, .evwait, .tlbinv ra, .tlbinva ra, .icinv ra rd, .dcflush ra rd, .dcinv ra rd, .haltb ra, .resumeb ra,
   .savectx ra rd, .loadctx ra rd]

/-- R352: every other instruction raises ILLEGAL_OP on an island core; a SYS instruction raises it on a tile core and on an
island core in U mode. -/
def Sys2Proof.Parts.WrongCore : Prop :=
  ∀ (s : State) (k : Nat) (ra rd : Reg),
    (s.cur = .island k → ∀ i, i.encoded = true → i.wf = true → islandRuns i = false →
      exec i s = .next (s.islandTrap k cILLEGAL_OP 0 (s.icore k).pc)) ∧
    (s.cur = .island k → bit (s.icore k).kstat 0 = false → ∀ i ∈ systemOps ra rd,
      exec i s = .next (s.islandTrap k cILLEGAL_OP 0 (s.icore k).pc)) ∧
    (s.cur = .tile k → (s.core k).pair = .alone → ∀ i ∈ systemOps ra rd,
      exec i s = .next (s.takeTrap k { code := cILLEGAL_OP, pc := (s.core k).pc }))

/-- R352, R353: what each kind of core executes, and the results on an island core. -/
def Obligations.IslandScalars : Prop :=
  Parts.IslandScalars ∧ Parts.IslandAccesses ∧ Parts.IslandFaults ∧ Parts.IslandAtomics ∧ Parts.IslandCsrs ∧ Parts.WrongCore

/-- R354: the entry of an island core into a handler, by a trap or an event: KSP falls by 64, the frame holds KSTAT,
the return address, the cause and the address, KSTAT is S mode with events off and DEPTH one more, and the pc comes from
the vector. -/
def Sys2Proof.Parts.IslandEntry : Prop :=
  ∀ (s : State) (k why vec fa va : Nat) (addr ret : Word), s.Inv →
    let c := s.icore k
    let f := c.ksp - 64
    c.sbuf = [] → bits c.kstat 4 4 < 15 → physHome f.toNat = some fa → (physHome (f + 56).toNat).isSome = true →
    physHome (c.kvt + BitVec.ofNat 64 vec).toNat = some va → s.badAt va 8 = false → (va + 8 ≤ fa ∨ fa + 64 ≤ va) →
    let u := s.islandEnter k why vec addr ret
    (u.icore k).ksp = f ∧ (u.icore k).pc = s.readWord va ∧ (u.icore k).kwhy = BitVec.ofNat 64 why ∧
    (u.icore k).kaddr = addr ∧ bits (u.icore k).kstat 0 2 = 1 ∧ bits (u.icore k).kstat 4 4 = bits c.kstat 4 4 + 1 ∧
    (u.icore k).regs = c.regs ∧ (u.icore k).fcsr = c.fcsr ∧ (u.icore k).wedged = c.wedged ∧
    Mem.readBytes u.mem fa 64 = bytesOf [c.kstat, ret, BitVec.ofNat 64 why, addr, 0, 0, 0, 0] ∧
    (∀ x, (x < fa ∨ fa + 64 ≤ x) → Mem.read u.mem x = Mem.read s.mem x) ∧ u.cores = s.cores ∧
    ∀ j, j ≠ k → u.icore j = s.icore j

/-- R354, R355: at DEPTH 15 an entry stops the core; TRET restores the frame that an entry left, refuses with BAD_STATUS
one whose status word is not legal in its high bits or its DEPTH, and takes the fault of one that it cannot read. KSP and
KVT serve with every bit they hold, and bits 3:2 of the restored KSTAT read 0 (the model's choice, log 59). -/
def Sys2Proof.Parts.IslandReturn : Prop :=
  ∀ (s : State) (k h g : Nat), s.cur = .island k → (s.icore k).sbuf = [] →
    let c := s.icore k
    (∀ why vec addr ret, bits c.kstat 4 4 = 15 → ((s.islandEnter k why vec addr ret).icore k).wedged = true) ∧
    (bit c.kstat 0 = true → bits c.kstat 4 4 ≠ 0 → physHome c.ksp.toNat = some h → physHome (c.ksp + 8).toNat = some g →
      s.badAt h 8 = false → s.badAt g 8 = false →
      let u := s.countFrame k c.ksp
      (bits (s.readWord h) 8 56 = 0 → bits (s.readWord h) 4 4 + 1 = bits c.kstat 4 4 →
        exec .tret s = .next (u.setICore k
          ({ c with kstat := s.readWord h &&& 0xF3, ksp := c.ksp + 64 }.retired (s.readWord g)))) ∧
      (bits (s.readWord h) 8 56 ≠ 0 ∨ bits (s.readWord h) 4 4 + 1 ≠ bits c.kstat 4 4 →
        exec .tret s = .next (u.islandTrap k cBAD_STATUS c.pc c.pc))) ∧
    (bit c.kstat 0 = true → bits c.kstat 4 4 ≠ 0 →
      (physHome c.ksp.toNat = none → exec .tret s = .next (s.islandTrap k cBAD_ADDRESS c.ksp c.pc)) ∧
      (physHome c.ksp.toNat = some h →
        (s.badAt h 8 = true → exec .tret s = .next (s.islandTrap k cUNCORR_ECC c.ksp c.pc)) ∧
        (s.badAt h 8 = false → physHome (c.ksp + 8).toNat = none →
          exec .tret s = .next (s.islandTrap k cBAD_ADDRESS (c.ksp + 8) c.pc)))) ∧
    (bit c.kstat 0 = true → bits c.kstat 4 4 = 0 → exec .tret s = .next (s.islandTrap k cILLEGAL_TRET 0 c.pc))

/-- R354, R355: entry into a handler of an island core and the return from it. -/
def Obligations.IslandEntry : Prop := Parts.IslandEntry ∧ Parts.IslandReturn

/-- R356, R202, R361: the SYS instructions in S mode. The model's own: the walks of an ASID are dropped and their requests
wait anew (log 83), and what DCFLUSH and DCINV do to dirty lines rests on its record of them (log 87). -/
def Sys2Proof.Parts.SystemResults : Prop :=
  ∀ (s : State) (k : Nat) (ra rd : Reg), s.cur = .island k → bit (s.icore k).kstat 0 = true →
    let c := s.icore k
    let a := s.reg ra.toNat
    let v := s.reg rd.toNat
    let next : ICore := c.retired (c.pc + 4)
    (s.kevt k ≠ 0 → exec .evwait s = .next (s.setICore k next)) ∧
    (s.kevt k = 0 → exec .evwait s = .next (s.setICore k { c with blocked := some .event })) ∧
    ((s.region (k / 8)).walks = [] → (s.region (k / 8)).waiting = [] →
      (∃ u : State, exec (.tlbinva ra) s = .next u ∧ u.icore k = next ∧ u.mem = s.mem ∧ u.cores = s.cores ∧
        (u.region (k / 8)).tlb = (s.region (k / 8)).tlb.filter fun e => !(e.asid = a.toNat % 4096)) ∧
      (∃ u : State, exec (.tlbinv ra) s = .next u ∧ u.icore k = next ∧ u.mem = s.mem ∧ u.cores = s.cores ∧
        (u.region (k / 8)).tlb = (s.region (k / 8)).tlb.filter fun e => !(e.asid = a.toNat % 4096 &&
          decide (e.va = a.toNat / 4096 % 2 ^ 36 * 4096 / 2 ^ e.size * 2 ^ e.size)))) ∧
    (v = 0 → exec (.icinv ra rd) s = .next (s.setICore k next) ∧ exec (.dcflush ra rd) s = .next (s.setICore k next) ∧
      exec (.dcinv ra rd) s = .next (s.setICore k next)) ∧
    (bits v 26 6 ≠ 0 ∨ bits v 40 24 ≠ 0 → exec (.icinv ra rd) s = .next (s.islandTrap k cILLEGAL_OP 0 c.pc)) ∧
    (bits v 26 6 = 0 → bits v 40 24 = 0 → bits v 0 24 ≠ 0 →
      let kept (t : Tab (BitVec 512)) : Tab (BitVec 512) := t.filter fun e =>
        decide (e.1 < a.toNat / 64) || decide ((a.toNat + 64 * bits v 0 24 - 1) / 64 < e.1)
      let named (p : Nat) : Prop := p ∈ s.tagClusters (bits v 32 8) false
      ∃ u : State, exec (.icinv ra rd) s = .next u ∧ u.icore k = next ∧ u.mem = s.mem ∧ u.net = s.net ∧
        ∀ p, (named p → bit v 24 = true → (u.cluster p).ccache = kept (s.cluster p).ccache) ∧
          (named p → bit v 25 = true → ∀ j ∈ span (4 * p) 4, (u.core j).icache = kept (s.core j).icache) ∧
          (¬named p ∨ bit v 24 = false → (u.cluster p).ccache = (s.cluster p).ccache) ∧
          (¬named p ∨ bit v 25 = false → ∀ j ∈ span (4 * p) 4, (u.core j).icache = (s.core j).icache)) ∧
    (v ≠ 0 → c.sbuf = [] →
      (∃ u : State, exec (.dcflush ra rd) s = .next u ∧ u.mem = s.mem ∧ (u.icore k) = next ∧
        ∀ x ∈ u.dirtyHome, x ∈ s.dirtyHome ∧ (x.1 < a.toNat / 64 * 64 ∨ (a.toNat + v.toNat + 63) / 64 * 64 ≤ x.1)) ∧
      (∃ u : State, exec (.dcinv ra rd) s = .next u ∧ (u.icore k) = next ∧
        (∀ x ∈ u.dirtyHome, x.1 < a.toNat / 64 * 64 ∨ (a.toNat + v.toNat + 63) / 64 * 64 ≤ x.1) ∧
        (s.Inv → ∀ x, (∀ y ∈ s.dirtyHome, y.1 ≠ x) → Mem.read u.mem x = Mem.read s.mem x))) ∧
    exec (.haltb ra) s = .next
      (State.setICore { s with casts := s.casts ++
        [{ tag := a.toNat % 256, origin := islandPos (k / 8), left := span 0 12288 }] } k next) ∧
    (∃ u : State, exec (.resumeb ra) s = .next u ∧ u.icore k = next ∧ u.mem = s.mem ∧
      (∀ x ∈ u.casts, x.tag ≠ a.toNat % 256) ∧ (∀ e ∈ s.clusters, (a.toNat % 256) ∉ (u.cluster e.1).hardTags) ∧
      ∀ p, (s.cluster p).hardTags = [a.toNat % 256] → (s.cluster p).clusterStops = [] →
        ∀ j ∈ span (4 * p) 4, (u.core j).stopped = 0)

/-- R356, R341, R343: the result codes of SAVECTX and LOADCTX for a context that cannot be saved or restored, and the
start of a restore, which sets the context to LOADING. The order of the codes is the model's (log 84). -/
def Sys2Proof.Parts.ContextResults : Prop :=
  ∀ (s : State) (k : Nat) (ra rd : Reg), s.cur = .island k → bit (s.icore k).kstat 0 = true →
    let c := s.icore k
    let tag := (s.reg ra.toNat).toNat % 256
    let x : Partition := Tab.get {} s.parts tag
    let out (v : Word) : State := s.setICore k ((c.wrote rd.toNat v).retired (c.pc + 4))
    (tag = 0 ∨ x.regions = 0 → exec (.savectx ra rd) s = .next (out 2) ∧ exec (.loadctx ra rd) s = .next (out 2)) ∧
    (tag ≠ 0 → x.regions ≠ 0 → (∀ p ∈ s.partClusters tag, Tab.get 0 x.saveBases p ≠ 0) →
      (s.ctxState tag = 1 ∨ s.ctxState tag = 3 → exec (.savectx ra rd) s = .next (out 1) ∧
        exec (.loadctx ra rd) s = .next (out 1)) ∧
      (s.ctxState tag = 2 → exec (.savectx ra rd) s = .next (out 3)) ∧
      (s.ctxState tag = 0 → exec (.loadctx ra rd) s = .next (out 2) ∧
        exec (.savectx ra rd) s = .next ((s.startSave tag).finish 4 rd.toNat 0 0)) ∧
      (s.ctxState tag = 2 → (∀ p ∈ s.partClusters tag, s.unserved tag p = false) →
        (∀ r ∈ maskRegions x.regions, (s.region r).tag = tag) →
        exec (.loadctx ra rd) s =
          .next ((s.setCtx tag 3 (bits (s.readWord (ctxHomeOf x tag)) 16 16)).finish 4 rd.toNat 0 0)))

/-- R341, R343, R356: the SYS instructions in S mode. -/
def Obligations.SystemResults : Prop := Parts.SystemResults ∧ Parts.ContextResults

/-! ### The mesh and the memory side -/

/-- R48, R58, R66, R170, R173, R177, R185, R337, R372, R398: a unit's message enters the local port where that has room and its
class may be injected, and takes the next SEQ of its source and VC there; where the downstream buffer has a credit and the link's turn is its VC's, the head of an input moves
one hop and is counted, or is dropped with a report where a border does not admit it; it joins the input queue of its
cluster where that has room; ROUTER_COUNTER_WRITE writes the counters. The model's own: what has not passed a link when it
breaks is dropped by its router (R398 and R63 read together, log 91), a report's SEQ and SCORE are 0 (log 107), the
interval number written is one more than the last (log 29). -/
def Obligations.MeshForwarding : Prop :=
  ∀ (s : State) (i pos : Nat),
    let m := nth {} s.net i
    let p := m.at_
    let d := destPos m.w0
    let dir := s.portTo m.vc p d
    let rest := dropNth s.net i
    let sent (u : State) (port : Nat) : Prop := ∀ j, Tab.get 0 (u.router p).sent j =
      if j = 8 * port + m.vc then (Tab.get 0 (s.router p).sent j + m.flits) % 2 ^ 32 else Tab.get 0 (s.router p).sent j
    (i < s.net.length → s.behind i m = false → s.loadHeld m = false → m.dir = 5 →
      (s.portRoom p m = true → exec (.routerForward i) s = .next (({ s with net := rest } : State).enter m)) ∧
      (s.portRoom p m = false → exec (.routerForward i) s = .next s)) ∧
    (∀ x : Msg, (x.uncounted = false → s.enter x = { s with net := s.net ++ [{ x with dir := 4 }] }) ∧
      (x.uncounted = true → ∃ y : Msg, (s.enter x).net = s.net ++ [y] ∧ y.dir = 4 ∧ y.w0 = x.w0 ∧ y.w2 = x.w2 ∧ y.w3 = x.w3 ∧
        y.body = x.body ∧ y.vc = x.vc ∧ y.at_ = x.at_ ∧ (∀ b, b < 64 → b < 16 ∨ 32 ≤ b → bit y.w1 b = bit x.w1 b) ∧
        (s.enter x).mem = s.mem ∧
        (isIsland x.at_ = false → let j := 4 * x.at_ + bits x.w1 14 2
          bits y.w1 16 16 = Tab.get 0 (s.core j).seqs x.vc % 65536 ∧
          Tab.get 0 ((s.enter x).core j).seqs x.vc = (Tab.get 0 (s.core j).seqs x.vc + 1) % 65536) ∧
        (isIsland x.at_ = true → let r := regionOf x.at_
          bits y.w1 16 16 = Tab.get 0 (s.region r).seqs x.vc % 65536 ∧
          Tab.get 0 ((s.enter x).region r).seqs x.vc = (Tab.get 0 (s.region r).seqs x.vc + 1) % 65536))) ∧
    (i < s.net.length → s.behind i m = false → m.dir ≠ 5 →
      (m.vc = 4 → s.pattern p m = none ∨ m.ran = true) →
      (d ≠ p → nextPos p dir = none ∨ (s.router p).broken.contains dir = true → m.vc ≠ 2 →
        ∃ (u : State) (r : Msg), exec (.routerForward i) s = .next u ∧ u.net = rest ++ [r] ∧ r.vc = 0 ∧ r.at_ = p ∧
          r.w0 = header0 (islandPos (regionOf (srcPos m.w1))) 0 0 0 32 0 ∧
          r.body = bytesOf [fields [(0, cLINK_LOST), (7, posX p), (14, posY p)], m.w0, m.w1, 0] ∧ u.mem = s.mem ∧
          u.cores = s.cores ∧ u.clusters = s.clusters ∧ u.routers = s.routers) ∧
      (d ≠ p → ∀ q, nextPos p dir = some q → (s.router p).broken.contains dir = false →
        s.credit p dir m = true → s.linkTurn p dir = some m.vc →
        (regionOf q = regionOf p ∨ s.admits q m = true → ∃ u : State, exec (.routerForward i) s = .next u ∧
          u.net = rest ++ [{ m with at_ := q, dir := opposite dir, ran := false }] ∧ sent u dir ∧ u.mem = s.mem ∧
          u.cores = s.cores ∧ u.clusters = s.clusters) ∧
        (regionOf q ≠ regionOf p → s.admits q m = false → m.vc ≠ 2 → ∃ (u : State) (r : Msg), exec (.routerForward i) s = .next u ∧
          u.net = rest ++ [r] ∧ r.vc = 0 ∧ r.at_ = q ∧ r.w0 = header0 (islandPos (regionOf (srcPos m.w1))) 0 0 0 32 0 ∧
          r.body = bytesOf [fields [(0, cPROTECT_DROP), (7, posX q), (14, posY q)], m.w0, m.w1, 0] ∧ sent u dir ∧
          u.mem = s.mem ∧ u.cores = s.cores ∧ u.clusters = s.clusters)) ∧
      (d = p → isIsland p = false → s.isRetired p = false → 5 ≤ m.vc →
        (roomFor (s.inq p m.vc) m = true → ∃ u : State, exec (.routerForward i) s = .next u ∧ u.net = rest ∧
          u.inq p m.vc = s.inq p m.vc ++ [{ m with ran := false, no := (s.cluster p).came }] ∧ sent u 4 ∧ u.mem = s.mem ∧
          u.cores = s.cores) ∧
        (roomFor (s.inq p m.vc) m = false → exec (.routerForward i) s = .next s))) ∧
    (let b := sramHome (regionOf pos) + 0xFA0000 + 512 * localIndex pos
     let n := ((s.router pos).interval + 1) % 2 ^ 32
     ∃ u : State, exec (.routerCounterWrite pos) s = .next u ∧ (u.router pos).interval = n ∧
       (u.router pos).sent = (s.router pos).sent ∧ u.net = s.net ∧ u.cores = s.cores ∧ u.clusters = s.clusters ∧
       (s.Inv → u.readWord (b + 504) = BitVec.ofNat 64 n ∧
         ∀ x, (x < b ∨ b + 512 ≤ x) → Mem.read u.mem x = Mem.read s.mem x))

/-- R323-R325: the new value that an atomic request makes of an old one, by its kind, selector and size. -/
def Sys2Proof.Machine.Msg.newValue (m : Msg) (old : Nat) : Option Nat :=
  let op := bits m.w3 11 3
  let d := ofBytes (takeN 8 m.body)
  match m.kind, m.size with
  | 3, 4 => some (amoNew op 32 old (d % 2 ^ 32))
  | 3, 8 => some (amoNew op 64 old d)
  | 4, 8 => some (if op % 2 = 0 then d else if old = d then ofBytes (takeN 8 (dropN 8 m.body)) else old)
  | 5, 4 => if op % 4 = 0 then some ((Machine.fadd .f32 0 old (d % 2 ^ 32)).1 % 2 ^ 32)
            else if op % 4 = 1 then some (maxAbs old (d % 2 ^ 32)) else none
  | 5, 8 => if op % 4 = 2 then some (if old < d then old + 1 else old) else none
  | _, _ => none

/-- R182, R183, R190, R321: a server at `p`, with replies of a tag, has performed a request at a home: it answers a load with
its bytes, a store once they are written, an atomic with the old value; a read of an uncorrectable error with ERROR. -/
def Sys2Proof.Machine.State.hasServed (s : State) (m : Msg) (h p tag : Nat) (u : State) : Prop :=
  let answers (kind cause : Nat) (addr : Word) (bs : List Byte) : Prop := u.net = s.net ++ [reply m p tag kind cause addr bs]
  (m.kind ∈ [0, 2, 6, 9] → s.badAt h m.size = false → u.mem = s.mem ∧ answers 0 0 0 (Mem.readBytes s.mem h m.size)) ∧
  (m.kind = 1 ∨ m.kind = 7 → u.mem = Mem.writeBytes s.mem h (takeN m.size m.body) ∧ answers 1 0 0 []) ∧
  (m.kind ∈ [3, 4, 5] → s.badAt h m.size = false → ∀ v, m.newValue (s.readMem h m.size) = some v → s.Inv →
    u.readMem h m.size = v ∧ (∀ y, y < h ∨ h + m.size ≤ y → Mem.read u.mem y = Mem.read s.mem y) ∧
    answers 0 0 0 (toBytes 8 (s.readMem h m.size))) ∧
  (m.kind ∈ [0, 2, 3, 4, 5, 6, 9] → s.badAt h m.size = true → u.mem = s.mem ∧ answers 2 cUNCORR_ECC m.w2 []) ∧
  (10 ≤ m.kind → u.mem = s.mem ∧ answers 2 cBAD_ADDRESS m.w2 []) ∧ ∀ k, (u.core k).reg = (s.core k).reg

/-- R181, R182, R196, R322, R330, R383: a translated request leaves the island with its physical address and TAG 0xFF: for edge
memory to the bridge of its stack, for host memory to the bridge of its port, for another wafer by a link toward it. -/
def Sys2Proof.Machine.State.forwarded (s : State) (m : Msg) (pa : Nat) (u : State) : Prop :=
  let m' : Msg := { m with w2 := BitVec.ofNat 64 pa, w1 := m.w1 &&& ~~~(0xFF#64 <<< 32) ||| (0xFF#64 <<< 32) }
  let joins (q : Nat) : Prop := Tab.get [] u.bridges q = Tab.get [] s.bridges q ++ [m'] ∧ u.fabric = s.fabric
  let f := s.fabric
  (pa < 0x18000000000 → joins (pa / 4096 % 16)) ∧
  (0x8000000000000 ≤ pa → pa < 0x10000000000000 → (m.kind ∈ [3, 4, 5] → m.kind = 4 ∨ m.kind = 3 ∧ bits m.w3 11 3 = 0) →
    joins (16 + pa / 2 ^ 49 % 4)) ∧
  (awayHome pa = true → s.reaches pa = true → m.kind ∉ [3, 4, 5] → ∀ port, s.freeLink none (waferOf pa) m' = some port →
    ∃ flag, u.fabric.out = f.out ++ [{ msg := m', wafer := waferOf pa, port := port, flag := flag }] ∧ u.bridges = s.bridges ∧
      flag = if m.kind = 7 ∧ 7 ≤ bits m.w3 16 4 then some ((Tab.get 0 f.flagNo (waferOf pa) + 1) % 2 ^ 32) else none)

/-- What `forwarded` speaks of: an address of memory that the island can reach, by an access that is carried there. -/
def Sys2Proof.Machine.State.canForward (s : State) (m : Msg) (pa : Nat) : Prop :=
  let w1 := m.w1 &&& ~~~(0xFF#64 <<< 32) ||| (0xFF#64 <<< 32)
  pa < 0x18000000000 ∨
  0x8000000000000 ≤ pa ∧ pa < 0x10000000000000 ∧ (m.kind ∈ [3, 4, 5] → m.kind = 4 ∨ m.kind = 3 ∧ bits m.w3 11 3 = 0) ∨
  awayHome pa = true ∧ s.reaches pa = true ∧ m.kind ∉ [3, 4, 5] ∧
    (s.freeLink none (waferOf pa) { m with w2 := BitVec.ofNat 64 pa, w1 := w1 }).isSome = true

/-- R182-R185, R190, R196, R321: a cluster's request queue, the SRAM of a region, a stack's bridge and a host port serve their
first request at its home; a host port may complete it with HOST_ABORT instead: a free value says which (log 30). A reply's SEQ
and SCORE are 0 (log 107). -/
def Sys2Proof.Parts.Serving : Prop :=
  ∀ (s : State) (p r q : Nat) (m : Msg) (rest : List Msg), m.port = none → s.eccSoft = [] →
    let g := s.region r
    let at_ := islandPos (regionOf (srcPos m.w1))
    (s.quietReads p → (s.cluster p).reqq = m :: rest → ∃ u : State, exec (.requestServe (.cluster p)) s = .next u ∧
      u.cluster p = { s.cluster p with reqq := rest } ∧
      (m.kind ≠ 8 → s.hasServed m (spadHome p + bits m.w2 0 20) p (s.region (regionOf p)).tag u)) ∧
    (Tab.get [] g.inq 2 = m :: rest → m.toSram = true → ∃ u : State, exec (.requestServe (.sram r)) s = .next u ∧
      u.region r = { g with inq := Tab.put g.inq 2 rest } ∧ s.hasServed m (sramHome r + bits m.w2 0 24) (islandPos r) 0xFF u) ∧
    (Tab.get [] s.bridges q = m :: rest → q < 16 → m.kind ≠ 8 → ∃ u : State, exec (.requestServe (.stack q)) s = .next u ∧
      Tab.get [] u.bridges q = rest ∧ s.hasServed m (bits m.w2 0 52) at_ 0xFF u) ∧
    (Tab.get [] s.bridges (16 + q) = m :: rest → q < 4 → m.kind ≠ 8 → ∃ u : State, exec (.requestServe (.host q)) s = .next u ∧
      Tab.get [] u.bridges (16 + q) = rest ∧
      (s.hasServed m (bits m.w2 0 52) at_ 0xFF u ∧
          (m.kind = 1 ∨ m.kind = 7 → q ∈ (u.core (4 * srcPos m.w1 + srcCore m.w1)).hostPorts) ∨
        u.mem = s.mem ∧ u.cores = s.cores ∧ u.net = s.net ++ [reply m at_ 0xFF 2 cHOST_ABORT m.w2 []]))

/-- R181, R199, R200, R56: the island refuses an address that is not translated; a hit goes on at once at its physical address,
where its page allows the access; a miss starts a walk; the end of the walk forwards its requests or refuses them; QTILE is
answered. The model's own: the TLB keeps the newest 32,768 entries and a free value says whether it has lost one, so that a
hit may be a miss (logs 19, 31), QTILE's operands are packed into the request's address (log 28), a reply's SEQ and SCORE
are 0 (log 107). -/
def Sys2Proof.Parts.Translation : Prop :=
  ∀ (s : State) (r : Nat) (m : Msg) (rest : List Msg), m.port = none →
    let g := s.region r
    let va := bits m.w2 0 48
    (Tab.get [] g.inq 2 = m :: rest →
      let g' := { g with inq := Tab.put g.inq 2 rest }
      (m.kind ≠ 8 → m.toSram = false → isTranslated m.w2 = false → exec (.islandForward r) s =
        .next ((s.setRegion r g').send (reply m (islandPos r) 0xFF 2 cBAD_ADDRESS m.w2 []))) ∧
      (m.kind < 10 → m.kind ≠ 8 → m.toSram = false → isTranslated m.w2 = true → g.waiting = [] →
        (g.walks = [] → g.tlbFind (s.asid r) va = none → exec (.islandForward r) s =
          .next (State.setRegion { s with free := s.free + 1 } r
            { g' with walks := [{ asid := s.asid r, page := va / 4096, reqs := [m] }] })) ∧
        (∀ pg, g.tlbFind (s.asid r) va = some pg → (∀ w ∈ g.walks, w.asid = s.asid r → w.page = va / 4096 →
            ∀ x ∈ w.reqs, sameSource m x = false) → ∃ u : State, exec (.islandForward r) s = .next u ∧ u.mem = s.mem ∧ u.cores = s.cores ∧
          let pa := pg.pa + va % 2 ^ pg.size
          (u.bridges = s.bridges ∧ u.fabric = s.fabric ∧ u.net = s.net ∧
              m ∈ (u.region r).walks.flatMap Walk.reqs ++ (u.region r).waiting ∨
            u.region r = g' ∧ (pg.allows m.want = true → s.canForward m pa → s.forwarded m pa u ∧ u.net = s.net) ∧
              (pg.allows m.want = false → u.bridges = s.bridges ∧
                u.net = s.net ++ [reply m (islandPos r) 0xFF 2 cPAGE_PERM m.w2 []])))) ∧
      (m.kind = 8 → ∃ u : State, exec (.islandQtile r) s = .next u ∧ u.region r = g' ∧ u.mem = s.mem ∧ u.net = s.net ++
        [reply m (islandPos r) 0xFF 0 0 0 (toBytes 8 (((s.setRegion r g').perform m).tileAnswer g.tag m.w2).toNat)])) ∧
    (∀ w, g.walks = [w] → w.reqs = [m] → g.waiting = [] → s.eccSoft = [] →
      (∀ c, s.walk (s.partOf r).root (w.page * 4096) = .error c → exec (.walkComplete r 0) s =
        .next ((s.setRegion r { g with walks := [] }).send (reply m (islandPos r) 0xFF 2 c m.w2 []))) ∧
      (∀ pg, s.walk (s.partOf r).root (w.page * 4096) = .ok pg → pg.allows m.want = true →
        let pa := pg.pa + va % 2 ^ pg.size
        s.canForward m pa → ∃ u : State, exec (.walkComplete r 0) s = .next u ∧ (u.region r).walks = [] ∧
          (u.region r).tlb = takeN 32768 ({ asid := w.asid, va := w.page * 4096 / 2 ^ pg.size * 2 ^ pg.size, size := pg.size,
                                            pa := pg.pa, perm := pg.perm } :: g.tlb) ∧
          s.forwarded m pa u ∧ u.mem = s.mem ∧ u.cores = s.cores ∧ u.net = s.net))

/-- R56, R181-R185, R196, R199, R200: requests at their home, and at the island that translates them. -/
def Obligations.RequestServing : Prop := Parts.Serving ∧ Parts.Translation

/-- R68, R184, R186: a reply frees its slot, and DATA writes the register full, ERROR makes a D cause due; a fill reply
places its line. -/
def Obligations.ReplySinking : Prop :=
  ∀ (s : State) (pos : Nat) (m : Msg) (rest : List Msg), s.inq pos 3 = m :: rest →
    let k := 4 * pos + bits m.w0 14 2
    let n := bits m.w2 0 3
    let c := s.core k
    let cl := s.cluster pos
    let t := s.setInq pos 3 rest
    (bit m.w2 3 = false → c.pair = .alone → ∀ l, nth none c.slots n = some l →
      (m.kind = 0 → l.len = 8 → exec (.replySink pos) s = .next (t.setCore k { c with
        slots := setNth c.slots n none, reg := c.reg.put (l.dst / 8) (extend l.signed l.acc.n (ofBytes (takeN l.acc.n m.body))) })) ∧
      (m.kind = 1 → exec (.replySink pos) s = .next (t.setCore k { c with slots := setNth c.slots n none })) ∧
      (m.kind = 2 → l.store = false → exec (.replySink pos) s = .next (t.setCore k { c with
        slots := setNth c.slots n none,
        due := c.due ++ [{ kind := 1, cause := bits m.w2 8 7, pc := l.pc, addr := l.acc.addr, slotNo := n, slot := l }] }))) ∧
    (bit m.w2 3 = true → ∀ f, nth none cl.fills n = some f → f.stale = false →
      (m.kind = 0 → ∃ u : State, exec (.codeCacheFill pos) s = .next u ∧ u.inq pos 3 = rest ∧
        (u.cluster pos).fills = setNth cl.fills n none ∧
        Tab.get 0 (u.cluster pos).ccache f.line.toNat = BitVec.ofNat 512 (ofBytes m.body) ∧
        (∀ j ∈ Tab.keys (u.cluster pos).ccache, j = f.line.toNat ∨ j ∈ Tab.keys cl.ccache) ∧ u.mem = s.mem ∧
        u.cores = s.cores ∧ u.net = s.net) ∧
      (m.kind = 2 → exec (.codeCacheFill pos) s = .next (s.setCluster pos { cl with
        inq := Tab.put cl.inq 3 rest, fills := setNth cl.fills n (some { f with fault := some (bits m.w2 8 7, m.w3) }) })))

/-- R184, R314, R327, R390: the head of a store buffer is written at its home under its mask, or leaves in a request through
the lowest slot, unless an instruction waits for one. An island's store writes the memory at once and notes what its line
held before: that record of a dirty line is the model's own (log 87). -/
def Obligations.StoreReleases : Prop :=
  ∀ (s : State) (k h : Nat) (e : Buffered) (rest : List Buffered),
    let c := s.core k
    (c.sbHeld = none → c.sbuf = e :: rest → c.stream = [] → c.sends = [] → c.mayRelease (corePos k) e = true →
      s.ldfeBefore k e.seq = false → e.linked = false → e.setFull = false → e.rel = none →
      (e.homeAt = some h → s.quietReads (corePos k) → (s.cluster (corePos k)).chans = [] →
        exec (.storeRelease (.tile k)) s = .next ((s.writeMasked h e.mask e.data).setCore k { c with sbuf := rest })) ∧
      (e.homeAt = none → c.slotsFree → c.blocked ≠ some .slot → ∃ (u : State) (l : Slot) (m : Msg), exec (.storeRelease (.tile k)) s = .next u ∧
        (u.core k).slots = some l :: List.replicate 7 none ∧ l.acc = e.acc ∧ l.store = true ∧ l.performed = false ∧
        l.seq = e.seq ∧ (u.core k).sbuf = rest ∧ (u.core k).reg = c.reg ∧ (u.core k).pc = c.pc ∧ u.net = s.net ++ [m] ∧
        m.vc = 2 ∧ m.at_ = corePos k ∧ m.w2 = e.acc.addr ∧ m.body = e.acc.body ∧ u.mem = s.mem ∧ u.clusters = s.clusters)) ∧
    ((s.icore k).sbuf = e :: rest → e.homeAt = some h → exec (.storeRelease (.island k)) s =
      .next (((s.dirty h 8).writeMasked h e.mask e.data).setICore k { s.icore k with sbuf := rest })) ∧
    (s.Inv → ∀ mask v : Word, (s.writeMasked h mask v).readWord h = s.readWord h &&& ~~~mask ||| v &&& mask ∧
      ∀ x, (x < h ∨ h + 8 ≤ x) → Mem.read (s.writeMasked h mask v).mem x = Mem.read s.mem x)

/-- R17, R28, R175, R308: the send port injects its head with the bytes as they are then; the message whose turn it is
completes an entry without buffers, fills a buffer, is held while its entry is not FILLING, or finds no handler; START lets
its cores' messages on; a contribution joins its round. The payload of a START word, its channel and what a core notes of a
launch that has not started are the model's layout (log 22). -/
def Obligations.MessageArrival : Prop :=
  ∀ (s : State) (k pos vc : Nat),
    (∀ e rest, let c := s.core k
      c.sendq = e :: rest → c.sendWaits (corePos k) e = false → s.preempted (corePos k) = false → e.snap = none → e.pcnt = 0 →
      c.sends = [] → s.eccSoft = [] → s.ldfeBefore k e.seq = false → isIsland (corePos k) = false →
      s.portRoom (corePos k) (s.sendMsg k e) = true →
      ∃ (u : State) (m : Msg), exec (.sendInject k) s = .next u ∧ (u.core k).sendq = rest ∧ (u.core k).reg = c.reg ∧ (u.core k).pc = c.pc ∧
        u.net = s.net ++ [m] ∧ m.at_ = corePos k ∧ m.dir = 4 ∧ m.w0 = e.hdr &&& ~~~(0xFFFF#64 <<< 24) ||| (BitVec.ofNat 64 e.len <<< 24) ∧
        m.vc = bits m.w0 16 3 ∧ m.body = Mem.readBytes s.mem (ownHome k e.addr) e.len ∧ m.prel = [] ∧
        m.w1 = header1 (corePos k) (coreNo k) (Tab.get 0 c.seqs m.vc) (s.tagFor (corePos k) m.vc) ∧
        u.mem = s.mem ∧ u.clusters = s.clusters) ∧
    (∀ m rest, s.inq pos vc = m :: rest →
      let j := 4 * pos + bits m.w0 14 2
      let ch := bits m.w0 19 5
      let h := (s.core j).hand ch
      let turn := s.setCluster pos { s.cluster pos with frontLast := vc }
      let t := turn.setInq pos vc rest
      (5 ≤ vc → s.savedOut pos = false → s.preempted pos = false → s.frontTurn pos = some vc → m.ran = false → m.prel = [] →
        (h.valid = true → h.life = .filling → h.nbuf = 0 → exec (.messageDeposit pos vc) s =
          .next (t.setHand j ch { h with life := .ready, arrival := msgArrival m ch })) ∧
        (h.valid = true → h.life ≠ .filling → exec (.messageDeposit pos vc) s =
          .next (turn.setInq pos vc ({ m with ran := true } :: rest))) ∧
        (h.valid = true → h.life = .filling → ∀ b, h.target = some b → 0 < h.nbuf → 0 < m.body.length →
          nth 0 h.counts b + m.body.length ≤ bufCap (h.buf b) →
          let a := bufHome j (h.buf b) + nth 0 h.counts b
          ∃ u : State, exec (.messageDeposit pos vc) s = .next u ∧ u.inq pos vc = rest ∧ u.net = s.net ∧
            u.mem = Mem.writeBytes s.mem a m.body) ∧
        (h.valid = false → exec (.messageDeposit pos vc) s =
          .next ((turn.report pos (regionOf pos) cNO_HANDLER 1 0 m.w0 m.w1).setInq pos vc rest))) ∧
      (vc = 0 → bits m.w0 19 5 = chStart → ∃ u : State, exec (.clusterStart pos) s = .next u ∧ u.inq pos 0 = rest ∧
        (∀ i, i < 4 → (u.core (4 * pos + i)).loading =
          (if ofBytes (takeN 8 m.body) / 2 ^ i % 2 = 1
            then (s.core (4 * pos + i)).loading.filter (· ≠ ofBytes (dropN 8 m.body))
            else (s.core (4 * pos + i)).loading)) ∧
        (∀ i, (u.core i).reg = (s.core i).reg) ∧ u.mem = s.mem ∧
        u.net = s.net) ∧
      (∀ i, (s.cluster pos).rdMatch m = some i → m.prel = [] → m.body.length = 264 →
        let cl := s.cluster pos
        let x : RdSlot := Tab.get {} cl.rd i
        let acc := if x.count = 0 then dropN 8 m.body else rdCombine x.ctl x.acc (dropN 8 m.body)
        ofBytes (takeN 8 m.body) % 16 = x.descr.toNat →
        (x.count + 1 ≠ bits x.ctl 12 16 → exec (.rdContribution pos vc) s = .next (s.setCluster pos { cl with
          inq := Tab.put cl.inq vc rest, rd := Tab.put cl.rd i { x with count := x.count + 1, acc := acc } })) ∧
        (x.count + 1 = bits x.ctl 12 16 →
          s.portRoom pos { vc := bits x.parent 16 3, body := toBytes 8 x.descr.toNat ++ acc } = false →
          exec (.rdContribution pos vc) s = .next s) ∧
        (x.count + 1 = bits x.ctl 12 16 →
          s.portRoom pos { vc := bits x.parent 16 3, body := toBytes 8 x.descr.toNat ++ acc } = true → ∃ (u : State) (o : Msg), exec (.rdContribution pos vc) s = .next u ∧ u.inq pos vc = rest ∧
          Tab.get {} (u.cluster pos).rd i = { x with count := 0, acc := [] } ∧ u.net = s.net ++ [o] ∧ o.at_ = pos ∧
          o.vc = bits x.parent 16 3 ∧ o.body = toBytes 8 x.descr.toNat ++ acc ∧ u.mem = s.mem)))


/-! ### Activations, launches and graphs -/

/-- R20, R28, R36, R131, R159: an idle core starts the eligible entry of highest priority with s1 and s2 set and word 0 as its
pc; an idle core loses the entries of a masked launch. -/
def Obligations.ActivationSteps : Prop :=
  ∀ (s : State) (k ch key : Nat) (l : Launch),
    let c := s.core k
    let h := c.hand ch
    c.pair = .alone → c.ch = none → c.trapped = none →
    (c.oppNew = none → s.mayStart (corePos k) = true → (s.cluster (corePos k)).traceOn = false → c.select = some ch →
      ch < 32 ∧ c.mayRun ch = true ∧ (∀ j, j < 32 → c.mayRun j = true → (c.hand j).prio ≤ h.prio) ∧
      exec (.activationStart k) s = .next (s.setCore k { c with
        hands := Tab.put c.hands ch { h with life := .running }, rr := setNth c.rr h.prio ((ch + 1) % 32), ch := some ch,
        pc := nth 0 h.words 0, came := none, blocked := none, barWait := none,
        reg := (((c.reg.put 1 h.arrival).put 2 h.buf0).copySet 1 0).copySet 2 0 })) ∧
    (s.preempted (corePos k) = false → s.launches = [(key, l)] → l.phase = .masked → l.reported = true → l.cores = [k] →
      l.entries = [(k, ch)] → h.valid = true → h.launch = key → (∀ e, (c.lease e).st = .none) →
      exec (.entryInvalidate k) s = .next (State.setHand { s with launches := [] } k ch {}))

/-- R27, R28, R36, R62: the next loaded launch gets its id, and a START message goes to each of its clusters, then its seeds;
a launch that expects no signal is reported at once; a signal is counted up to EXPECT, and the last one reports the launch;
quiet classes let a mould load, or what has changed since its dispatch refuse it; a timeout refuses it or drops what is
buffered. The channels and payloads of START and POST words are the model's layout (log 22); that a mould waits until its
cores are idle, and is checked again then, is its choice (log 38). -/
def Obligations.LaunchSteps : Prop :=
  ∀ (s : State) (r q key : Nat) (l : Launch) (m : Msg) (rest : List Msg) (z : Quieting),
    let g := s.region r
    (q / 256 = r → (∀ e ∈ s.launches, e.2.phase ≠ .waiting) →
      (s.launches.find? fun e => e.2.queue = q && e.2.phase == .loaded && !s.startWaits e.1 e.2 &&
        s.ctxState (s.queue q).tag = 0) = some (key, l) →
      ∃ (u : State) (ms : List Msg), exec (.launchStart q) s = .next u ∧ (u.region r).nextLaunch = next32 g.nextLaunch ∧
        (l.expect ≠ 0 → u.launchOf key = { l with id := g.nextLaunch, phase := .started } ∧ u.cores = s.cores ∧
          u.net = s.net ++ ms ∧
          u.mem = (l.cores.foldl (fun s k =>
            s.writeMasked (tcmHome k + 8 * 252) 0xFFFFFFFF (BitVec.ofNat 64 g.nextLaunch)) s).mem ∧
          (ms.map fun o => (o.vc, o.w0, o.body)) =
            ((dedup (l.cores.map corePos)).map fun p => (0, header0 p 0 0 chStart 16 0, bytesOf (l.startWords key p))) ++
            l.seeds.map fun e => (5, header0 (corePos e.1) (coreNo e.1) 5 e.2 0 0, [])) ∧
        (l.expect = 0 → l.reported = false → l.node = 0xFFFF → (u.launchOf key).phase = .masked ∧
          (u.queue l.queue).nCompleted = (s.queue l.queue).nCompleted + 1)) ∧
    (∀ k, l.startWords key (corePos k) = [fields [(0, b2n (l.cores.contains (4 * corePos k))),
      (1, b2n (l.cores.contains (4 * corePos k + 1))), (2, b2n (l.cores.contains (4 * corePos k + 2))),
      (3, b2n (l.cores.contains (4 * corePos k + 3)))], BitVec.ofNat 64 key]) ∧
    (Tab.get [] g.inq 0 = m :: rest → bits m.w0 19 5 = chPost → s.launchOf key = l → l.phase = .started →
      bits (nth 0 (wordsOf m.body 2) 1) 0 32 = key →
      let n := (nth 0 (wordsOf m.body 2) 0).toNat
      (l.count + n < l.expect → exec (.completionSignal r) s = .next
        ((s.setRegion r { g with inq := Tab.put g.inq 0 rest }).setLaunch key { l with count := l.count + n })) ∧
      (l.expect ≤ l.count + n → l.reported = false → ∃ u : State, exec (.completionSignal r) s = .next u ∧
        (u.launchOf key).reported = true ∧ (u.launchOf key).phase = .masked ∧ (u.launchOf key).count = l.expect ∧
        (l.node = 0xFFFF → (u.queue l.queue).nCompleted = (s.queue l.queue).nCompleted + 1))) ∧
    (g.quiet = some z →
      let kept := s.launchOf key
      let free := s.releaseQuiet z
      let refused (reason : Nat) (detail : Word) : State := State.refuseItem { free with launches := Tab.drop s.launches key }
        kept.queue { hseq := kept.hseq, words := [0, 0, 0, 0, kept.user] } reason detail
      let tag := (s.queue kept.queue).tag
      (z.launch = some key → s.isQuiet z = true → Mould.idle kept.mould s = true → Mould.idle kept.mould free = true →
        (Mould.refusal kept.mould free tag (Mould.at_ kept.mould 0x10 8) = none →
          exec (.routeQuiet r) s = .next (Mould.load kept.mould tag key
            (free.setLaunch key { kept with phase := .loaded, mould := [] }))) ∧
        (∀ code detail, Mould.refusal kept.mould free tag (Mould.at_ kept.mould 0x10 8) = some (code, detail) →
          kept.node = 0xFFFF → exec (.routeQuiet r) s = .next (refused code detail))) ∧
      (z.launch = some key → s.isQuiet z = true → Mould.idle kept.mould s = false →
        exec (.routeQuiet r) s = .next (free.setLaunch key { kept with phase := .waiting })) ∧
      (z.launch = some key → s.isQuiet z = false → kept.node = 0xFFFF →
        exec (.routeQuietTimeout r) s = .next (refused 23 0)) ∧
      (z.launch = none → s.isQuiet z = false → ∃ u : State, exec (.routeQuietTimeout r) s = .next u ∧
        (∀ m ∈ u.net, m.bufferedIn z.regions z.classes = false) ∧ u.mem = s.mem ∧ u.cores = s.cores) ∧
      (∀ x ∈ z.regions, ((s.releaseQuiet z).region x).quiet = none))

/-- R31-R35, R42, R45-R47: what the host's words and the sequencer's reads do to a queue. -/
def Obligations.QueueSteps : Prop :=
  ∀ (s : State) (q n : Nat),
    let x := s.queue q
    let r := q / 256
    let h := next32 x.consumed
    (x.st ≠ 0 →
      exec (.doorbell q n) s =
        .next ((s.setQueue q { x with tail := n % 2 ^ 32 }).setRegion r { s.region r with doorbell := 1 }) ∧
      (x.pend = [] → (s.part x.tag).retiring = [] → exec (.cheadWrite q n) s = .next (s.setQueue q { x with chead := n % 2 ^ 32 }))) ∧
    (∀ bs, s.led q = true → x.st = 1 → x.consumed ≠ x.tail → s.ctxRead x.tag (x.work + BitVec.ofNat 64 (64 * (h % 2 ^ x.n))) 64 = .ok bs →
      (bits (nth 0 (wordsOf bs 8) 0) 0 32 = h → workFormat (wordsOf bs 8) = true → exec (.workRecordRead q) s =
        .next (((s.countCtx x.tag (x.work + BitVec.ofNat 64 (64 * (h % 2 ^ x.n))) 64).setQueue q { x with
          consumed := h, items := x.items ++ [{ hseq := h, words := wordsOf bs 8 }], nDispatched := x.nDispatched + 1 }).serveBells r)) ∧
      (bits (nth 0 (wordsOf bs 8) 0) 0 32 ≠ h → ∃ u : State, exec (.workRecordRead q) s = .next u ∧ (u.queue q).st = 2 ∧
        (u.queue q).consumed = x.consumed ∧ (u.queue q).items = x.items ∧ u.cores = s.cores)) ∧
    exec (.tokenRefill r) s = .next (s.setRegion r { s.region r with tenants := (s.region r).tenants.map fun e =>
      (e.1, { e.2 with debt := e.2.debt - min e.2.debt (e.2.refill / 2), bal := e.2.refill - min e.2.debt (e.2.refill / 2) }) }) ∧
    (x.st = 1 ∨ x.st = 2 → ∀ p ∈ [(Instr.teardown q, 1), (.reset q, 2)], ∃ u : State, exec p.1 s = .next u ∧
      (u.queue q).st = 3 ∧ (u.queue q).cmd = p.2 ∧ (u.queue q).tail = x.tail ∧
      (u.queue q).nDiscarded = x.nDiscarded + (s.unstarted q).length ∧ (x.place = none → u.mem = s.mem) ∧
      (∀ k, (u.core k).reg = (s.core k).reg) ∧ (∀ e ∈ u.graphs, e.2.queue = q → e.2.halted = true) ∧
      (∀ e ∈ s.launches, e.2.queue = q → e.1 ∉ Tab.keys u.launches ∨ (u.launchOf e.1).phase = .masked) ∧
      (s.launches = [] → u.cores = s.cores ∧
        (u.queue q).nDiscarded = x.nDiscarded + (x.items.filter fun i => !i.dispatched).length)) ∧
    (x.st ≠ 0 → x.st ≠ 3 → (∀ w ∈ x.kept, before x.chead (bits (nth 0 w 0) 0 32) = true) → before x.chead x.cseq = true →
      ahead x.cseq x.chead ≤ x.kept.length →
      exec (.replay q) s = .next (x.kept.foldl (fun s w => s.compSlot q (bits (nth 0 w 0) 0 32) w) s)) ∧
    (x.st = 3 → s.queueRuns q = false → ∃ u : State, exec (.drainComplete q) s = .next u ∧ exec (.abort q) s = .next u ∧
      (∀ e ∈ u.graphs, e.2.queue ≠ q) ∧ u.cores = s.cores ∧ (u.queue q).items = [] ∧
      (x.cmd = 1 → (u.queue q).st = 4) ∧
      (x.cmd ≠ 1 → (u.queue q).st = 1 ∧ (u.queue q).consumed = x.tail ∧ (u.queue q).doneh = x.tail ∧
        (u.queue q).nDispatched = 0 ∧ (u.queue q).nCompleted = 0)) ∧
    (x.st ≠ 3 → exec (.abort q) s = .next s) ∧
    (∀ (k ch key : Nat) (l : Launch), let c := s.core k
      x.st = 3 → s.launches = [(key, l)] → l.queue = q → l.phase = .masked → l.cores = [k] → l.entries = [(k, ch)] →
      c.ch = some ch → (c.hand ch).valid = true → (c.hand ch).launch = key → c.pair = .alone → c.trapped = none →
      c.stuck = [] → c.due = [] → c.slotsFree → s.opsOf k = [] → (∀ e, (c.lease e).st = .none) →
      (s.cluster (corePos k)).traceOn = false → (∀ vc, s.inq (corePos k) vc = []) →
      ∃ u : State, exec (.abort q) s = .next u ∧ (u.core k).ch = none ∧ (u.core k).hand ch = {} ∧ u.launches = [] ∧
        (u.core k).reg.words = c.reg.words ∧ (x.cmd = 1 → (u.queue q).st = 4) ∧ (x.cmd ≠ 1 → (u.queue q).st = 1) ∧
        ∀ j, j ≠ k → (u.core j).reg = (s.core j).reg)

/-- R34, R38-R44: no queue with waiting records or a full ring has a turn; a turn of the sequencer starts the ready node of a
graph for its tokens, or dispatches a mould that is paid for and accepted, which loads; nodes complete and fire their
successors, a condition and the word of a loop choose among them, a loop goes on for one pass more, and a graph with a node
left goes on. The model's own: an accepted mould waits until its cores are idle (log 38), it is paid for before it is
checked (log 40), a ready node comes before the next record (log 56), a successor named twice fires twice (log 101). -/
def Obligations.GraphSteps : Prop :=
  ∀ (s : State) (k i q t : Nat) (g : Graph),
    let r := q / 256
    let y := s.queue q
    let x : Tenant := Tab.get {} (s.region r).tenants t
    let n := g.node i
    let fired (l : List Nat) : Graph := l.foldl Graph.fire (g.setNode i n.ended)
    let turn (cost : Nat) : State := s.setRegion r { s.region r with
      lastTenant := t, tenants := Tab.put (s.region r).tenants t { x with last := q, bal := x.bal - cost } }
    (y.pend ≠ [] ∨ 2 ^ y.m ≤ ahead (next32 y.cseq) y.chead → s.pick q = none) ∧
    (s.turnOf r = none → exec (.itemDispatch r) s = .next s) ∧
    (s.turnOf r = some (t, q) → y.tenant = t →
      (s.pick q = some (.node k i) → s.graph k = g → g.queue = q → 1 ≤ x.bal →
        (n.kind = 3 → exec (.itemDispatch r) s = .next ((turn 1).setGraph k (g.setNode i { n with phase := .running }))) ∧
        (n.kind = 4 ∨ n.kind = 6 →
          exec (.itemDispatch r) s = .next ((turn 1).setGraph k (g.setNode i { n with phase := .condition }))) ∧
        (n.kind = 5 → exec (.itemDispatch r) s =
          .next ((turn 1).setGraph k (if n.phase = .again then g.pass i else g.firePass i)))) ∧
      (∀ it b, s.pick q = some (.item it) → bits (nth 0 it.words 0) 32 4 = 1 →
        let size := bits (nth 0 it.words 2) 0 32
        let cost := 1 + ((Mould.clusters b).length + 15) / 16
        let taken := (turn 0).setQueue q { y with
          items := y.items.map fun (j : Item) => if j.hseq = it.hseq then { j with dispatched := true } else j }
        let u := taken.countCtx y.tag (nth 0 it.words 1) size
        let v := u.setRegion r { u.region r with
          tenants := Tab.put (u.region r).tenants t { x with last := q, bal := x.bal - cost } }
        taken.ctxRead y.tag (nth 0 it.words 1) size = .ok b → cost ≤ x.bal → cost ≤ 3 * x.refill → Mould.refusal b u y.tag size = none →
          exec (.itemDispatch r) s = .next ((State.setLaunch { v with nextKey := u.nextKey + 1 } u.nextKey
            (Mould.launch b q it none (bits (nth 0 it.words 3) 0 32))).resumeLaunch u.nextKey))) ∧
    (let l := s.launchOf k
     let tag := (s.queue l.queue).tag
     l.phase = .waiting → Mould.routes l.mould = [] →
      (Mould.idle l.mould s = true → Mould.refusal l.mould s tag (Mould.at_ l.mould 0x10 8) = none →
        s.resumeLaunch k = Mould.load l.mould tag k (s.setLaunch k { l with phase := .loaded, mould := [] })) ∧
      (Mould.idle l.mould s = false → s.resumeLaunch k = s)) ∧
    (s.graph k = g →
      (n.kind = 3 → n.phase = .running → exec (.nodeComplete k i) s = .next (s.completeNode k i (four (n.w 1)))) ∧
      (n.kind = 2 → n.phase = .running → ∀ bs u, s.ctxRead (s.queue g.queue).tag (n.w 2) (n.w 4).toNat = .ok bs →
        (s.countCtx (s.queue g.queue).tag (n.w 2) (n.w 4).toNat).ctxWrite (s.queue g.queue).tag (n.w 3) bs = .ok u →
        exec (.copyNodeDone k i) s = .next (u.completeNode k i (four (n.w 1)))) ∧
      (g.halted = false → n.phase = .condition → (n.w 2).toNat % 8 = 0 → ∀ bs,
        s.ctxRead (s.queue g.queue).tag (n.w 2) 8 = .ok bs →
        let w := ofBytes bs
        let exits := four (n.w 1)
        let case (d : Nat) : Nat := nth 0xFFFF (exits ++ four (n.w 3)) d
        let v := s.countCtx (s.queue g.queue).tag (n.w 2) 8
        let again := v.setGraph k (g.setNode i { n with phase := .again })
        (n.kind = 4 → exec (.conditionRead k i) s =
          .next (v.completeNode k i (if w ≠ 0 then takeN 2 exits else dropN 2 exits))) ∧
        (n.kind = 6 → exec (.conditionRead k i) s =
          .next (v.completeNode k i [if w < 8 ∧ case w ≠ 0xFFFF then case w else bits (n.w 4) 0 16])) ∧
        (n.kind = 5 → w = 0 ∨ n.maxIter ≤ n.passes → exec (.conditionRead k i) s = .next (v.completeNode k i exits)) ∧
        (n.kind = 5 → w ≠ 0 → n.passes < n.maxIter → g.failed = none →
          ((again.turnOf (g.queue / 256)).map Prod.snd ≠ some g.queue → exec (.conditionRead k i) s = .next again) ∧
          ((again.turnOf (g.queue / 256)).map Prod.snd = some g.queue → again.pick g.queue = some (.node k i) →
            exec (.conditionRead k i) s = .next (again.turn (g.queue / 256))))) ∧
      (∀ l, g.halted = false → bit (n.w 0) 4 = false → (fired l).busy = true →
        (∀ b ∈ (fired l).nodes, ¬(b.kind = 5 ∧ b.tail = i ∧ b.phase = .running)) →
        s.completeNode k i l = s.setGraph k (fired l)) ∧
      (n.redo = false → n.ended = { n with phase := .finished }) ∧
      (∀ b ∈ g.bodyOf i, b < g.nodes.length → b ≠ n.body → ((g.pass i).node b).rcv = 0) ∧
      (i < g.nodes.length → n.rcv < n.ndep → ((g.fire i).node i).rcv = n.rcv + 1 ∧
        (n.phase = .idle → (((g.fire i).node i).phase = .ready ↔ n.rcv + 1 = n.ndep)) ∧
        ∀ j, j ≠ i → (g.fire i).node j = g.node j) ∧
      (n.ndep ≤ n.rcv → g.fire i = g))


/-! ### Links and lockstep -/

/-- R48, R63, R64: a direction that fails carries nothing from then on; its partition is quieted and repairs the oldest
fault first, onto a spare lane where one is free. What happens to messages between the fault and the repair is the model's
reading (log 91). -/
def Sys2Proof.Parts.LinkSteps : Prop :=
  ∀ (s : State) (p q dir tag : Nat) (rest : List (Nat × Nat)), nextPos p dir = some q →
    ((s.router p).broken.contains dir = false → ∃ u : State, exec (.linkFault p dir) s = .next u ∧
      (∀ m ∈ s.net, m.dir = 5 ∨ m.at_ ≠ p → m ∈ u.net) ∧
      ((s.region (regionOf p)).tag = tag → (s.region (regionOf q)).tag = tag → tag ≠ 0 →
        (u.router p).broken = (s.router p).broken ++ [dir] ∧ u.mem = s.mem ∧ u.cores = s.cores ∧
        (u.part tag).broken = (s.part tag).broken ++ [(p, dir)] ∧ ∀ r ∈ maskRegions (s.part tag).regions,
          (u.region r).quiet =
            some { classes := span 0 8, regions := maskRegions (s.part tag).regions, repair := some tag })) ∧
    ((s.part tag).broken = (p, dir) :: rest →
      ((s.region (s.part tag).lead).quiet = none → exec (.routeRepair tag) s = .next (s.quietAll tag)) ∧
      (∀ z, (s.region (s.part tag).lead).quiet = some z → z.repair = some tag → s.isQuiet z = true → rest = [] →
        s.spareFree p dir = true → ∃ u : State, exec (.routeRepair tag) s = .next u ∧
          (u.router p).spare = (s.router p).spare ++ [dir] ∧ (u.router p).broken = (s.router p).broken.filter (· ≠ dir) ∧
          (u.part tag).broken = [] ∧ u.cores = s.cores ∧ ∀ r ∈ z.regions, (u.region r).quiet = none))

/-- R349, R351: a checkpoint copies what the pair has computed and releases what it holds; the first mismatch stops the
pair and is reported; the rollback restores the shadow and discards what is held. What a failure owes keeps neither from
happening, and the operations issued since the checkpoint are dropped with it: the model's reading (log 108, DEDUCED). -/
def Sys2Proof.Parts.LockstepSteps : Prop :=
  ∀ (s : State) (k : Nat),
    let c := s.core k
    let p := corePos k
    (c.pair = .first → c.rollback = false → c.ckptDue = true → c.link = none → s.ctxState (s.region (regionOf p)).tag ≠ 1 → (c.reg.pend.any fun e => e.2) = false →
      ∃ u : State, exec (.lockstepCheckpoint k) s = .next u ∧ (u.core k).shadow.reg = c.reg ∧ (u.core k).shadow.pc = c.pc ∧
        (u.core k).shadow.fcsr = c.fcsr ∧ (u.core k).shadow.seq = c.nextSeq ∧ (u.core k).held = [] ∧ (u.core k).sinceCkpt = 0 ∧ (u.core k).ckptDue = false ∧
        (u.core k).reg = c.reg ∧ (u.core k).pc = c.pc ∧ u.mem = s.mem ∧ u.net = s.net) ∧
    (c.pair = .first → c.ckptDue = true → exec (.lockstepMismatch k) s = .next s) ∧
    (c.pair = .first → c.ch.isSome = true → c.still = false → c.ckptDue = false → s.preempted p = false → c.mismatch = 0 →
      ∃ (u : State) (m : Msg), exec (.lockstepMismatch k) s = .next u ∧ (u.core k).rollback = true ∧ (u.core k).mismatch = 1 ∧
        (u.core k).reg = c.reg ∧ (u.core k).pc = c.pc ∧ u.net = s.net ++ [m] ∧ m.vc = 0 ∧
        m.w0 = header0 (islandPos (regionOf p)) 0 0 0 32 0 ∧ u.mem = s.mem) ∧
    (c.rollback = true → s.settled k = true → ∃ u : State, exec (.lockstepRollback k) s = .next u ∧
      ((c.shadow.reg.pend.any fun e => e.2) = false → (u.core k).reg = c.shadow.reg) ∧
      (u.core k).dispq = (c.dispq.filter fun o => decide (o.seq < c.shadow.seq)) ∧ (u.core k).pc = c.shadow.pc ∧ (u.core k).fcsr = c.shadow.fcsr ∧
      (u.core k).vbase = c.shadow.vbase ∧ (u.core k).abase = c.shadow.abase ∧ (u.core k).pidx = c.shadow.pidx ∧
      (u.core k).tms = c.shadow.tms ∧ (u.core k).fmts = c.shadow.fmts ∧ (u.core k).held = [] ∧
      (u.core k).rollback = false ∧ u.mem = s.mem ∧ u.net = s.net ∧ ∀ j, j ≠ p → u.cluster j = s.cluster j)

/-- R48, R63, R64, R349, R351: a failing link and a failing pair. -/
def Obligations.FailureSteps : Prop := Parts.LinkSteps ∧ Parts.LockstepSteps

/-! ### The engine bay -/

/-- R97, R144, R145: the bay accepts the head of the queue whose turn it is, with the words it reads; the operation has
then read them. -/
def Sys2Proof.Parts.Acceptance : Prop :=
  ∀ (s : State) (pos c : Nat) (op : EngOp) (rest : List EngOp), c < 4 →
    let k := 4 * pos + c
    let cl := s.cluster pos
    let e := (op.engs.head?).getD 0
    s.acceptable k = some (op, rest) → s.bayTurn pos = some c →
    ∃ (u : State) (o : EngOp), exec (.dispatchAccept pos c) s = .next u ∧ (u.core k).dispq = rest ∧
      Tab.get [] (u.cluster pos).inflight e = Tab.get [] cl.inflight e ++ [(c, o)] ∧ o.instr = op.instr ∧ o.reads = [] ∧
      o.writes = op.writes ∧ o.rm = op.rm ∧ (∀ w ∈ wordsIn op.reads, Tab.get 0 o.got w = (s.core k).reg.word w) ∧
      (u.core k).reg.words = (s.core k).reg.words ∧ (u.core k).reg.empty = (s.core k).reg.empty ∧
      (u.cluster pos).arb = c ∧ u.mem = s.mem ∧ u.net = s.net

/-- R94, R101, R266: an operation that completes leaves the bay with its words full and its flags merged; one that
faults sets its progress index and makes a G cause due, and its destination words stay as they are. -/
def Sys2Proof.Parts.OperationEnds : Prop :=
  ∀ (s : State) (pos e k : Nat) (op : EngOp), s.running pos e = some (k, op) → (s.core k).stopped = 0 →
    let r := s.runOp k op none
    (isZdgo op.instr = false → r.how = .complete → ∃ u : State, exec (.engineOpComplete pos e) s = .next u ∧
      u = r.s.completeOp pos e k r.op ∧ (u.core k).fcsr = (r.s.core k).fcsr ||| ((r.op.flags.setWidth 64) <<< 8) ∧
      ∀ w ∈ wordsIn r.op.writes, (u.core k).reg.isPend w = false) ∧
    (e = 6 → isZdgo op.instr = true → r.how = .complete → exec (.zdJobEnd pos) s = .next (r.s.completeOp pos 6 k r.op)) ∧
    (∀ cause a, r.how = .faulted cause a → ∃ u : State, exec (.engineFault pos e) s = .next u ∧
      (u.core k).due = (r.s.core k).due ++
        [{ kind := 3, cause := cause, pc := r.op.pc, addr := a, unit := e
           op := { r.op with writes := ((wordsIn r.op.writes).filter (r.s.core k).reg.isPend).map fun w => (w, 1) } }] ∧
      Tab.get 0 (u.core k).pidx e = pidxWord r.op.prog ∧ (u.core k).reg = (r.s.core k).reg ∧ u.mem = r.s.mem)

/-- R286, R287: the integer lane operations modulo 2^w and the bitwise operations, as their completion writes them. -/
def Sys2Proof.Parts.LaneResults : Prop :=
  ∀ (s : State) (pos k : Nat) (op : EngOp) (ty : BitVec 3) (vb va vd : BitVec 5), s.running pos 2 = some (k, op) →
    (s.core k).stopped = 0 → op.engs = [2] → op.vbase % 8 = 0 → 8 ≤ op.vbase →
    let x := op.num (vbyte op.vbase va.toNat) 256
    let y := op.num (vbyte op.vbase vb.toNat) 256
    let out (u : State) : Nat := ofBytes ((u.core k).reg.bytes (vbyte op.vbase vd.toNat) 256)
    (ty.toNat < 3 → let w := 8 * 2 ^ ty.toNat
      ∀ p ∈ [((.vadd : BitVec 3 → BitVec 5 → BitVec 5 → BitVec 5 → Instr), fun a b : Nat => a + b),
          (.vsub, fun a b => a + 2 ^ w - b), (.vmul, fun a b => a * b)],
        op.instr = p.1 ty vb va vd → ∃ u : State, exec (.engineOpComplete pos 2) s = .next u ∧ u.mem = s.mem ∧
          ∀ j, j < 2048 / w → out u / 2 ^ (w * j) % 2 ^ w = p.2 (x / 2 ^ (w * j) % 2 ^ w) (y / 2 ^ (w * j) % 2 ^ w) % 2 ^ w) ∧
    (∀ p ∈ [((.vand : BitVec 5 → BitVec 5 → BitVec 5 → Instr), fun a b : Nat => a &&& b), (.vor, fun a b => a ||| b),
        (.vxor, fun a b => a ^^^ b)],
      op.instr = p.1 vb va vd → ∃ u : State, exec (.engineOpComplete pos 2) s = .next u ∧ u.mem = s.mem ∧
        ∀ j, j < 32 → ((u.core k).reg.word (vbyte op.vbase vd.toNat / 8 + j)).toNat =
          p.2 (x / 2 ^ (64 * j) % 2 ^ 64) (y / 2 ^ (64 * j) % 2 ^ 64))

/-- R144, R145, R266, R286, R287: operations are accepted, complete and fault. -/
def Obligations.OperationSteps : Prop := Parts.Acceptance ∧ Parts.OperationEnds ∧ Parts.LaneResults

/-- R149-R153, R155-R157: a wake that ends grants the lease with its handle word; an expired window takes the lease, a
yielded one is released; an engine left warm is gated. -/
def Obligations.BaySteps : Prop :=
  ∀ (s : State) (pos e kc : Nat) (x : Engine), kc < 4 → e < 8 →
    let cl := s.cluster pos
    let k := 4 * pos + kc
    let c := s.core k
    let l := c.lease e
    let after (u : State) : Lease := (u.core k).lease e
    (∀ prio warm boost, cl.units ≤ s.allowance pos → x.power = .waking (some kc) prio warm boost → cl.engs = [(e, x)] →
      cl.leaseQ = [{ core := kc, eng := e, prio := prio }] → cl.demand = none →
      let gen := (Tab.get 0 cl.gens e + 1) % 2 ^ 32
      let h := handleWord gen warm boost prio e
      ∃ u : State, exec (.leaseGrant pos e) s = .next u ∧ ((u.cluster pos).eng e).power = .held kc ∧
        Tab.get 0 (u.cluster pos).gens e = gen ∧ (u.cluster pos).leaseQ = [] ∧ after u = { l with st := .held, handle := h } ∧
        (u.core k).reg = c.reg.put l.rd h ∧ u.mem = s.mem ∧ u.net = s.net) ∧
    (x.power = .held kc → cl.engs = [(e, x)] → cl.leaseQ = [] → cl.demand = none →
      (l.st = .grace → l.yielding = false → c.stopped = 0 → s.opsOf k = [] → ∀ n, ∃ u : State, exec (.graceExpiry pos e n) s = .next u ∧
        (after u).st = .lost ∧ ((u.cluster pos).eng e).power = .warm ∧ (u.core k).pc = c.pc ∧ u.mem = s.mem ∧ u.net = s.net) ∧
      (l.yielding = true → s.opsOn k e = [] → ∃ u : State, exec (.leaseRelease pos e) s = .next u ∧ (after u).st = .none ∧
        (after u).yieldDone = some 1 ∧ ((u.cluster pos).eng e).power = .warm ∧ (u.core k).reg = c.reg ∧ u.mem = s.mem ∧
        u.net = s.net)) ∧
    ((cl.eng e).power = .warm → exec (.engineGate pos e) s = .next (s.setEng pos e { cl.eng e with power := .gated }))


/-! ### Power and heat -/

/-- R160, R162-R168: an evaluation moves the chest, BOOST, HOLD and the clusters' copies; 110 °C stops a region's clusters
and makes the trap of their cores due; operating points, votes, rails and stacks follow their rules. The model's own: the
trap is due on every core at once (log 33), what a throttled stack delivers is a free value (log 34), a partition exits when
all its queues are torn down, and a vote that falls otherwise needs no acknowledgement (log 118). -/
def Obligations.PowerSteps : Prop :=
  ∀ (s : State) (r k rail stack point mw deg : Nat),
    let g := s.region r
    let c := s.core k
    let rk := regionOf (corePos k)
    let t := (s.revote (2 * rail)).revote (2 * rail + 1)
    let x := t.rail rail
    let v := max (t.region (2 * rail)).vote (t.region (2 * rail + 1)).vote
    let st : Stack := Tab.get {} s.edgeStacks stack
    let shared : Prop := ∀ tag ∈ Tab.keys s.parts, Tab.get 0 (s.part tag).shares stack = 0
    (∃ u : State, exec (.powerEvaluation r mw deg) s = .next u ∧
      (u.region r).chest = (if mw < 750000 then min 90000000 (g.chest + (750000 - mw) * 16384 / 1500000)
        else g.chest - (mw - 750000) * 16384 / 1500000) ∧
      ((u.region r).boost = true ↔ if g.boost then (u.region r).chest ≠ 0 else 9000000 ≤ (u.region r).chest) ∧
      ((u.region r).hold = true ↔ 900000 < mw ∨ ((u.region r).chest = 0 ∧ 750000 < mw) ∨ 95 ≤ deg ∨
        (g.hold = true ∧ ¬(mw ≤ 850000 ∧ deg ≤ 90))) ∧
      (u.region r).evaluation = (g.evaluation + 1) % 65536 ∧ u.mem = s.mem ∧ u.net = s.net ∧
      ((u.region r).boost = g.boost → u.cores = s.cores ∧
        ∀ p ∈ regionClusters r, (u.cluster p).qpwr = powerWord (u.region r) (s.rail (r / 2)).mv ∧
          (u.cluster p).qopp = (span (4 * p) 4).map fun j => (s.core j).opp)) ∧
    (110 ≤ deg → ∃ u : State, exec (.thermalTrip r deg) s = .next u ∧ (u.region r).thermal = true ∧
      ∀ p ∈ regionClusters r, s.inService p = true → g.tag ∈ (u.cluster p).hardTags ∧ ∀ j ∈ span (4 * p) 4,
        (u.core j).reg = (s.core j).reg ∧ (u.core j).pc = (s.core j).pc ∧ ((s.core j).pair ≠ .second →
          (u.core j).due = (s.core j).due ++ [{ kind := 4, cause := cTHERMAL_TRIP }])) ∧
    (c.ch = none → c.oppNew = none → exec (.operatingPointChange k (min 4 (s.partOf rk).target)) s =
      .next ((s.setCore k { c with oppNew := some (min 4 (s.partOf rk).target) }).revote rk)) ∧
    (g.tag = 0 → (g.vote ≤ 850 ∨ g.withdrawn = true → ((s.revote r).region r).vote = 850) ∧
      (850 < g.vote → g.withdrawn = false → ((s.revote r).region r).vote = g.vote)) ∧
    (g.tag ≠ 0 → g.withdrawn = false → ∀ p ∈ regionClusters r, s.isRetired p = false → ∀ j ∈ span (4 * p) 4,
      voteOf (s.core j).opp ≤ ((s.revote r).region r).vote) ∧
    (c.oppNew = some point → voteOf point ≤ (s.rail (rk / 2)).mv → exec (.operatingPointDone k) s =
      .next ((s.setCore k { c with opp := point, oppNew := none }).revote rk)) ∧
    (x.mv ≤ v → exec (.railEvaluation rail) s = .next (t.setRail rail { x with mv := v, slewing := false })) ∧
    (v < x.mv → x.asked = true → x.acked = false →
      exec (.railEvaluation rail) s = .next (t.setRail rail { x with slewing := false })) ∧
    (v < x.mv → (x.asked = true → x.acked = true) →
      (x.slewing = false → exec (.railEvaluation rail) s = .next (t.setRail rail { x with slewing := true })) ∧
      (x.slewing = true → v + 50 < x.mv →
        exec (.railEvaluation rail) s = .next (t.setRail rail { x with mv := x.mv - 50 })) ∧
      (x.slewing = true → x.mv ≤ v + 50 → exec (.railEvaluation rail) s =
        .next (t.setRail rail { mv := v, slewing := false, asked := false, acked := false }))) ∧
    (s.exits r = true → g.withdrawn = false → (∀ p ∈ regionClusters r, ∀ j ∈ span (4 * p) 4, (s.core j).ch = none) →
      exec (.voteWithdraw r) s = .next ((s.setRegion r { g with vote := 850, withdrawn := true, exit := s.leaver r }).setRail (r / 2)
        { s.rail (r / 2) with asked := true, acked := false })) ∧
    (s.exits r = false ∨ g.withdrawn = true → exec (.voteWithdraw r) s = .next s) ∧
    ((s.rail rail).asked = true →
      exec (.ldoAcknowledge rail) s = .next (s.setRail rail { s.rail rail with acked := true })) ∧
    (85 ≤ deg → st.throttled = false → shared → ∃ n, n ≤ 3000 ∧ exec (.stackThrottle stack deg) s =
      .next { s with free := s.free + 1, edgeStacks := Tab.put s.edgeStacks stack { st with throttled := true, deliverable := n } }) ∧
    (deg ≤ 80 → st.throttled = true → shared → exec (.stackRestore stack deg) s =
      .next { s with edgeStacks := Tab.put s.edgeStacks stack { st with throttled := false, deliverable := 3000 } })

/-! ### The copy engine -/

/-- R239-R242: a channel parks on OWN 0, faults a record that fails its checks, starts one that passes; a sector moves its
bytes and sets its DONEMAP bit; a fault leaves the channel in FAULT with its cause. That a sector reads at once all that it
writes, and reads before it writes, are the model's choices (logs 10, 66). -/
def Obligations.CopySteps : Prop :=
  ∀ (s : State) (p h i : Nat), h < 4 →
    let x := (s.cluster p).chan h
    let k := x.core p
    let a := ownHome k x.addr
    let r := s.ownRecord p (wordsOf (Mem.readBytes s.mem a 64) 8)
    let t : TMap := Tab.get 0 (s.core k).tms (recTm r)
    let chan (u : State) : Chan := (u.cluster p).chan h
    (s.preempted p = false → s.eccSoft = [] → x.st = .active → x.started = false → x.addr.toNat % 64 = 0 → recordSpot x.addr = true →
      x.cache = [] → s.badAt a 64 = false → x.restart = false → x.inNotify = false →
      (bit (nth 0 r 0) 0 = false → exec (.recordStart p h) s = .next (s.setChan p h { x with st := .parked })) ∧
      (bit (nth 0 r 0) 0 = true → ∀ c, recFault r t = some c → ∃ (u : State) (m : Msg), exec (.recordStart p h) s = .next u ∧
        (chan u).st = .fault ∧ (chan u).cause = c ∧ u.net = s.net ++ [m] ∧ m.vc = 0 ∧ u.mem = s.mem) ∧
      (bit (nth 0 r 0) 0 = true → recFault r t = none →
        (∃ j, j < 64 ∧ j < recCount r t ∧ bit (nth 0 r 7) j = false) → ∃ u : State, exec (.recordStart p h) s = .next u ∧
          (chan u).st = .active ∧ (chan u).started = true ∧ (chan u).record = r ∧
          (∀ j, j < 64 → ((chan u).doneSector j = true ↔ bit (nth 0 r 7) j = true ∨ recCount r t ≤ j)) ∧ u.mem = s.mem ∧
          u.cores = s.cores ∧ u.net = s.net)) ∧
    (∀ u, s.sector p h i = some (none, u) →
      let y := chan u
      let y' := { y with sectors := Tab.put y.sectors i .complete }
      y.issued = none → y'.progress ≠ 64 → exec (.sectorComplete p h i) s =
        .next (u.setChan p h { y' with prog := min y'.progress (recCount y.record y.tm) })) ∧
    (∀ c b u, s.sector p h i = some (some (c, b), u) →
      let left := x.flying.filter (· ≠ i)
      ∃ w, exec (.sectorFault p h i) s = .next w ∧
        (x.failing = none → left = [] → (chan w).st = .fault ∧ (chan w).cause = c) ∧
        (left ≠ [] → x.progress ≠ 64 → (chan w).st = .active ∧ (chan w).failing = some (x.failing.getD (c, b)) ∧
          (chan w).issued = some left)) ∧
    (∀ (hits : List (Nat × Nat)) (rc : List Word) (tm : TMap) (lo n : Nat) (bs : List Byte) (u : State × List (Nat × Nat)),
      s.eccSoft = [] → s.fabric.joined = false → recSkind rc = 0 → recDkind rc = 0 → s.engineRead k (nth 0 rc 2 + BitVec.ofNat 64 lo) n = .ok bs →
      (s.performed k .read (nth 0 rc 2 + BitVec.ofNat 64 lo) n).engineStore hits k (nth 0 rc 3 + BitVec.ofNat 64 lo) bs = .ok u → s.sectorWrite hits k rc tm lo n = (none, u.2, u.1))

/-! ### Headboxes -/

/-- R250-R252: a port starts its next descriptor, sends its blocks as VC4 messages, and a pattern writes the blocks that
are its own as they pass. -/
def Obligations.HeadboxSteps : Prop :=
  ∀ (s : State) (port pos i tag : Nat),
    let hp := s.hbPort port
    let head := s.readMem (hbRing port + 0x208) 4
    let d := wordsOf (Mem.readBytes s.mem (hbRing port + 32 * (head % 16)) 32) 4
    let blk := bits (nth 0 d 1) 32 16
    s.hbActive port = some tag → s.eccSoft = [] →
    (hp.burst = none → s.badAt (hbRing port + 0x200) 12 = false → s.badAt (hbRing port + 32 * (head % 16)) 32 = false → head ≠ s.readMem (hbRing port + 0x200) 4 →
      bits (nth 0 d 0) 48 16 = 0 → bits (nth 0 d 1) 48 16 = 0 → bits (nth 0 d 2) 7 57 = 0 → nth 0 d 3 = 0 →
      blk % 64 = 0 → 64 ≤ blk → blk ≤ 65472 → bits (nth 0 d 1) 0 32 ≠ 0 →
      exec (.burstStart port) s = .next (s.setHbPort port { hp with
        burst := some { src := nth 0 d 0, len := bits (nth 0 d 1) 0 32, blk := blk, far := bits (nth 0 d 2) 0 7, next := 0 } })) ∧
    (∀ b bs, hp.burst = some b →
      s.ctxRead tag (BitVec.ofNat 64 (2 ^ 48 + (b.src.toNat + b.next * b.blk) % 2 ^ 48)) b.blk = .ok bs →
      b.next * b.blk + b.blk < b.len → ∃ (u : State) (m : Msg), exec (.headboxBlockSend port) s = .next u ∧ u.net = s.net ++ [m] ∧
        m.vc = 4 ∧ m.at_ = hbRouter port ∧ m.body = bs ∧ m.w0 = header0 (posOf b.far (posY (hbRouter port))) 0 4 0 b.blk 0 ∧
        m.w1 = header1 (hbRouter port) 0 b.next tag ||| fields [(40, b.next / 65536 % 65536)] ∧
        (u.hbPort port).burst = some { b with next := b.next + 1 } ∧ u.mem = s.mem ∧ u.cores = s.cores) ∧
    (∀ w, let m := nth {} s.net i
      i < s.net.length → m.at_ = pos → m.vc = 4 → m.dir ≠ 5 → m.ran = false → s.behind i m = false → s.pattern pos m = some w →
      m.body.length ≤ patStride w →
      let b := bits m.w1 16 16 + 65536 * bits m.w1 40 16
      let a := (if bit w 11 then spadHome pos else tcmHome (4 * pos + bits w 9 2)) +
        (patDoff w + b / (bits w 1 4 + 1) % patSlots w * patStride w)
      let t : State := { s with net := setNth s.net i { m with ran := true } }
      exec (.headboxBlockTake pos i) s = .next ((t.countSent pos 4 4 m.flits).engineWrite a m.body) ∧
        ((t.countSent pos 4 4 m.flits).engineWrite a m.body).mem = Mem.writeBytes s.mem a m.body ∧
        Tab.get 0 ((t.countSent pos 4 4 m.flits).router pos).sent 36 = (Tab.get 0 (s.router pos).sent 36 + m.flits) % 2 ^ 32)


/-! ### Traps, pre-emption, islands -/

/-- R93, R266, R331, R333, R334, R338: a cause that is due is taken; RESUME answers a precise trap by running its
instruction again, after a flag trap with its event to the tenant and the enabled flags cleared, going past it, going
elsewhere with s63 set, once its earlier accesses are over, or ending the activation; it answers a failed store by giving it
back to the buffer, a fault of an engine by giving the operation back to the engine. The model's own: the trap message
leaves the island's queue with the answer (log 44), and the standard response to a flag comes with RETRY (log 136). -/
def Obligations.ResumeSteps : Prop :=
  ∀ (s : State) (k : Nat) (target : Word),
    let c := s.core k
    c.pair = .alone →
    (∀ d, c.still = false → c.ends = false → s.preempted (corePos k) = false → c.due = [d] →
      exec (.trapTake k) s = .next ((s.setCore k { c with due := [] }).takeTrap k (s.dueCause k d))) ∧
    (∀ t, c.trapped = some t →
      (t.kind = 0 ∨ t.kind = 2 →
        let goes (d : Core) (pc : Word) : State :=
          let d' := if pc = d.pc then { d with blocked := none } else d.leave
          (s.setCore k { d' with trapped := none, pc := pc, came := none }).takeMessage k
        let tag := (s.region (regionOf (corePos k))).tag
        (t.kind = 0 ∨ (s.part tag).flagPolicy = true → exec (.resumeRetry k) s = .next (goes c t.pc)) ∧
        (t.kind = 2 → (s.part tag).flagPolicy = false → isCore k = true → ∃ (u : State) (m : Msg), exec (.resumeRetry k) s = .next u ∧
          (u.core k).trapped = none ∧ (u.core k).pc = t.pc ∧ (u.core k).reg = c.reg ∧
          (∀ i, i < 64 → bit (u.core k).fcsr i = (bit c.fcsr i && !(decide (8 ≤ i ∧ i < 14) && bit c.fcsr (i + 8)))) ∧
          (u.part tag).eseq = ((s.part tag).eseq + 1) % 2 ^ 32 ∧
          m ∈ Tab.get [] (u.region (s.part tag).lead).inq 0 ∧ bits m.w0 19 5 = chEvent ∧
          (∃ w1 : Word, m.body = bytesOf [fields [(0, (u.part tag).eseq), (32, 4), (36, tag)], w1, nth 4 t.frame 0, t.pc] ∧
            bits w1 0 7 = posX (corePos k) ∧ bits w1 7 7 = posY (corePos k) ∧ bits w1 14 2 = coreNo k)) ∧
        exec (.resumeNext k) s = .next (goes c (s.afterTrap k t.pc)) ∧
        (s.writeWaits k 63 = false →
          exec (.resumeGoto k target) s = .next (goes { c with reg := c.reg.put 63 t.pc } target)) ∧
        (s.writeWaits k 63 = true → exec (.resumeGoto k target) s = .next (goes { c with link := some t.pc } target))) ∧
      (t.kind = 1 → t.due.slot.store = true → c.due = [] → exec (.resumeRetry k) s = .next ((s.setCore k { c with
        sbHeld := none, sbuf := placeFailed t.due.slot.failed c.sbuf, trapped := none, blocked := none }).takeMessage k)) ∧
      (∀ op, t.kind = 3 → t.due.cause ≠ cLEASE_LOST → c.stuckOn t.due.unit = some op →
        ∃ u : State, exec (.resumeRetry k) s = .next u ∧ (u.core k).trapped = none ∧ (u.core k).pc = c.pc ∧ (u.core k).reg = c.reg ∧
          Tab.get [] (u.cluster (corePos k)).inflight t.due.unit =
            (coreNo k, { op with early := op.early.map fun _ => s.mem }) ::
              Tab.get [] (s.cluster (corePos k)).inflight t.due.unit ∧
          pidxValid (Tab.get 0 (u.core k).pidx t.due.unit) = false ∧ u.mem = s.mem) ∧
      (∀ ch, t.kind ≠ 1 → c.due = [] → c.stuck = [] → c.sbHeld = none → s.quiet k = true → c.ch = some ch →
        (s.cluster (corePos k)).traceOn = false → (∀ vc, s.inq (corePos k) vc = []) → ∃ u : State, exec (.resumeEnd k false) s = .next u ∧
          (u.core k).trapped = none ∧ (u.core k).ch = none ∧ ((u.core k).hand ch).life = .filling ∧
          ((u.core k).hand ch).counts = [0, 0, 0, 0] ∧ (u.core k).reg = c.reg ∧ u.mem = s.mem ∧ u.net = s.net)) ∧
    (∀ a (h : Nat), bit a 0 = false → s.codeHalf k a = some h →
      s.afterTrap k a = if halfClass h = 3 then a + 4 else a + 2)

/-- R341, R343, R345, R357: a partition whose leases are lost and that has drained is saved cluster by cluster and its
context is SAVED; until then nothing is written, nor are leases lost before every core is at rest; a cluster's image
holds its cores, and they are left empty; a restore puts every image back and its context is RUNNING. The image is the
model's data (log 65), and a cluster is torn where its memory or its save area holds a bad word (log 112). -/
def Obligations.PreemptionSteps : Prop :=
  ∀ (s : State) (tag : Nat) (torn : List Nat), (s.part tag).regions ≠ 0 →
    let ps := s.partClusters tag
    let bad := ps.filter fun p => torn.contains p || s.saveTorn tag p
    (s.ctxState tag = 1 → (s.part tag).released = true →
      (s.launches = [] → s.drainedOf tag = true → exec (.preemptDrainEnd tag torn) s =
        .next ((ps.foldl (fun s p => s.saveCluster tag bad p) s).setCtx tag 2 (bad.length % 65536))) ∧
      (s.drainedOf tag = false → exec (.preemptDrainEnd tag torn) s = .next s)) ∧
    (s.ctxState tag = 1 → (s.part tag).released = false → (∃ p ∈ ps, ∃ k ∈ span (4 * p) 4, (s.core k).atRest (s.ldfeBefore k (s.core k).nextSeq) = false) →
      exec (.preemptDrainEnd tag torn) s = .next s) ∧
    (∀ p, bad.contains p = false →
      let u := s.saveCluster tag bad p
      let im : Image := Tab.get {} u.images p
      im.tag = tag ∧ im.torn = false ∧ im.cores = (span (4 * p) 4).map s.core ∧ im.messages = (s.cluster p).captured ∧
      im.cluster.bars = (s.cluster p).bars ∧ (∀ i, i < 4 → (u.core (4 * p + i)).reg = {} ∧ (u.core (4 * p + i)).ch = none) ∧
      (u.cluster p).bars = [] ∧ ∀ j, corePos j ≠ p → u.core j = s.core j) ∧
    (∀ p im, Tab.get none (s.images.map fun e => (e.1, some e.2)) p = some im → im.tag = tag → im.torn = false →
      im.cores.length = 4 → (∀ c ∈ im.cores, c.ch = none ∧ c.trapped = none ∧ c.pair = .alone) →
      ∀ i, i < 4 →
        let c : Core := nth {} im.cores i
        let d := (s.restoreCluster tag p).core (4 * p + i)
        d.reg = c.reg ∧ d.pc = c.pc ∧ d.fcsr = c.fcsr ∧ d.pidx = c.pidx ∧ d.leases = c.leases ∧ d.cycle = c.cycle ∧
          d.instret = c.instret ∧ d.tfcount = c.tfcount) ∧
    (s.ctxState tag = 3 → (∀ p ∈ ps, s.pointHolds p = false) → exec (.restoreComplete tag) s = .next ((ps.foldl (fun s p => s.restoreCluster tag p) s).setCtx tag 0
      (bits (s.readWord (ctxHomeOf (s.part tag) tag)) 16 16))) ∧
    (∀ t : State, t.Inv → ∀ st n, st < 16 → n < 65536 → (t.setCtx tag st n).ctxState tag = st)

/-- R353, R354: an island core enters the handler of its cause or of its lowest pending event; the timer and its compare
word move; a wedged core starts again in S mode at depth 0. -/
def Obligations.IslandSteps : Prop :=
  ∀ (s : State) (k r cause n e : Nat) (v : Word),
    let c := s.icore k
    (c.wedged = false → islandCause cause = true → exec (.islandTrapEntry k cause v) s =
      .next (s.islandEnter k cause (8 * cause) v (if cause = cUSER_TRAP then c.pc + 4 else c.pc))) ∧
    (c.wedged = false → bit c.kstat 1 = true → e < 3 → (s.kevt k).testBit e = true → (∀ i, i < e → (s.kevt k).testBit i = false) →
      exec (.islandEventEntry k) s = .next (s.islandEnter k (128 + e) (0x300 + 8 * e) 0 c.pc)) ∧
    exec (.islandTimer r n) s = .next (s.setRegion r { s.region r with ktime := (s.region r).ktime + BitVec.ofNat 64 n }) ∧
    exec (.ktcmpWrite k v) s = .next (s.setICore k { c with ktcmp := v }) ∧
    (c.wedged = true → exec (.wedgedCoreRestart k v) s =
      .next (s.setICore k { c with wedged := false, pc := v, came := none, blocked := none, kstat := 1 }))

/-! ### The debug hub -/

/-- The ports that a hub request to the cluster at `p` and its reply leave by, as position and port, where no router drops
one of them (17: R358; 03: R398). -/
def Sys2Proof.Machine.State.hubWay (s : State) (p : Nat) : List (Nat × Nat) :=
  let i := islandPos (regionOf p)
  (s.path 1 0xFF p 512 i).1 ++ (s.path 1 0xFF i 512 p).1

/-- The hub reaches the cluster at `p`: VC1 is not being quieted, and no router drops the request or the reply. -/
def Sys2Proof.Machine.State.hubReaches (s : State) (p : Nat) : Prop :=
  let i := islandPos (regionOf p)
  s.quieted p 1 = false ∧ (s.path 1 0xFF p 512 i).2 = none ∧ (s.path 1 0xFF i 512 p).2 = none

/-- A hub request to the cluster at `p` has the effect that makes `t` of `s`, and its reply brings `ws`: the request and the
reply are one flit of VC1 on each port that they leave by, and nothing else changes (R372). -/
def Sys2Proof.Machine.State.hubDid (s t : State) (p : Nat) (ws : List (List Word)) (o : Out) : Prop :=
  ∃ u : State, o = .next u ∧ u = { t with routers := u.routers, regions := u.regions } ∧
    (∀ r, u.region r = if r = regionOf p then { t.region r with hubReplies := (t.region r).hubReplies ++ ws } else t.region r) ∧
    ∀ q, u.router q = { t.router q with sent := (u.router q).sent } ∧ ∀ j, Tab.get 0 (u.router q).sent j =
      (let n := (s.hubWay p).countP fun l => l.1 = q && 8 * l.2 + 1 = j
       if n = 0 then Tab.get 0 (t.router q).sent j else (Tab.get 0 (t.router q).sent j + n) % 2 ^ 32)

/-- R358-R366, R372, R395: reads and writes by the hub, stops, steps and their end; the stop record of R362. The model's own:
a hub write of a scratchpad word leaves its full bit alone (log 50), one to a core of a pair writes both (log 142), the hub's
messages are one flit each and pass at once, a hard stop is one flit, a cluster's stops name it in 8 bytes (log 134). -/
def Obligations.DebugSteps : Prop :=
  ∀ (s : State) (r p k n skid mask : Nat) (v : Word),
    let c := s.core k
    let cl := s.cluster p
    let told (u : State) : Prop := (u.cluster p).covers = dedup (cl.covers ++ s.covered p mask) ∧
      (u.cluster p).clusterStops = cl.clusterStops ++ [p] ∧
      u.net = s.net ++ ((s.covered p mask).filter (· ≠ p)).map (fun q =>
        { vc := 1, w0 := header0 q 0 1 4 8 0, w1 := header1 p 0 0 0xFF, body := toBytes 8 p, at_ := p, dir := 5,
          uncounted := true }) ∧
      (∀ j ∈ span (4 * p) 4, (s.core j).stopped = 0 → (s.core j).received = none →
        (u.core j).received = some (s.core j).instret.toNat) ∧ u.mem = s.mem
    let at_ := sramHome (regionOf (corePos k)) + 0xF80000 + 16 * (4 * localIndex (corePos k) + coreNo k)
    let recorded (u : State) (ws : List Word) : Prop := u.mem = Mem.writeBytes s.mem at_ (bytesOf ws)
    let paused : Nat := (span 0 8).foldl (fun a e => a +
      b2n (((s.cluster (corePos k)).inflightOf (coreNo k)).any fun o => longOp o.instr && o.engs.contains e) * 2 ^ e) 0
    (∀ place w full, s.hubValue r place = some (w, full) → s.hubReaches (hubPos place) →
      s.hubDid s (hubPos place) [[w, fields [(0, b2n full)]]] (exec (.hubRead r place) s)) ∧
    (∀ place, s.hubValue r place = none ∨ s.quieted (hubPos place) 1 = true →
      exec (.hubRead r place) s = .next s ∧ exec (.hubWrite r place v) s = .next s) ∧
    (∀ place x q, (s.hubValue r place).isSome = true → s.quieted (hubPos place) 1 = false →
      (s.path 1 0xFF (hubPos place) 512 (islandPos (regionOf (hubPos place)))).2 = some (x, q) →
      ∃ (u : State) (m : Msg), exec (.hubWrite r place v) s = .next u ∧ u.net = s.net ++ [m] ∧ m.vc = 0 ∧ m.at_ = q ∧
        nth 0 (wordsOf m.body 4) 0 = fields [(0, x), (7, posX q), (14, posY q)] ∧ u.cores = s.cores ∧ u.clusters = s.clusters ∧
        u.mem = s.mem) ∧
    (isCore k = true → regionOf (corePos k) = r → s.open_ k = true → n < 2048 →
      s.hubValue r (.regWord k n) = some (c.reg.word n, !c.reg.isEmpty n) ∧
      (s.hubReaches (corePos k) → c.reg.isPend n = false →
        (c.pair = .alone → s.hubDid (s.setCore k { c with reg := c.reg.put n v }) (corePos k) []
          (exec (.hubWrite r (.regWord k n) v) s)) ∧
        (c.pair = .first → (s.core (k + 1)).reg.isPend n = false →
          s.hubDid ((s.setCore k { c with reg := c.reg.put n v }).setCore (k + 1)
            { s.core (k + 1) with reg := (s.core (k + 1)).reg.put n v }) (corePos k) []
          (exec (.hubWrite r (.regWord k n) v) s)))) ∧
    (isCluster p = true → regionOf p = r → s.hubReaches p → n < 131072 →
      s.hubDid (s.writeWord (spadHome p + 8 * n) v) p [] (exec (.hubWrite r (.spadWord p n) v) s)) ∧
    (s.hubReaches p → s.hubDid (s.setCluster p { cl with soft := true }) p [] (exec (.softStop p) s)) ∧
    (cl.soft = true → (s.region (regionOf p)).softDone.contains p = false → (∀ j ∈ span (4 * p) 4, (s.core j).ch = none) →
      exec (.softStopComplete p) s = .next (s.setRegion (regionOf p)
        { s.region (regionOf p) with softDone := (s.region (regionOf p)).softDone ++ [p] })) ∧
    (s.hubReaches p → ∃ t, s.hubDid t p [] (exec (.clusterStop p mask) s) ∧ told t ∧ (t.cluster p).pendStops = cl.pendStops ∧
      t.casts = s.casts) ∧
    (∀ act rest, cl.pendStops = (act, mask) :: rest → ∃ u : State, exec (.watchpointStop p) s = .next u ∧
      (u.cluster p).pendStops = rest ∧ (act = 2 → told u ∧ u.casts = s.casts) ∧
        (act ≠ 2 → u.casts = s.casts ++ [{ tag := (s.region (regionOf p)).tag, origin := p, left := span 0 12288 }] ∧
          u.net = s.net ∧ u.cores = s.cores)) ∧
    (∀ x, s.casts = [x] → x.left = [p] → isCluster p = true → (p = x.origin ∨ (s.castLink x p).isSome = true) →
      (x.tag = 0xFF ∨ x.tag = (s.region (regionOf p)).tag) → cl.hardTags = [] → ∃ u : State, exec (.hardStopReceive p 0) s = .next u ∧
        u.casts = [] ∧ (u.cluster p).hardTags = [x.tag] ∧ u.mem = s.mem ∧ u.net = s.net ∧
        Tab.get 0 (u.router p).sent 32 = (Tab.get 0 (s.router p).sent 32 + 1) % 2 ^ 32 ∧
        (p ≠ x.origin → ∀ q d, s.castLink x p = some (q, d) →
          Tab.get 0 (u.router q).sent (8 * d) = (Tab.get 0 (s.router q).sent (8 * d) + 1) % 2 ^ 32) ∧
        ∀ j ∈ span (4 * p) 4, (s.core j).stopped = 0 → (s.core j).received = none →
          (u.core j).received = some (s.core j).instret.toNat) ∧
    (∀ m rest, s.casts = [] → s.inq p 1 = m :: rest → ∃ u : State, exec (.hardStopReceive p 0) s = .next u ∧ u.inq p 1 = rest ∧
      (u.cluster p).clusterStops = cl.clusterStops ++ [ofBytes m.body] ∧ u.mem = s.mem ∧ u.net = s.net ∧
      ∀ j ∈ span (4 * p) 4, (s.core j).stopped = 0 → (s.core j).received = none →
        (u.core j).received = some (s.core j).instret.toNat) ∧
    (c.stopped = 0 → c.rollback = false → c.pair ≠ .second → c.recvTrapped = false → c.blocked ≠ some .copy →
      c.tripDue = false → c.stream = [] →
      ∀ m, c.received = some m → skid = (c.instret.toNat + 2 ^ 64 - m) % 2 ^ 64 → (s.cluster (corePos k)).hardTags ≠ [] →
      ∃ u : State, exec (.coreStop k skid) s = .next u ∧ (u.core k).stopped = 1 ∧ (u.core k).received = none ∧
        (u.core k).stopCount = (c.stopCount + 1) % 2 ^ 32 ∧ (u.core k).reg = c.reg ∧ (u.core k).pc = c.pc ∧ u.net = s.net ∧
        (c.pair = .alone → recorded u [fields [(0, 1), (7, b2n c.ch.isSome), (8, paused), (16, skid), (32, (c.stopCount + 1) % 2 ^ 32)],
          if c.ch.isSome then c.pc else 0])) ∧
    (c.stopped ≠ 0 → c.trapped = none → c.pair ≠ .second → c.ch.isSome = true → c.rollback = false →
      s.preempted (corePos k) = false → s.hubReaches (corePos k) →
      (c.stepping = false → c.stepFrame = false → s.hubDid (s.setCore k { c with stepping := true, stepSeq := c.nextSeq })
        (corePos k) [] (exec (.step k) s)) ∧
      (c.stepping = true ∨ c.stepFrame = true →
        s.hubDid (s.setCore k { c with steps := c.steps + 1 }) (corePos k) [] (exec (.step k) s))) ∧
    (c.pair = .second → (s.core (k - 1)).pair = .first → k % 2 = 1 → exec (.step k) s = exec (.step (k - 1)) s) ∧
    (c.stopped ≠ 0 → c.trapped = none → c.pair = .alone → c.stepping = false → c.stepFrame = false → c.ch = none →
      s.hubReaches (corePos k) → ∃ t, s.hubDid t (corePos k) [] (exec (.step k) s) ∧
        (t.core k).stopCount = (c.stopCount + 1) % 2 ^ 32 ∧ (t.core k).stepping = false ∧
        t.net = s.net ∧ recorded t [fields [(0, 3), (5, 1), (8, paused), (32, (c.stopCount + 1) % 2 ^ 32)], 0]) ∧
    (cl.covers = [p] → cl.clusterStops = [p] → cl.hardTags = [] → s.hubReaches p →
      ∃ t, s.hubDid t p [] (exec (.hubResume p) s) ∧
      (t.cluster p).soft = false ∧ (t.cluster p).covers = [] ∧ (t.cluster p).clusterStops = [] ∧
      (∀ j ∈ span (4 * p) 4, (t.core j).stopped = 0 ∧ (t.core j).reg = (s.core j).reg) ∧ t.mem = s.mem ∧
      t.net = s.net.filter fun m => !(m.vc = 1 && bits m.w0 19 5 = 4 && srcPos m.w1 = p))

/-! ### Host, fabric, board -/

/-- R31, R378-R381, R386: a trained port writes TAIL of a queue and through an aperture, and a read returns the position
block, CLOSED for a queue that no one has opened (log 53, DEDUCED), or all ones where the port is not trained; what the
device does not use is completed with Unsupported Request. -/
def Sys2Proof.Parts.HostPorts : Prop :=
  ∀ (s : State) (port q a n bar : Nat) (bs : List (BitVec 8)),
    let hp := s.hostPort port
    let gives (d : List Byte) : State := s.setHostPort port { hp with reads := hp.reads ++ [d] }
    let refuses : State := s.setHostPort port { hp with unsupported := hp.unsupported + 1 }
    (hp.trained = true → q < 0x3000 → (s.queue q).st ≠ 0 →
      (bs.length = 4 → exec (.hostWrite port (.bar 0) (4096 * q + 16) bs) s = .next (s.writeTail q (ofBytes bs))) ∧
      exec (.hostRead port (.bar 0) (4096 * q) 32) s = .next (gives (bytesOf (s.queue q).block))) ∧
    (hp.trained = true → q < 0x3000 → s.queues = [] →
      exec (.hostRead port (.bar 0) (4096 * q) 32) s = .next (gives (bytesOf [0, 0, 0, 0]))) ∧
    (∀ tag base, hp.trained = true → bs ≠ [] → bs.length ≤ 512 → s.aperture port a = some (tag, base) →
      exec (.hostWrite port (.bar 4) a bs) s = .next (s.ringWrite tag (base + BitVec.ofNat 64 (a % 2 ^ 27)) bs)) ∧
    (hp.trained = false → ∀ x, exec (.hostRead port x a n) s = .next (gives ((span 0 n).map fun _ => 0xFF)) ∧
      exec (.hostWrite port x a bs) s = .next s) ∧
    (hp.trained = true →
      (4096 < n → exec (.hostRead port (.bar bar) a n) s = .next refuses) ∧
      (512 < bs.length → exec (.hostWrite port (.bar bar) a bs) s = .next refuses) ∧
      ∀ x, x ∈ [HostTarget.atomicOp, .peerToPeer, .ats, .pri, .other] ∨ x = .bar bar ∧ bar ∉ [0, 2, 4] →
        exec (.hostRead port x a n) s = .next refuses ∧ exec (.hostWrite port x a bs) s = .next refuses)

/-- R330: where the number of a flag stands to H, modulo 2^32. -/
def Sys2Proof.Parts.FlagWindow : Prop :=
  ∀ high q : Nat, high < 2 ^ 32 → q < 2 ^ 32 →
    (flagPlace high q = .above ↔ 1 ≤ (q + 2 ^ 32 - high) % 2 ^ 32 ∧ (q + 2 ^ 32 - high) % 2 ^ 32 ≤ 2 ^ 31 - 1) ∧
    (flagPlace high q = .window ↔ (high + 2 ^ 32 - q) % 2 ^ 32 ≤ 65535) ∧
    (flagPlace high q = .older ↔ 65536 ≤ (high + 2 ^ 32 - q) % 2 ^ 32 ∧ (high + 2 ^ 32 - q) % 2 ^ 32 ≤ 2 ^ 31)

/-- R382: the beats of a frame that carries a flit. -/
def Sys2Proof.Parts.Frames : Prop :=
  ∀ (lseq ack vc : Nat) (x : BitVec 512), vc < 8 →
    let b := beats lseq ack vc (some x)
    b.length = 5 ∧ (∀ i, i < 4 → nth 0 b i = BitVec.ofNat 128 (x.toNat / 2 ^ (128 * i))) ∧
    bits (nth 0 b 4) 0 12 = lseq % 4096 ∧ bits (nth 0 b 4) 12 12 = ack % 4096 ∧ bits (nth 0 b 4) 24 3 = vc ∧
    bit (nth 0 b 4) 27 = true ∧ bits (nth 0 b 4) 28 36 = 0

/-- R329, R382: frames are taken in order and answered; what is not acknowledged goes again with the same number; the
sixteenth replay takes a link out of service; a lost request goes by another port. -/
def Sys2Proof.Parts.Links : Prop :=
  ∀ (s : State) (link lseq ack i port : Nat) (vc : BitVec 3) (x : BitVec 512),
    let f := s.fabric
    let l : Link := Tab.get {} s.links link
    let link' (u : State) : Link := Tab.get {} u.links link
    let fits (n w : Nat) (m : Msg) : Prop := let x : Link := Tab.get {} s.links n
      n < 96 ∧ x.up = true ∧ w ∈ x.toward ∧ x.unacked.length + m.flits ≤ 2048
    (∀ avoid w m n, s.freeLink avoid w m = some n ↔
      fits n w m ∧ avoid ≠ some n ∧ ∀ j, j < n → avoid ≠ some j → ¬fits j w m) ∧
    (let r := nth {} f.out i
     i < f.out.length → r.lost = true → s.freeLink (some r.port) r.wafer r.msg = some port → ∃ u : State, exec (.fabricResend i) s = .next u ∧
       u.fabric.out = setNth f.out i { r with port := port, lost := false } ∧
       (Tab.get {} u.links port : Link).unacked.map Frame.flit =
         (Tab.get {} s.links port : Link).unacked.map Frame.flit ++
           ((span 0 r.msg.flits).map fun j => flitOf (dropN (64 * j) r.msg.bytes)) ∧ u.mem = s.mem) ∧
    (l.up = true →
      (lseq < 4096 → lseq = (l.rx + 1) % 4096 → vc ≠ 3 → (∀ e ∈ l.flits, e.1 ≠ 3) → f.replies = [] →
        ∃ u : State, exec (.linkFrameReceive link lseq ack true (some (vc, x))) s = .next u ∧
          link' u = { l.acked (ack % 4096) with
            rx := lseq, flits := if vc = 2 then l.flits ++ [(2, x)] else l.flits
            wire := l.wire ++ [beats l.tx lseq 0 none] } ∧
          (∀ n, n ≠ link → (Tab.get {} u.links n : Link) = Tab.get {} s.links n) ∧ u.fabric = f ∧ u.mem = s.mem ∧ u.net = s.net) ∧
      exec (.linkFrameReceive link lseq ack false (some (vc, x))) s = .next s ∧
      ((∀ e ∈ l.unacked, e.replays < 16) → ∃ u : State, exec (.linkReplay link) s = .next u ∧
        link' u = { l with unacked := l.unacked.map fun e => { e with replays := e.replays + 1 },
                           wire := l.wire ++ l.unacked.map fun e => beats e.lseq l.rx e.vc (some e.flit) } ∧
        u.fabric = f ∧ u.mem = s.mem) ∧
      ((∃ e ∈ l.unacked, 16 ≤ e.replays) → ∃ u : State, exec (.linkReplay link) s = .next u ∧
        (link' u).up = false ∧ (∀ e ∈ u.fabric.out, e.port = link → e.lost = true) ∧ u.mem = s.mem))

/-- R330, R383: a request or release flag of a partition that is not paired is dropped and reported, one outside the grant
gets ERROR; any other goes to the bridge of its memory, a flag once by its number; what a bridge has performed is answered by
a frame of the port that it came by. -/
def Sys2Proof.Parts.Requests : Prop :=
  ∀ (s : State) (w q a link srcTag tag : Nat) (bs : List (BitVec 8)),
    let f := s.fabric
    let l : Link := Tab.get {} s.links link
    let high := Tab.get 0 f.high w
    let done := Tab.get [] f.done w
    let pair := f.pairings.find? fun p => p.1 = w && p.2.1 = srcTag
    let flag := Instr.fabricFlagArrive { port := link, wafer := w, tag := srcTag } q a bs
    let n := a / 4096 % 16
    l.flits = [] → a < 2 ^ 41 →
    (pair = none → ∀ i, i = flag ∨ i = .fabricRequestReceive link w srcTag 1 a bs → ∃ (u : State) (m : Msg), exec i s = .next u ∧ u.mem = s.mem ∧
      u.fabric = f ∧ u.bridges = s.bridges ∧ u.net = s.net ∧
      Tab.get [] (u.region (portRegion link)).inq 0 = Tab.get [] (s.region (portRegion link)).inq 0 ++ [m] ∧
      ofBytes m.body % 2 ^ 7 = cPROTECT_DROP) ∧
    (pair = some (w, srcTag, tag) → (∀ g ∈ f.grants, g.1 ≠ tag) → l.up = true → l.unacked.length < 2048 → f.replies = [] →
      ∀ i, i = flag ∨ i = .fabricRequestReceive link w srcTag 1 a bs → ∃ u : State, exec i s = .next u ∧ u.mem = s.mem ∧
        u.bridges = s.bridges ∧ u.fabric = f ∧
        ∃ x, (Tab.get {} u.links link : Link).wire = l.wire ++ [beats l.tx l.rx 3 (some x)] ∧
          bits x 19 5 = 2 ∧ bits x 136 7 = cPROTECT_DROP) ∧
    (pair = some (w, srcTag, tag) → (tag, a, bs.length) ∈ f.grants → 0 < bs.length → a + bs.length ≤ 0x18000000000 →
      (∀ kind, kind = 0 ∨ kind = 1 → ∃ (u : State) (m : Msg), exec (.fabricRequestReceive link w srcTag kind a bs) s = .next u ∧
        Tab.get [] u.bridges n = Tab.get [] s.bridges n ++ [m] ∧ m.w2 = BitVec.ofNat 64 a ∧ m.port = some link ∧
        m.body = (if kind = 1 then bs else []) ∧ u.mem = s.mem) ∧
      (q < 2 ^ 32 →
        (flagPlace high q = .above ∨ flagPlace high q = .window ∧ done.contains q = false → ∃ (u : State) (m : Msg), exec flag s = .next u ∧
          Tab.get [] u.bridges n = Tab.get [] s.bridges n ++ [m] ∧ m.w2 = BitVec.ofNat 64 a ∧ m.port = some link ∧ m.body = bs ∧
          Tab.get 0 u.fabric.high w = (if flagPlace high q = .above then q else high) ∧ q ∈ Tab.get [] u.fabric.done w ∧
          u.mem = s.mem ∧ u.net = s.net) ∧
        (flagPlace high q = .window → done.contains q = true → Tab.get [] s.bridges n = [] → l.up = true →
          l.unacked.length < 2048 → f.replies = [] → ∃ (u : State) (x : BitVec 512), exec flag s = .next u ∧ u.mem = s.mem ∧ u.bridges = s.bridges ∧
            u.fabric = { f with acks := f.acks ++ [(w, q)] } ∧
            (Tab.get {} u.links link : Link).wire = l.wire ++ [beats l.tx l.rx 3 (some x)] ∧ bits x 19 5 = 1) ∧
        (flagPlace high q = .older → exec flag s = .next { s with fabric := { f with errors := f.errors + 1 } }))) ∧
    (∀ m rest b, Tab.get [] s.bridges b = m :: rest → b < 16 → m.port = some link → m.kind = 7 → l.up = true →
      l.unacked.length < 2048 → f.replies = [] → ∃ (u : State) (x : BitVec 512), exec (.requestServe (.stack b)) s = .next u ∧
        u.mem = Mem.writeBytes s.mem (bits m.w2 0 52) (takeN m.size m.body) ∧ Tab.get [] u.bridges b = rest ∧
        (Tab.get {} u.links link : Link).wire = l.wire ++ [beats l.tx l.rx 3 (some x)] ∧ bits x 19 5 = 1)

/-- R329, R330, R382, R383: the fabric's frames, links and requests. When a control-only frame leaves, and that the order of
replies on a port is the order they were made, are the model's choices (log 137). -/
def Obligations.FabricSteps : Prop := Parts.FlagWindow ∧ Parts.Frames ∧ Parts.Links ∧ Parts.Requests

/-- R384-R386: bring-up halts at the step that fails and says so over I3C, or ends with the links and host ports up and the
accepted firmware in every island; measurements and quotes. That MAGIC is asked for is log 13's (DEDUCED), and what a reset
leaves of the board and of host memory is log 54's. -/
def Sys2Proof.Parts.Board : Prop :=
  ∀ (s : State) (i : Nat) (d : BitVec 512) (slot : List Byte),
    let b := s.board
    let halted (n : Nat) : State :=
      { agenda := s.agenda, free := s.free,
        mem := s.mem.filter fun c => decide (0x8000000000000 ≤ c.1) && decide (c.1 < 0x10000000000000),
        board := { b with up := false, measures := [0, 0, 0, 0, 0, 0, 0, 0], quotes := [], i3c := [n] } }
    (b.badRails ≠ [] → exec .powerOnReset s = .next (halted 1)) ∧
    (b.badRails = [] → b.accepts b.slotA = false → b.accepts b.slotB = false → exec .powerOnReset s = .next (halted 2)) ∧
    (b.badRails = [] → b.slot = some slot →
      (b.badStacks = [] → b.badLinks = [] → b.badPorts = [] → ∃ u : State, exec .powerOnReset s = .next u ∧ u.board.up = true ∧
        u.board.i3c = [] ∧ (∀ p, p < 4 → (u.hostPort p).trained = true) ∧
        ∀ l, l < 96 → (Tab.get {} u.links l : Link).up = true) ∧
      (b.badStacks ≠ [] ∨ b.badLinks ≠ [] → ∃ u : State, exec .powerOnReset s = .next u ∧ u.board.up = false ∧ u.board.i3c = [4] ∧
        u.links = [] ∧ u.hostPorts = []) ∧
      (b.badStacks = [] → b.badLinks = [] → b.badPorts ≠ [] → ∃ u : State, exec .powerOnReset s = .next u ∧ u.board.up = false ∧
        u.board.i3c = [5] ∧ u.hostPorts = [])) ∧
    (3 ≤ i → i ≤ 7 → exec (.measurementExtend i d) s = .next { s with board := { b with
      measures := setNth b.measures i (digest (toBytes 64 (nth 0 b.measures i).toNat ++ toBytes 64 d.toNat)) } }) ∧
    (i < 3 → exec (.measurementExtend i d) s = .next s) ∧
    (let q := (b.measures.flatMap fun m => toBytes 64 m.toNat) ++ toBytes 64 d.toNat ++ b.serial
     exec (.quoteRequest d) s = .next { s with board := { b with quotes := b.quotes ++ [q ++ attested q] } })

/-- R31, R379-R381, R384-R386: the host ports, and the board. -/
def Obligations.HostSteps : Prop := Parts.HostPorts ∧ Parts.Board
end

