-- ==== Sys2Proof/Laws/Tab.lean ====
section
/-! SUPPORT. Laws of tables and of memory as a canonical list. -/

namespace Sys2Proof.Machine

/-! ### Tables -/

@[simp] theorem Tab.get_put_same {α : Type} (d : α) (t : Tab α) (k : Nat) (v : α) :
    Tab.get d (Tab.put t k v) k = v := by
  induction t with
  | nil => simp [Tab.put, Tab.get]
  | cons e t ih =>
    obtain ⟨i, a⟩ := e
    simp only [Tab.put]
    split
    · simp [Tab.get]
    · split
      · simp [Tab.get]
      · simp only [Tab.get, ih]
        rw [if_neg ‹_›, if_neg ‹_›]

@[simp] theorem Tab.get_put_ne {α : Type} (d : α) (t : Tab α) {k j : Nat} (v : α) (h : j ≠ k) :
    Tab.get d (Tab.put t k v) j = Tab.get d t j := by
  induction t with
  | nil =>
    simp only [Tab.put, Tab.get]
    split
    · omega
    · split <;> rfl
  | cons e t ih =>
    obtain ⟨i, a⟩ := e
    simp only [Tab.put]
    split
    · subst i
      simp only [Tab.get]
      split
      · omega
      · rfl
    · split
      · simp only [Tab.get]
        split
        · omega
        · split
          · split
            · omega
            · split <;> first | rfl | omega
          · rfl
      · simp only [Tab.get, ih]

theorem Tab.get_put {α : Type} (d : α) (t : Tab α) (k j : Nat) (v : α) :
    Tab.get d (Tab.put t k v) j = if j = k then v else Tab.get d t j := by
  split
  · subst j; exact Tab.get_put_same d t k v
  · exact Tab.get_put_ne d t v ‹_›

@[simp] theorem Tab.put_put {α : Type} (t : Tab α) (k : Nat) (a b : α) :
    Tab.put (Tab.put t k a) k b = Tab.put t k b := by
  induction t with
  | nil => simp [Tab.put]
  | cons e t ih =>
    obtain ⟨i, c⟩ := e
    simp only [Tab.put]
    split
    · simp [Tab.put]
    · split
      · simp [Tab.put]
      · simp only [Tab.put, ih]
        rw [if_neg ‹_›, if_neg ‹_›]

/-! ### The canonical form of memory -/

theorem Mem.above_weaken {lo lo' : Nat} {m : List Host.Cell} (h : Mem.above lo m = true) (hl : lo' ≤ lo) :
    Mem.above lo' m = true := by
  cases m with
  | nil => rfl
  | cons e t =>
    simp only [Mem.above, Bool.and_eq_true, decide_eq_true_eq] at h ⊢
    exact ⟨⟨by omega, h.1.2⟩, h.2⟩

theorem Mem.above_write {m : List Host.Cell} {lo a : Nat} (v : Byte) (h : Mem.above lo m = true) (ha : lo ≤ a) :
    Mem.above lo (Mem.write m a v) = true := by
  induction m generalizing lo with
  | nil =>
    simp only [Mem.write]
    split <;> simp_all [Mem.above]
  | cons e t ih =>
    obtain ⟨i, b⟩ := e
    simp only [Mem.above, Bool.and_eq_true, decide_eq_true_eq, bne_iff_ne] at h
    obtain ⟨⟨hi, hb⟩, ht⟩ := h
    simp only [Mem.write]
    split
    · subst i
      split
      · exact Mem.above_weaken ht (by omega)
      · simp_all [Mem.above]
    · split
      · split
        · simp_all [Mem.above]
        · simp only [Mem.above, Bool.and_eq_true, decide_eq_true_eq, bne_iff_ne]
          exact ⟨⟨ha, ‹_›⟩, ⟨by omega, hb⟩, ht⟩
      · simp only [Mem.above, Bool.and_eq_true, decide_eq_true_eq, bne_iff_ne]
        exact ⟨⟨hi, hb⟩, ih ht (by omega)⟩

/-- Writing a byte keeps the canonical form. -/
theorem Memory.wf_write {m : List Host.Cell} (a : Nat) (v : Byte) (h : Memory.wf m = true) :
    Memory.wf (Mem.write m a v) = true := Mem.above_write v h (Nat.zero_le a)

/-- Writing bytes keeps the canonical form. -/
theorem Memory.wf_writeBytes {m : List Host.Cell} (a : Nat) (bs : List Byte) (h : Memory.wf m = true) :
    Memory.wf (Mem.writeBytes m a bs) = true := by
  induction bs generalizing m a with
  | nil => exact h
  | cons b t ih => exact ih (a + 1) (Memory.wf_write a b h)

theorem Mem.above_filter {m : List Host.Cell} {lo : Nat} (f : Host.Cell → Bool) (h : Mem.above lo m = true) :
    Mem.above lo (m.filter f) = true := by
  induction m generalizing lo with
  | nil => rfl
  | cons e t ih =>
    obtain ⟨i, b⟩ := e
    simp only [Mem.above, Bool.and_eq_true, decide_eq_true_eq] at h
    simp only [List.filter]
    split
    · simp only [Mem.above, Bool.and_eq_true, decide_eq_true_eq]
      exact ⟨h.1, ih h.2⟩
    · exact Mem.above_weaken (ih h.2) (by omega)

/-- Dropping cells keeps the canonical form. -/
theorem Memory.wf_filter {m : List Host.Cell} (f : Host.Cell → Bool) (h : Memory.wf m = true) :
    Memory.wf (m.filter f) = true := Mem.above_filter f h

/-- A canonical list holds nothing below its bound. -/
theorem Mem.read_below {m : List Host.Cell} {lo a : Nat} (h : Mem.above lo m = true) (ha : a < lo) :
    Mem.read m a = Mem.empty := by
  cases m with
  | nil => rfl
  | cons e t =>
    obtain ⟨i, b⟩ := e
    simp only [Mem.above, Bool.and_eq_true, decide_eq_true_eq] at h
    simp only [Mem.read]
    split
    · omega
    · split
      · rfl
      · omega

theorem Mem.read_write_above {m : List Host.Cell} {lo : Nat} (a j : Nat) (v : Byte) (h : Mem.above lo m = true) :
    Mem.read (Mem.write m a v) j = if j = a then v else Mem.read m j := by
  induction m generalizing lo with
  | nil =>
    simp only [Mem.write]
    split
    · split <;> simp_all [Mem.read]
    · simp only [Mem.read]
      by_cases hj : j = a
      · simp [hj]
      · simp [hj, Ne.symm hj]
  | cons e t ih =>
    obtain ⟨i, b⟩ := e
    simp only [Mem.above, Bool.and_eq_true, decide_eq_true_eq, bne_iff_ne] at h
    obtain ⟨⟨hi, hb⟩, ht⟩ := h
    have hx := fun x (hx : x < i + 1) => Mem.read_below ht hx
    have := @ih (i + 1) ht
    simp only [Mem.write]
    by_cases h1 : i = a
    · subst h1
      simp only [if_true]
      by_cases hv : v = Mem.empty
      · simp only [hv, if_true, Mem.read]
        by_cases hj : j = i
        · subst hj; simp [hx j (by omega)]
        · simp only [hj, if_false, Ne.symm hj]
          by_cases hlt : j < i
          · simp [hlt, hx j (by omega)]
          · simp [hlt]
      · simp only [hv, if_false, Mem.read]
        by_cases hj : j = i
        · subst hj; simp
        · simp [hj, Ne.symm hj]
    · simp only [h1, if_false]
      by_cases h2 : a < i
      · simp only [h2, if_true]
        by_cases hv : v = Mem.empty
        · simp only [hv, if_true]
          by_cases hj : j = a
          · subst hj
            simp [Mem.read, h1, h2]
          · simp [hj]
        · simp only [hv, if_false]
          rw [Mem.read]
          by_cases hj : j = a
          · subst hj; simp
          · simp only [hj, if_false, Ne.symm hj]
            by_cases hlt : j < a
            · have : i ≠ j := by omega
              have : j < i := by omega
              simp [*, Mem.read]
            · simp [hlt]
      · simp only [h2, if_false, Mem.read, this]
        by_cases hj : j = a
        · subst hj
          simp [h1, h2]
        · simp [hj]

/-- A byte that was written reads as written; every other one as before. -/
theorem Mem.read_write {m : List Host.Cell} (a j : Nat) (v : Byte) (h : Memory.wf m = true) :
    Mem.read (Mem.write m a v) j = if j = a then v else Mem.read m j := Mem.read_write_above a j v h

/-- A byte outside the bytes written reads as before. -/
theorem Mem.read_writeBytes_outside {m : List Host.Cell} (a j : Nat) (bs : List Byte) (h : Memory.wf m = true)
    (ho : j < a ∨ a + bs.length ≤ j) : Mem.read (Mem.writeBytes m a bs) j = Mem.read m j := by
  induction bs generalizing m a with
  | nil => rfl
  | cons b t ih =>
    simp only [List.length_cons] at ho
    rw [Mem.writeBytes, ih (a + 1) (Memory.wf_write a b h) (by omega), Mem.read_write a j b h, if_neg (by omega)]

/-- Reading back what was written. -/
theorem Mem.readBytes_writeBytes {m : List Host.Cell} (a : Nat) (bs : List Byte) (h : Memory.wf m = true) :
    Mem.readBytes (Mem.writeBytes m a bs) a bs.length = bs := by
  induction bs generalizing m a with
  | nil => rfl
  | cons b t ih =>
    simp only [List.length_cons, Mem.readBytes, Mem.writeBytes]
    rw [ih (a + 1) (Memory.wf_write a b h), Mem.read_writeBytes_outside (a + 1) a t (Memory.wf_write a b h) (by omega),
      Mem.read_write a a b h, if_pos rfl]

theorem ofBytes_toBytes (n v : Nat) : ofBytes (toBytes n v) = v % 256 ^ n := by
  induction n generalizing v with
  | zero => simp [toBytes, ofBytes, Nat.mod_one]
  | succ n ih =>
    rw [toBytes, ofBytes, ih, BitVec.toNat_ofNat, Nat.pow_succ (n := 256) (m := n), Nat.mul_comm (256 ^ n) 256,
      Nat.mod_mul]

@[simp] theorem toBytes_length (n v : Nat) : (toBytes n v).length = n := by
  induction n generalizing v with
  | zero => rfl
  | succ n ih => simp [toBytes, ih]

end Sys2Proof.Machine
end

