-- ==== Sys2Proof/Laws/State.lean ====
section
/-! SUPPORT. What each update of the state does to each field, so that no proof unfolds a record update. -/

namespace Sys2Proof.Machine

/-! ### setCore -/

@[simp] theorem State.setCore_agenda (s : State) (k : Nat) (c : Core) : (s.setCore k c).agenda = s.agenda := rfl
@[simp] theorem State.setCore_cur (s : State) (k : Nat) (c : Core) : (s.setCore k c).cur = s.cur := rfl
@[simp] theorem State.setCore_free (s : State) (k : Nat) (c : Core) : (s.setCore k c).free = s.free := rfl
@[simp] theorem State.setCore_mem (s : State) (k : Nat) (c : Core) : (s.setCore k c).mem = s.mem := rfl
@[simp] theorem State.setCore_memEmpty (s : State) (k : Nat) (c : Core) : (s.setCore k c).memEmpty = s.memEmpty := rfl
@[simp] theorem State.setCore_dirtyHome (s : State) (k : Nat) (c : Core) : (s.setCore k c).dirtyHome = s.dirtyHome := rfl
@[simp] theorem State.setCore_eccBad (s : State) (k : Nat) (c : Core) : (s.setCore k c).eccBad = s.eccBad := rfl
@[simp] theorem State.setCore_eccSoft (s : State) (k : Nat) (c : Core) : (s.setCore k c).eccSoft = s.eccSoft := rfl
@[simp] theorem State.setCore_clusters (s : State) (k : Nat) (c : Core) : (s.setCore k c).clusters = s.clusters := rfl
@[simp] theorem State.setCore_routers (s : State) (k : Nat) (c : Core) : (s.setCore k c).routers = s.routers := rfl
@[simp] theorem State.setCore_regions (s : State) (k : Nat) (c : Core) : (s.setCore k c).regions = s.regions := rfl
@[simp] theorem State.setCore_icores (s : State) (k : Nat) (c : Core) : (s.setCore k c).icores = s.icores := rfl
@[simp] theorem State.setCore_parts (s : State) (k : Nat) (c : Core) : (s.setCore k c).parts = s.parts := rfl
@[simp] theorem State.setCore_net (s : State) (k : Nat) (c : Core) : (s.setCore k c).net = s.net := rfl
@[simp] theorem State.setCore_bridges (s : State) (k : Nat) (c : Core) : (s.setCore k c).bridges = s.bridges := rfl
@[simp] theorem State.setCore_queues (s : State) (k : Nat) (c : Core) : (s.setCore k c).queues = s.queues := rfl
@[simp] theorem State.setCore_launches (s : State) (k : Nat) (c : Core) : (s.setCore k c).launches = s.launches := rfl
@[simp] theorem State.setCore_nextKey (s : State) (k : Nat) (c : Core) : (s.setCore k c).nextKey = s.nextKey := rfl
@[simp] theorem State.setCore_graphs (s : State) (k : Nat) (c : Core) : (s.setCore k c).graphs = s.graphs := rfl
@[simp] theorem State.setCore_images (s : State) (k : Nat) (c : Core) : (s.setCore k c).images = s.images := rfl
@[simp] theorem State.setCore_hbPorts (s : State) (k : Nat) (c : Core) : (s.setCore k c).hbPorts = s.hbPorts := rfl
@[simp] theorem State.setCore_casts (s : State) (k : Nat) (c : Core) : (s.setCore k c).casts = s.casts := rfl
@[simp] theorem State.setCore_rails (s : State) (k : Nat) (c : Core) : (s.setCore k c).rails = s.rails := rfl
@[simp] theorem State.setCore_edgeStacks (s : State) (k : Nat) (c : Core) : (s.setCore k c).edgeStacks = s.edgeStacks := rfl
@[simp] theorem State.setCore_hostPorts (s : State) (k : Nat) (c : Core) : (s.setCore k c).hostPorts = s.hostPorts := rfl
@[simp] theorem State.setCore_links (s : State) (k : Nat) (c : Core) : (s.setCore k c).links = s.links := rfl
@[simp] theorem State.setCore_fabric (s : State) (k : Nat) (c : Core) : (s.setCore k c).fabric = s.fabric := rfl
@[simp] theorem State.setCore_board (s : State) (k : Nat) (c : Core) : (s.setCore k c).board = s.board := rfl

/-! ### setCluster -/

@[simp] theorem State.setCluster_agenda (s : State) (p : Nat) (c : Cluster) : (s.setCluster p c).agenda = s.agenda := rfl
@[simp] theorem State.setCluster_cur (s : State) (p : Nat) (c : Cluster) : (s.setCluster p c).cur = s.cur := rfl
@[simp] theorem State.setCluster_free (s : State) (p : Nat) (c : Cluster) : (s.setCluster p c).free = s.free := rfl
@[simp] theorem State.setCluster_mem (s : State) (p : Nat) (c : Cluster) : (s.setCluster p c).mem = s.mem := rfl
@[simp] theorem State.setCluster_memEmpty (s : State) (p : Nat) (c : Cluster) : (s.setCluster p c).memEmpty = s.memEmpty := rfl
@[simp] theorem State.setCluster_dirtyHome (s : State) (p : Nat) (c : Cluster) : (s.setCluster p c).dirtyHome = s.dirtyHome := rfl
@[simp] theorem State.setCluster_eccBad (s : State) (p : Nat) (c : Cluster) : (s.setCluster p c).eccBad = s.eccBad := rfl
@[simp] theorem State.setCluster_eccSoft (s : State) (p : Nat) (c : Cluster) : (s.setCluster p c).eccSoft = s.eccSoft := rfl
@[simp] theorem State.setCluster_cores (s : State) (p : Nat) (c : Cluster) : (s.setCluster p c).cores = s.cores := rfl
@[simp] theorem State.setCluster_routers (s : State) (p : Nat) (c : Cluster) : (s.setCluster p c).routers = s.routers := rfl
@[simp] theorem State.setCluster_regions (s : State) (p : Nat) (c : Cluster) : (s.setCluster p c).regions = s.regions := rfl
@[simp] theorem State.setCluster_icores (s : State) (p : Nat) (c : Cluster) : (s.setCluster p c).icores = s.icores := rfl
@[simp] theorem State.setCluster_parts (s : State) (p : Nat) (c : Cluster) : (s.setCluster p c).parts = s.parts := rfl
@[simp] theorem State.setCluster_net (s : State) (p : Nat) (c : Cluster) : (s.setCluster p c).net = s.net := rfl
@[simp] theorem State.setCluster_bridges (s : State) (p : Nat) (c : Cluster) : (s.setCluster p c).bridges = s.bridges := rfl
@[simp] theorem State.setCluster_queues (s : State) (p : Nat) (c : Cluster) : (s.setCluster p c).queues = s.queues := rfl
@[simp] theorem State.setCluster_launches (s : State) (p : Nat) (c : Cluster) : (s.setCluster p c).launches = s.launches := rfl
@[simp] theorem State.setCluster_nextKey (s : State) (p : Nat) (c : Cluster) : (s.setCluster p c).nextKey = s.nextKey := rfl
@[simp] theorem State.setCluster_graphs (s : State) (p : Nat) (c : Cluster) : (s.setCluster p c).graphs = s.graphs := rfl
@[simp] theorem State.setCluster_images (s : State) (p : Nat) (c : Cluster) : (s.setCluster p c).images = s.images := rfl
@[simp] theorem State.setCluster_hbPorts (s : State) (p : Nat) (c : Cluster) : (s.setCluster p c).hbPorts = s.hbPorts := rfl
@[simp] theorem State.setCluster_casts (s : State) (p : Nat) (c : Cluster) : (s.setCluster p c).casts = s.casts := rfl
@[simp] theorem State.setCluster_rails (s : State) (p : Nat) (c : Cluster) : (s.setCluster p c).rails = s.rails := rfl
@[simp] theorem State.setCluster_edgeStacks (s : State) (p : Nat) (c : Cluster) : (s.setCluster p c).edgeStacks = s.edgeStacks := rfl
@[simp] theorem State.setCluster_hostPorts (s : State) (p : Nat) (c : Cluster) : (s.setCluster p c).hostPorts = s.hostPorts := rfl
@[simp] theorem State.setCluster_links (s : State) (p : Nat) (c : Cluster) : (s.setCluster p c).links = s.links := rfl
@[simp] theorem State.setCluster_fabric (s : State) (p : Nat) (c : Cluster) : (s.setCluster p c).fabric = s.fabric := rfl
@[simp] theorem State.setCluster_board (s : State) (p : Nat) (c : Cluster) : (s.setCluster p c).board = s.board := rfl

/-! ### setRouter -/

@[simp] theorem State.setRouter_agenda (s : State) (p : Nat) (c : Router) : (s.setRouter p c).agenda = s.agenda := rfl
@[simp] theorem State.setRouter_cur (s : State) (p : Nat) (c : Router) : (s.setRouter p c).cur = s.cur := rfl
@[simp] theorem State.setRouter_free (s : State) (p : Nat) (c : Router) : (s.setRouter p c).free = s.free := rfl
@[simp] theorem State.setRouter_mem (s : State) (p : Nat) (c : Router) : (s.setRouter p c).mem = s.mem := rfl
@[simp] theorem State.setRouter_memEmpty (s : State) (p : Nat) (c : Router) : (s.setRouter p c).memEmpty = s.memEmpty := rfl
@[simp] theorem State.setRouter_dirtyHome (s : State) (p : Nat) (c : Router) : (s.setRouter p c).dirtyHome = s.dirtyHome := rfl
@[simp] theorem State.setRouter_eccBad (s : State) (p : Nat) (c : Router) : (s.setRouter p c).eccBad = s.eccBad := rfl
@[simp] theorem State.setRouter_eccSoft (s : State) (p : Nat) (c : Router) : (s.setRouter p c).eccSoft = s.eccSoft := rfl
@[simp] theorem State.setRouter_cores (s : State) (p : Nat) (c : Router) : (s.setRouter p c).cores = s.cores := rfl
@[simp] theorem State.setRouter_clusters (s : State) (p : Nat) (c : Router) : (s.setRouter p c).clusters = s.clusters := rfl
@[simp] theorem State.setRouter_regions (s : State) (p : Nat) (c : Router) : (s.setRouter p c).regions = s.regions := rfl
@[simp] theorem State.setRouter_icores (s : State) (p : Nat) (c : Router) : (s.setRouter p c).icores = s.icores := rfl
@[simp] theorem State.setRouter_parts (s : State) (p : Nat) (c : Router) : (s.setRouter p c).parts = s.parts := rfl
@[simp] theorem State.setRouter_net (s : State) (p : Nat) (c : Router) : (s.setRouter p c).net = s.net := rfl
@[simp] theorem State.setRouter_bridges (s : State) (p : Nat) (c : Router) : (s.setRouter p c).bridges = s.bridges := rfl
@[simp] theorem State.setRouter_queues (s : State) (p : Nat) (c : Router) : (s.setRouter p c).queues = s.queues := rfl
@[simp] theorem State.setRouter_launches (s : State) (p : Nat) (c : Router) : (s.setRouter p c).launches = s.launches := rfl
@[simp] theorem State.setRouter_nextKey (s : State) (p : Nat) (c : Router) : (s.setRouter p c).nextKey = s.nextKey := rfl
@[simp] theorem State.setRouter_graphs (s : State) (p : Nat) (c : Router) : (s.setRouter p c).graphs = s.graphs := rfl
@[simp] theorem State.setRouter_images (s : State) (p : Nat) (c : Router) : (s.setRouter p c).images = s.images := rfl
@[simp] theorem State.setRouter_hbPorts (s : State) (p : Nat) (c : Router) : (s.setRouter p c).hbPorts = s.hbPorts := rfl
@[simp] theorem State.setRouter_casts (s : State) (p : Nat) (c : Router) : (s.setRouter p c).casts = s.casts := rfl
@[simp] theorem State.setRouter_rails (s : State) (p : Nat) (c : Router) : (s.setRouter p c).rails = s.rails := rfl
@[simp] theorem State.setRouter_edgeStacks (s : State) (p : Nat) (c : Router) : (s.setRouter p c).edgeStacks = s.edgeStacks := rfl
@[simp] theorem State.setRouter_hostPorts (s : State) (p : Nat) (c : Router) : (s.setRouter p c).hostPorts = s.hostPorts := rfl
@[simp] theorem State.setRouter_links (s : State) (p : Nat) (c : Router) : (s.setRouter p c).links = s.links := rfl
@[simp] theorem State.setRouter_fabric (s : State) (p : Nat) (c : Router) : (s.setRouter p c).fabric = s.fabric := rfl
@[simp] theorem State.setRouter_board (s : State) (p : Nat) (c : Router) : (s.setRouter p c).board = s.board := rfl

/-! ### setRegion -/

@[simp] theorem State.setRegion_agenda (s : State) (r : Nat) (g : Region) : (s.setRegion r g).agenda = s.agenda := rfl
@[simp] theorem State.setRegion_cur (s : State) (r : Nat) (g : Region) : (s.setRegion r g).cur = s.cur := rfl
@[simp] theorem State.setRegion_free (s : State) (r : Nat) (g : Region) : (s.setRegion r g).free = s.free := rfl
@[simp] theorem State.setRegion_mem (s : State) (r : Nat) (g : Region) : (s.setRegion r g).mem = s.mem := rfl
@[simp] theorem State.setRegion_memEmpty (s : State) (r : Nat) (g : Region) : (s.setRegion r g).memEmpty = s.memEmpty := rfl
@[simp] theorem State.setRegion_dirtyHome (s : State) (r : Nat) (g : Region) : (s.setRegion r g).dirtyHome = s.dirtyHome := rfl
@[simp] theorem State.setRegion_eccBad (s : State) (r : Nat) (g : Region) : (s.setRegion r g).eccBad = s.eccBad := rfl
@[simp] theorem State.setRegion_eccSoft (s : State) (r : Nat) (g : Region) : (s.setRegion r g).eccSoft = s.eccSoft := rfl
@[simp] theorem State.setRegion_cores (s : State) (r : Nat) (g : Region) : (s.setRegion r g).cores = s.cores := rfl
@[simp] theorem State.setRegion_clusters (s : State) (r : Nat) (g : Region) : (s.setRegion r g).clusters = s.clusters := rfl
@[simp] theorem State.setRegion_routers (s : State) (r : Nat) (g : Region) : (s.setRegion r g).routers = s.routers := rfl
@[simp] theorem State.setRegion_icores (s : State) (r : Nat) (g : Region) : (s.setRegion r g).icores = s.icores := rfl
@[simp] theorem State.setRegion_parts (s : State) (r : Nat) (g : Region) : (s.setRegion r g).parts = s.parts := rfl
@[simp] theorem State.setRegion_net (s : State) (r : Nat) (g : Region) : (s.setRegion r g).net = s.net := rfl
@[simp] theorem State.setRegion_bridges (s : State) (r : Nat) (g : Region) : (s.setRegion r g).bridges = s.bridges := rfl
@[simp] theorem State.setRegion_queues (s : State) (r : Nat) (g : Region) : (s.setRegion r g).queues = s.queues := rfl
@[simp] theorem State.setRegion_launches (s : State) (r : Nat) (g : Region) : (s.setRegion r g).launches = s.launches := rfl
@[simp] theorem State.setRegion_nextKey (s : State) (r : Nat) (g : Region) : (s.setRegion r g).nextKey = s.nextKey := rfl
@[simp] theorem State.setRegion_graphs (s : State) (r : Nat) (g : Region) : (s.setRegion r g).graphs = s.graphs := rfl
@[simp] theorem State.setRegion_images (s : State) (r : Nat) (g : Region) : (s.setRegion r g).images = s.images := rfl
@[simp] theorem State.setRegion_hbPorts (s : State) (r : Nat) (g : Region) : (s.setRegion r g).hbPorts = s.hbPorts := rfl
@[simp] theorem State.setRegion_casts (s : State) (r : Nat) (g : Region) : (s.setRegion r g).casts = s.casts := rfl
@[simp] theorem State.setRegion_rails (s : State) (r : Nat) (g : Region) : (s.setRegion r g).rails = s.rails := rfl
@[simp] theorem State.setRegion_edgeStacks (s : State) (r : Nat) (g : Region) : (s.setRegion r g).edgeStacks = s.edgeStacks := rfl
@[simp] theorem State.setRegion_hostPorts (s : State) (r : Nat) (g : Region) : (s.setRegion r g).hostPorts = s.hostPorts := rfl
@[simp] theorem State.setRegion_links (s : State) (r : Nat) (g : Region) : (s.setRegion r g).links = s.links := rfl
@[simp] theorem State.setRegion_fabric (s : State) (r : Nat) (g : Region) : (s.setRegion r g).fabric = s.fabric := rfl
@[simp] theorem State.setRegion_board (s : State) (r : Nat) (g : Region) : (s.setRegion r g).board = s.board := rfl

/-! ### setICore -/

@[simp] theorem State.setICore_agenda (s : State) (k : Nat) (c : ICore) : (s.setICore k c).agenda = s.agenda := rfl
@[simp] theorem State.setICore_cur (s : State) (k : Nat) (c : ICore) : (s.setICore k c).cur = s.cur := rfl
@[simp] theorem State.setICore_free (s : State) (k : Nat) (c : ICore) : (s.setICore k c).free = s.free := rfl
@[simp] theorem State.setICore_mem (s : State) (k : Nat) (c : ICore) : (s.setICore k c).mem = s.mem := rfl
@[simp] theorem State.setICore_memEmpty (s : State) (k : Nat) (c : ICore) : (s.setICore k c).memEmpty = s.memEmpty := rfl
@[simp] theorem State.setICore_dirtyHome (s : State) (k : Nat) (c : ICore) : (s.setICore k c).dirtyHome = s.dirtyHome := rfl
@[simp] theorem State.setICore_eccBad (s : State) (k : Nat) (c : ICore) : (s.setICore k c).eccBad = s.eccBad := rfl
@[simp] theorem State.setICore_eccSoft (s : State) (k : Nat) (c : ICore) : (s.setICore k c).eccSoft = s.eccSoft := rfl
@[simp] theorem State.setICore_cores (s : State) (k : Nat) (c : ICore) : (s.setICore k c).cores = s.cores := rfl
@[simp] theorem State.setICore_clusters (s : State) (k : Nat) (c : ICore) : (s.setICore k c).clusters = s.clusters := rfl
@[simp] theorem State.setICore_routers (s : State) (k : Nat) (c : ICore) : (s.setICore k c).routers = s.routers := rfl
@[simp] theorem State.setICore_regions (s : State) (k : Nat) (c : ICore) : (s.setICore k c).regions = s.regions := rfl
@[simp] theorem State.setICore_parts (s : State) (k : Nat) (c : ICore) : (s.setICore k c).parts = s.parts := rfl
@[simp] theorem State.setICore_net (s : State) (k : Nat) (c : ICore) : (s.setICore k c).net = s.net := rfl
@[simp] theorem State.setICore_bridges (s : State) (k : Nat) (c : ICore) : (s.setICore k c).bridges = s.bridges := rfl
@[simp] theorem State.setICore_queues (s : State) (k : Nat) (c : ICore) : (s.setICore k c).queues = s.queues := rfl
@[simp] theorem State.setICore_launches (s : State) (k : Nat) (c : ICore) : (s.setICore k c).launches = s.launches := rfl
@[simp] theorem State.setICore_nextKey (s : State) (k : Nat) (c : ICore) : (s.setICore k c).nextKey = s.nextKey := rfl
@[simp] theorem State.setICore_graphs (s : State) (k : Nat) (c : ICore) : (s.setICore k c).graphs = s.graphs := rfl
@[simp] theorem State.setICore_images (s : State) (k : Nat) (c : ICore) : (s.setICore k c).images = s.images := rfl
@[simp] theorem State.setICore_hbPorts (s : State) (k : Nat) (c : ICore) : (s.setICore k c).hbPorts = s.hbPorts := rfl
@[simp] theorem State.setICore_casts (s : State) (k : Nat) (c : ICore) : (s.setICore k c).casts = s.casts := rfl
@[simp] theorem State.setICore_rails (s : State) (k : Nat) (c : ICore) : (s.setICore k c).rails = s.rails := rfl
@[simp] theorem State.setICore_edgeStacks (s : State) (k : Nat) (c : ICore) : (s.setICore k c).edgeStacks = s.edgeStacks := rfl
@[simp] theorem State.setICore_hostPorts (s : State) (k : Nat) (c : ICore) : (s.setICore k c).hostPorts = s.hostPorts := rfl
@[simp] theorem State.setICore_links (s : State) (k : Nat) (c : ICore) : (s.setICore k c).links = s.links := rfl
@[simp] theorem State.setICore_fabric (s : State) (k : Nat) (c : ICore) : (s.setICore k c).fabric = s.fabric := rfl
@[simp] theorem State.setICore_board (s : State) (k : Nat) (c : ICore) : (s.setICore k c).board = s.board := rfl

/-! ### send -/

@[simp] theorem State.send_agenda (s : State) (m : Msg) : (s.send m).agenda = s.agenda := rfl
@[simp] theorem State.send_cur (s : State) (m : Msg) : (s.send m).cur = s.cur := rfl
@[simp] theorem State.send_free (s : State) (m : Msg) : (s.send m).free = s.free := rfl
@[simp] theorem State.send_mem (s : State) (m : Msg) : (s.send m).mem = s.mem := rfl
@[simp] theorem State.send_memEmpty (s : State) (m : Msg) : (s.send m).memEmpty = s.memEmpty := rfl
@[simp] theorem State.send_dirtyHome (s : State) (m : Msg) : (s.send m).dirtyHome = s.dirtyHome := rfl
@[simp] theorem State.send_eccBad (s : State) (m : Msg) : (s.send m).eccBad = s.eccBad := rfl
@[simp] theorem State.send_eccSoft (s : State) (m : Msg) : (s.send m).eccSoft = s.eccSoft := rfl
@[simp] theorem State.send_cores (s : State) (m : Msg) : (s.send m).cores = s.cores := rfl
@[simp] theorem State.send_clusters (s : State) (m : Msg) : (s.send m).clusters = s.clusters := rfl
@[simp] theorem State.send_routers (s : State) (m : Msg) : (s.send m).routers = s.routers := rfl
@[simp] theorem State.send_regions (s : State) (m : Msg) : (s.send m).regions = s.regions := rfl
@[simp] theorem State.send_icores (s : State) (m : Msg) : (s.send m).icores = s.icores := rfl
@[simp] theorem State.send_parts (s : State) (m : Msg) : (s.send m).parts = s.parts := rfl
@[simp] theorem State.send_bridges (s : State) (m : Msg) : (s.send m).bridges = s.bridges := rfl
@[simp] theorem State.send_queues (s : State) (m : Msg) : (s.send m).queues = s.queues := rfl
@[simp] theorem State.send_launches (s : State) (m : Msg) : (s.send m).launches = s.launches := rfl
@[simp] theorem State.send_nextKey (s : State) (m : Msg) : (s.send m).nextKey = s.nextKey := rfl
@[simp] theorem State.send_graphs (s : State) (m : Msg) : (s.send m).graphs = s.graphs := rfl
@[simp] theorem State.send_images (s : State) (m : Msg) : (s.send m).images = s.images := rfl
@[simp] theorem State.send_hbPorts (s : State) (m : Msg) : (s.send m).hbPorts = s.hbPorts := rfl
@[simp] theorem State.send_casts (s : State) (m : Msg) : (s.send m).casts = s.casts := rfl
@[simp] theorem State.send_rails (s : State) (m : Msg) : (s.send m).rails = s.rails := rfl
@[simp] theorem State.send_edgeStacks (s : State) (m : Msg) : (s.send m).edgeStacks = s.edgeStacks := rfl
@[simp] theorem State.send_hostPorts (s : State) (m : Msg) : (s.send m).hostPorts = s.hostPorts := rfl
@[simp] theorem State.send_links (s : State) (m : Msg) : (s.send m).links = s.links := rfl
@[simp] theorem State.send_fabric (s : State) (m : Msg) : (s.send m).fabric = s.fabric := rfl
@[simp] theorem State.send_board (s : State) (m : Msg) : (s.send m).board = s.board := rfl

/-! ### writeMem -/

@[simp] theorem State.writeMem_agenda (s : State) (a : Nat) (bs : List Byte) : (s.writeMem a bs).agenda = s.agenda := rfl
@[simp] theorem State.writeMem_cur (s : State) (a : Nat) (bs : List Byte) : (s.writeMem a bs).cur = s.cur := rfl
@[simp] theorem State.writeMem_free (s : State) (a : Nat) (bs : List Byte) : (s.writeMem a bs).free = s.free := rfl
@[simp] theorem State.writeMem_memEmpty (s : State) (a : Nat) (bs : List Byte) : (s.writeMem a bs).memEmpty = s.memEmpty := rfl
@[simp] theorem State.writeMem_dirtyHome (s : State) (a : Nat) (bs : List Byte) : (s.writeMem a bs).dirtyHome = s.dirtyHome := rfl
@[simp] theorem State.writeMem_cores (s : State) (a : Nat) (bs : List Byte) : (s.writeMem a bs).cores = s.cores := rfl
@[simp] theorem State.writeMem_clusters (s : State) (a : Nat) (bs : List Byte) : (s.writeMem a bs).clusters = s.clusters := rfl
@[simp] theorem State.writeMem_routers (s : State) (a : Nat) (bs : List Byte) : (s.writeMem a bs).routers = s.routers := rfl
@[simp] theorem State.writeMem_regions (s : State) (a : Nat) (bs : List Byte) : (s.writeMem a bs).regions = s.regions := rfl
@[simp] theorem State.writeMem_icores (s : State) (a : Nat) (bs : List Byte) : (s.writeMem a bs).icores = s.icores := rfl
@[simp] theorem State.writeMem_parts (s : State) (a : Nat) (bs : List Byte) : (s.writeMem a bs).parts = s.parts := rfl
@[simp] theorem State.writeMem_net (s : State) (a : Nat) (bs : List Byte) : (s.writeMem a bs).net = s.net := rfl
@[simp] theorem State.writeMem_bridges (s : State) (a : Nat) (bs : List Byte) : (s.writeMem a bs).bridges = s.bridges := rfl
@[simp] theorem State.writeMem_queues (s : State) (a : Nat) (bs : List Byte) : (s.writeMem a bs).queues = s.queues := rfl
@[simp] theorem State.writeMem_launches (s : State) (a : Nat) (bs : List Byte) : (s.writeMem a bs).launches = s.launches := rfl
@[simp] theorem State.writeMem_nextKey (s : State) (a : Nat) (bs : List Byte) : (s.writeMem a bs).nextKey = s.nextKey := rfl
@[simp] theorem State.writeMem_graphs (s : State) (a : Nat) (bs : List Byte) : (s.writeMem a bs).graphs = s.graphs := rfl
@[simp] theorem State.writeMem_images (s : State) (a : Nat) (bs : List Byte) : (s.writeMem a bs).images = s.images := rfl
@[simp] theorem State.writeMem_hbPorts (s : State) (a : Nat) (bs : List Byte) : (s.writeMem a bs).hbPorts = s.hbPorts := rfl
@[simp] theorem State.writeMem_casts (s : State) (a : Nat) (bs : List Byte) : (s.writeMem a bs).casts = s.casts := rfl
@[simp] theorem State.writeMem_rails (s : State) (a : Nat) (bs : List Byte) : (s.writeMem a bs).rails = s.rails := rfl
@[simp] theorem State.writeMem_edgeStacks (s : State) (a : Nat) (bs : List Byte) : (s.writeMem a bs).edgeStacks = s.edgeStacks := rfl
@[simp] theorem State.writeMem_hostPorts (s : State) (a : Nat) (bs : List Byte) : (s.writeMem a bs).hostPorts = s.hostPorts := rfl
@[simp] theorem State.writeMem_links (s : State) (a : Nat) (bs : List Byte) : (s.writeMem a bs).links = s.links := rfl
@[simp] theorem State.writeMem_fabric (s : State) (a : Nat) (bs : List Byte) : (s.writeMem a bs).fabric = s.fabric := rfl
@[simp] theorem State.writeMem_board (s : State) (a : Nat) (bs : List Byte) : (s.writeMem a bs).board = s.board := rfl

/-! ### setMemFull -/

@[simp] theorem State.setMemFull_agenda (s : State) (a : Nat) : (s.setMemFull a).agenda = s.agenda := rfl
@[simp] theorem State.setMemFull_cur (s : State) (a : Nat) : (s.setMemFull a).cur = s.cur := rfl
@[simp] theorem State.setMemFull_free (s : State) (a : Nat) : (s.setMemFull a).free = s.free := rfl
@[simp] theorem State.setMemFull_mem (s : State) (a : Nat) : (s.setMemFull a).mem = s.mem := rfl
@[simp] theorem State.setMemFull_dirtyHome (s : State) (a : Nat) : (s.setMemFull a).dirtyHome = s.dirtyHome := rfl
@[simp] theorem State.setMemFull_eccBad (s : State) (a : Nat) : (s.setMemFull a).eccBad = s.eccBad := rfl
@[simp] theorem State.setMemFull_eccSoft (s : State) (a : Nat) : (s.setMemFull a).eccSoft = s.eccSoft := rfl
@[simp] theorem State.setMemFull_cores (s : State) (a : Nat) : (s.setMemFull a).cores = s.cores := rfl
@[simp] theorem State.setMemFull_clusters (s : State) (a : Nat) : (s.setMemFull a).clusters = s.clusters := rfl
@[simp] theorem State.setMemFull_routers (s : State) (a : Nat) : (s.setMemFull a).routers = s.routers := rfl
@[simp] theorem State.setMemFull_regions (s : State) (a : Nat) : (s.setMemFull a).regions = s.regions := rfl
@[simp] theorem State.setMemFull_icores (s : State) (a : Nat) : (s.setMemFull a).icores = s.icores := rfl
@[simp] theorem State.setMemFull_parts (s : State) (a : Nat) : (s.setMemFull a).parts = s.parts := rfl
@[simp] theorem State.setMemFull_net (s : State) (a : Nat) : (s.setMemFull a).net = s.net := rfl
@[simp] theorem State.setMemFull_bridges (s : State) (a : Nat) : (s.setMemFull a).bridges = s.bridges := rfl
@[simp] theorem State.setMemFull_queues (s : State) (a : Nat) : (s.setMemFull a).queues = s.queues := rfl
@[simp] theorem State.setMemFull_launches (s : State) (a : Nat) : (s.setMemFull a).launches = s.launches := rfl
@[simp] theorem State.setMemFull_nextKey (s : State) (a : Nat) : (s.setMemFull a).nextKey = s.nextKey := rfl
@[simp] theorem State.setMemFull_graphs (s : State) (a : Nat) : (s.setMemFull a).graphs = s.graphs := rfl
@[simp] theorem State.setMemFull_images (s : State) (a : Nat) : (s.setMemFull a).images = s.images := rfl
@[simp] theorem State.setMemFull_hbPorts (s : State) (a : Nat) : (s.setMemFull a).hbPorts = s.hbPorts := rfl
@[simp] theorem State.setMemFull_casts (s : State) (a : Nat) : (s.setMemFull a).casts = s.casts := rfl
@[simp] theorem State.setMemFull_rails (s : State) (a : Nat) : (s.setMemFull a).rails = s.rails := rfl
@[simp] theorem State.setMemFull_edgeStacks (s : State) (a : Nat) : (s.setMemFull a).edgeStacks = s.edgeStacks := rfl
@[simp] theorem State.setMemFull_hostPorts (s : State) (a : Nat) : (s.setMemFull a).hostPorts = s.hostPorts := rfl
@[simp] theorem State.setMemFull_links (s : State) (a : Nat) : (s.setMemFull a).links = s.links := rfl
@[simp] theorem State.setMemFull_fabric (s : State) (a : Nat) : (s.setMemFull a).fabric = s.fabric := rfl
@[simp] theorem State.setMemFull_board (s : State) (a : Nat) : (s.setMemFull a).board = s.board := rfl

/-! ### Units after an update -/

@[simp] theorem State.core_setCore_same (s : State) (k : Nat) (c : Core) : (s.setCore k c).core k = c := Tab.get_put_same _ _ _ _
@[simp] theorem State.core_setCore_ne (s : State) {k j : Nat} (c : Core) (h : j ≠ k) : (s.setCore k c).core j = s.core j :=
  Tab.get_put_ne _ _ _ h
@[simp] theorem State.setCore_setCore (s : State) (k : Nat) (c d : Core) : (s.setCore k c).setCore k d = s.setCore k d := by
  simp [State.setCore]
@[simp] theorem State.core_setCluster (s : State) (j k : Nat) (c : Cluster) : (s.setCluster k c).core j = s.core j := rfl
@[simp] theorem State.core_setRouter (s : State) (j k : Nat) (c : Router) : (s.setRouter k c).core j = s.core j := rfl
@[simp] theorem State.core_setRegion (s : State) (j k : Nat) (c : Region) : (s.setRegion k c).core j = s.core j := rfl
@[simp] theorem State.core_setICore (s : State) (j k : Nat) (c : ICore) : (s.setICore k c).core j = s.core j := rfl
@[simp] theorem State.core_send (s : State) (j : Nat) (m : Msg) : (s.send m).core j = s.core j := rfl
@[simp] theorem State.core_writeMem (s : State) (j : Nat) (a : Nat) (bs : List Byte) : (s.writeMem a bs).core j = s.core j := rfl
@[simp] theorem State.core_setMemFull (s : State) (j : Nat) (a : Nat) : (s.setMemFull a).core j = s.core j := rfl

@[simp] theorem State.cluster_setCluster_same (s : State) (k : Nat) (c : Cluster) : (s.setCluster k c).cluster k = c := Tab.get_put_same _ _ _ _
@[simp] theorem State.cluster_setCluster_ne (s : State) {k j : Nat} (c : Cluster) (h : j ≠ k) : (s.setCluster k c).cluster j = s.cluster j :=
  Tab.get_put_ne _ _ _ h
@[simp] theorem State.setCluster_setCluster (s : State) (k : Nat) (c d : Cluster) : (s.setCluster k c).setCluster k d = s.setCluster k d := by
  simp [State.setCluster]
@[simp] theorem State.cluster_setCore (s : State) (j k : Nat) (c : Core) : (s.setCore k c).cluster j = s.cluster j := rfl
@[simp] theorem State.cluster_setRouter (s : State) (j k : Nat) (c : Router) : (s.setRouter k c).cluster j = s.cluster j := rfl
@[simp] theorem State.cluster_setRegion (s : State) (j k : Nat) (c : Region) : (s.setRegion k c).cluster j = s.cluster j := rfl
@[simp] theorem State.cluster_setICore (s : State) (j k : Nat) (c : ICore) : (s.setICore k c).cluster j = s.cluster j := rfl
@[simp] theorem State.cluster_send (s : State) (j : Nat) (m : Msg) : (s.send m).cluster j = s.cluster j := rfl
@[simp] theorem State.cluster_writeMem (s : State) (j : Nat) (a : Nat) (bs : List Byte) : (s.writeMem a bs).cluster j = s.cluster j := rfl
@[simp] theorem State.cluster_setMemFull (s : State) (j : Nat) (a : Nat) : (s.setMemFull a).cluster j = s.cluster j := rfl

@[simp] theorem State.router_setRouter_same (s : State) (k : Nat) (c : Router) : (s.setRouter k c).router k = c := Tab.get_put_same _ _ _ _
@[simp] theorem State.router_setRouter_ne (s : State) {k j : Nat} (c : Router) (h : j ≠ k) : (s.setRouter k c).router j = s.router j :=
  Tab.get_put_ne _ _ _ h
@[simp] theorem State.setRouter_setRouter (s : State) (k : Nat) (c d : Router) : (s.setRouter k c).setRouter k d = s.setRouter k d := by
  simp [State.setRouter]
@[simp] theorem State.router_setCore (s : State) (j k : Nat) (c : Core) : (s.setCore k c).router j = s.router j := rfl
@[simp] theorem State.router_setCluster (s : State) (j k : Nat) (c : Cluster) : (s.setCluster k c).router j = s.router j := rfl
@[simp] theorem State.router_setRegion (s : State) (j k : Nat) (c : Region) : (s.setRegion k c).router j = s.router j := rfl
@[simp] theorem State.router_setICore (s : State) (j k : Nat) (c : ICore) : (s.setICore k c).router j = s.router j := rfl
@[simp] theorem State.router_send (s : State) (j : Nat) (m : Msg) : (s.send m).router j = s.router j := rfl
@[simp] theorem State.router_writeMem (s : State) (j : Nat) (a : Nat) (bs : List Byte) : (s.writeMem a bs).router j = s.router j := rfl
@[simp] theorem State.router_setMemFull (s : State) (j : Nat) (a : Nat) : (s.setMemFull a).router j = s.router j := rfl

@[simp] theorem State.region_setRegion_same (s : State) (k : Nat) (c : Region) : (s.setRegion k c).region k = c := Tab.get_put_same _ _ _ _
@[simp] theorem State.region_setRegion_ne (s : State) {k j : Nat} (c : Region) (h : j ≠ k) : (s.setRegion k c).region j = s.region j :=
  Tab.get_put_ne _ _ _ h
@[simp] theorem State.setRegion_setRegion (s : State) (k : Nat) (c d : Region) : (s.setRegion k c).setRegion k d = s.setRegion k d := by
  simp [State.setRegion]
@[simp] theorem State.region_setCore (s : State) (j k : Nat) (c : Core) : (s.setCore k c).region j = s.region j := rfl
@[simp] theorem State.region_setCluster (s : State) (j k : Nat) (c : Cluster) : (s.setCluster k c).region j = s.region j := rfl
@[simp] theorem State.region_setRouter (s : State) (j k : Nat) (c : Router) : (s.setRouter k c).region j = s.region j := rfl
@[simp] theorem State.region_setICore (s : State) (j k : Nat) (c : ICore) : (s.setICore k c).region j = s.region j := rfl
@[simp] theorem State.region_send (s : State) (j : Nat) (m : Msg) : (s.send m).region j = s.region j := rfl
@[simp] theorem State.region_writeMem (s : State) (j : Nat) (a : Nat) (bs : List Byte) : (s.writeMem a bs).region j = s.region j := rfl
@[simp] theorem State.region_setMemFull (s : State) (j : Nat) (a : Nat) : (s.setMemFull a).region j = s.region j := rfl

@[simp] theorem State.icore_setICore_same (s : State) (k : Nat) (c : ICore) : (s.setICore k c).icore k = c := Tab.get_put_same _ _ _ _
@[simp] theorem State.icore_setICore_ne (s : State) {k j : Nat} (c : ICore) (h : j ≠ k) : (s.setICore k c).icore j = s.icore j :=
  Tab.get_put_ne _ _ _ h
@[simp] theorem State.setICore_setICore (s : State) (k : Nat) (c d : ICore) : (s.setICore k c).setICore k d = s.setICore k d := by
  simp [State.setICore]
@[simp] theorem State.icore_setCore (s : State) (j k : Nat) (c : Core) : (s.setCore k c).icore j = s.icore j := rfl
@[simp] theorem State.icore_setCluster (s : State) (j k : Nat) (c : Cluster) : (s.setCluster k c).icore j = s.icore j := rfl
@[simp] theorem State.icore_setRouter (s : State) (j k : Nat) (c : Router) : (s.setRouter k c).icore j = s.icore j := rfl
@[simp] theorem State.icore_setRegion (s : State) (j k : Nat) (c : Region) : (s.setRegion k c).icore j = s.icore j := rfl
@[simp] theorem State.icore_send (s : State) (j : Nat) (m : Msg) : (s.send m).icore j = s.icore j := rfl
@[simp] theorem State.icore_writeMem (s : State) (j : Nat) (a : Nat) (bs : List Byte) : (s.writeMem a bs).icore j = s.icore j := rfl
@[simp] theorem State.icore_setMemFull (s : State) (j : Nat) (a : Nat) : (s.setMemFull a).icore j = s.icore j := rfl

end Sys2Proof.Machine
end

