-- ==== Sys2Proof/Laws/Ops.lean ====
section
/-! SUPPORT. What each shared operation does, said once: the empty rule, a write of a scalar register, retiring, and a
whole scalar instruction, on a tile core and on an island core. -/

namespace Sys2Proof.Machine

@[simp] theorem State.setCore_cur' (s : State) (k : Nat) (c : Core) : (s.setCore k c).cur = s.cur := rfl

/-! ### Registers -/

theorem State.reg_tile {s : State} {k : Nat} (h : s.cur = .tile k) (r : Nat) :
    s.reg r = if r = 0 then 0 else (s.core k).reg.word r := by simp [State.reg, h]

theorem State.reg_island {s : State} {k : Nat} (h : s.cur = .island k) (r : Nat) :
    s.reg r = if r = 0 then 0 else Tab.get 0 (s.icore k).regs r := by simp [State.reg, h]

@[simp] theorem RegSpace.refresh_words (g : RegSpace) (sl : Slice) (r : Nat) : (g.refresh sl r).words = g.words := by
  cases sl <;> rfl
@[simp] theorem RegSpace.refresh_empty (g : RegSpace) (sl : Slice) (r : Nat) : (g.refresh sl r).empty = g.empty := by
  cases sl <;> rfl
@[simp] theorem RegSpace.refresh_pend (g : RegSpace) (sl : Slice) (r : Nat) : (g.refresh sl r).pend = g.pend := by
  cases sl <;> rfl

@[simp] theorem RegSpace.refreshes_words (g : RegSpace) (sl : Slice) (rs : List Nat) :
    (rs.foldl (fun g r => g.refresh sl r) g).words = g.words := by
  induction rs generalizing g with
  | nil => rfl
  | cons r t ih => simp [List.foldl, ih]
@[simp] theorem RegSpace.refreshes_empty (g : RegSpace) (sl : Slice) (rs : List Nat) :
    (rs.foldl (fun g r => g.refresh sl r) g).empty = g.empty := by
  induction rs generalizing g with
  | nil => rfl
  | cons r t ih => simp [List.foldl, ih]
@[simp] theorem RegSpace.refreshes_pend (g : RegSpace) (sl : Slice) (rs : List Nat) :
    (rs.foldl (fun g r => g.refresh sl r) g).pend = g.pend := by
  induction rs generalizing g with
  | nil => rfl
  | cons r t ih => simp [List.foldl, ih]
@[simp] theorem RegSpace.refreshes_a (g : RegSpace) (rs : List Nat) :
    rs.foldl (fun g r => g.refresh .a r) g = g := by
  induction rs generalizing g with
  | nil => rfl
  | cons r t ih => exact ih g

@[simp] theorem Core.readIn_a (c : Core) (rs : List Nat) : c.readIn .a rs = c := by simp [Core.readIn]

/-- A word written reads as written and is full; word 0 is as it was. -/
theorem RegSpace.word_put (g : RegSpace) (w j : Nat) (v : Word) :
    (g.put w v).word j = if j = w ∧ w ≠ 0 then v else g.word j := by
  unfold RegSpace.put RegSpace.word
  split
  · simp_all
  · rw [Tab.get_put]
    by_cases h : j = w <;> simp_all

theorem RegSpace.isEmpty_put (g : RegSpace) (w j : Nat) (v : Word) :
    (g.put w v).isEmpty j = if j = w then false else g.isEmpty j := by
  unfold RegSpace.put RegSpace.isEmpty
  by_cases hw : w = 0
  · subst hw
    by_cases h : j = 0 <;> simp_all
  · simp only [hw, if_false, Tab.get_put]
    by_cases h : j = w <;> simp_all

/-! ### The empty rule (04: R75) -/

theorem State.firstEmpty_full {s : State} {k : Nat} (h : s.cur = .tile k) {rs : List Nat}
    (hf : ∀ r ∈ rs, (s.core k).reg.isEmpty r = false) : s.firstEmpty rs = none := by
  induction rs with
  | nil => rfl
  | cons r t ih =>
    simp only [State.firstEmpty, h]
    rw [hf r (by simp)]
    simpa using ih fun x hx => hf x (by simp [hx])

theorem State.firstEmpty_island {s : State} {k : Nat} (h : s.cur = .island k) (rs : List Nat) :
    s.firstEmpty rs = none := by
  cases rs <;> simp [State.firstEmpty, h]

/-- With every source full the instruction goes on, its copies fresh. -/
theorem State.sources_tile {s : State} {k : Nat} (h : s.cur = .tile k) {rs : List Nat}
    (hf : ∀ r ∈ rs, (s.core k).reg.isEmpty r = false) (w : Bool) (sl : Slice) (go : State → State) :
    s.sources w sl rs go = go (s.setCore k ((s.core k).readIn sl rs)) := by
  simp [State.sources, State.firstEmpty_full h hf, State.refresh, h, Core.readIn]

theorem State.sources_island {s : State} {k : Nat} (h : s.cur = .island k) (rs : List Nat) (w : Bool) (sl : Slice)
    (go : State → State) : s.sources w sl rs go = go s := by
  simp [State.sources, State.firstEmpty_island h, State.refresh, h]

/-! ### Destinations (05: R93) -/

@[simp] theorem State.opsOf_readIn (s : State) (k : Nat) (c : Core) (hd : c.dispq = (s.core k).dispq)
    (hs : c.stuck = (s.core k).stuck) : (s.setCore k c).opsOf k = s.opsOf k := by
  simp [State.opsOf, hd, hs]

theorem State.writeWaits_readIn (s : State) (k w : Nat) (sl : Slice) (rs : List Nat) :
    (s.setCore k ((s.core k).readIn sl rs)).writeWaits k w = s.writeWaits k w := by
  simp only [State.writeWaits, State.core_setCore_same]
  rw [State.opsOf_readIn s k ((s.core k).readIn sl rs) rfl rfl]
  simp [Core.readIn, RegSpace.isPend]

theorem State.destination_tile {s : State} {k rd : Nat} (h : s.cur = .tile k) (hw : s.writeWaits k rd = false)
    (go : State → State) : s.destination rd go = go s := by
  simp [State.destination, h, hw]

theorem State.destination_island {s : State} {k : Nat} (h : s.cur = .island k) (rd : Nat) (go : State → State) :
    s.destination rd go = go s := by
  simp [State.destination, h]

/-! ### Writing and retiring -/

theorem State.raise_tile {s : State} {k : Nat} (h : s.cur = .tile k) (f : Flags) :
    s.raise f = s.setCore k ((s.core k).flagged f) := by simp [State.raise, h, Core.flagged]

theorem State.raise_island {s : State} {k : Nat} (h : s.cur = .island k) (f : Flags) :
    s.raise f = s.setICore k ((s.icore k).flagged f) := by simp [State.raise, h, ICore.flagged]

theorem State.goto_tile {s : State} {k : Nat} (h : s.cur = .tile k) (t : Word) :
    s.goto t = s.setCore k ((s.core k).retired t) := by simp [State.goto, h, Core.retired]

theorem State.goto_island {s : State} {k : Nat} (h : s.cur = .island k) (t : Word) :
    s.goto t = s.setICore k ((s.icore k).retired t) := by simp [State.goto, h, ICore.retired]

theorem State.retire_tile {s : State} {k : Nat} (h : s.cur = .tile k) (len : Nat) :
    s.retire len = s.setCore k ((s.core k).retired ((s.core k).pc + BitVec.ofNat 64 len)) := by
  simp [State.retire, State.goto_tile h, State.pc, h]

theorem State.retire_island {s : State} {k : Nat} (h : s.cur = .island k) (len : Nat) :
    s.retire len = s.setICore k ((s.icore k).retired ((s.icore k).pc + BitVec.ofNat 64 len)) := by
  simp [State.retire, State.goto_island h, State.pc, h]

/-- A state whose core is put back as it is may differ only in listing the core. -/
theorem State.setReg_setCore {s : State} {k : Nat} (h : s.cur = .tile k) (c : Core) (rd : Nat) (v : Word) (cs : Nat) :
    (s.setCore k c).setReg rd v cs = s.setCore k (c.wrote rd v cs) := by
  unfold State.setReg Core.wrote
  split
  · rfl
  · simp [h]

theorem State.setReg_setICore {s : State} {k : Nat} (h : s.cur = .island k) (c : ICore) (rd : Nat) (v : Word)
    (cs : Nat) : (s.setICore k c).setReg rd v cs = s.setICore k (c.wrote rd v) := by
  unfold State.setReg ICore.wrote
  split
  · rfl
  · simp [h]

theorem Core.wrote_pc (c : Core) (rd : Nat) (v : Word) (cs : Nat) : (c.wrote rd v cs).pc = c.pc := by
  unfold Core.wrote; split <;> rfl

theorem ICore.wrote_pc (c : ICore) (rd : Nat) (v : Word) : (c.wrote rd v).pc = c.pc := by
  unfold ICore.wrote; split <;> rfl

/-- Writing a result and retiring on a tile core whose record stands in the state (06: R104). -/
theorem State.finish_setCore {s : State} {k : Nat} (h : s.cur = .tile k) (c : Core) (len rd : Nat) (v : Word)
    (cs : Nat) : (s.setCore k c).finish len rd v cs =
      s.setCore k ((c.wrote rd v cs).retired (c.pc + BitVec.ofNat 64 len)) := by
  rw [State.finish, State.setReg_setCore h, State.retire_tile (k := k) (by simpa using h)]
  simp [Core.wrote_pc]

theorem State.finish_setICore {s : State} {k : Nat} (h : s.cur = .island k) (c : ICore) (len rd : Nat) (v : Word)
    (cs : Nat) : (s.setICore k c).finish len rd v cs =
      s.setICore k ((c.wrote rd v).retired (c.pc + BitVec.ofNat 64 len)) := by
  rw [State.finish, State.setReg_setICore h, State.retire_island (k := k) (by simpa using h)]
  simp [ICore.wrote_pc]

/-- The registers a core reads are those before its copies were refreshed. -/
theorem State.reg_readIn {s : State} {k : Nat} (h : s.cur = .tile k) (sl : Slice) (rs : List Nat) (r : Nat) :
    (s.setCore k ((s.core k).readIn sl rs)).reg r = s.reg r := by
  simp [State.reg, h, Core.readIn, RegSpace.word]

theorem State.rm_readIn {s : State} {k : Nat} (h : s.cur = .tile k) (sl : Slice) (rs : List Nat) :
    (s.setCore k ((s.core k).readIn sl rs)).rm = s.rm := by
  simp [State.rm, State.fcsr, h, Core.readIn]

/-- A scalar instruction that executes on a tile core (06: R104): its flags, its result, the next instruction, and
nothing else. -/
theorem State.scalar_tile {s : State} {k rd : Nat} {rs : List Nat} (hr : s.tileReady k rs rd) (w : Bool) (cs len : Nat)
    (f : State → Word × Flags) {v : Word} {fl : Flags}
    (hv : f (s.setCore k ((s.core k).readIn .a rs)) = (v, fl)) :
    s.scalar w cs len rs rd f = s.setCore k ((((s.core k).flagged fl).wrote rd v cs).retired
      ((s.core k).pc + BitVec.ofNat 64 len)) := by
  obtain ⟨h, hf, hd⟩ := hr
  rw [State.scalar, State.sources_tile h hf, State.destination_tile (k := k) (by simpa using h)
    (by rw [State.writeWaits_readIn]; exact hd)]
  simp only [hv]
  rw [State.raise_tile (k := k) (by simpa using h)]
  simp only [State.core_setCore_same, State.setCore_setCore, Core.readIn_a]
  rw [State.finish_setCore h]
  rfl

/-- The same on an island core (16: R352). -/
theorem State.scalar_island {s : State} {k : Nat} (h : s.cur = .island k) (rd : Nat) (rs : List Nat) (w : Bool)
    (cs len : Nat) (f : State → Word × Flags) :
    s.scalar w cs len rs rd f = s.setICore k ((((s.icore k).flagged (f s).2).wrote rd (f s).1).retired
      ((s.icore k).pc + BitVec.ofNat 64 len)) := by
  rw [State.scalar, State.sources_island h, State.destination_island h]
  simp only []
  rw [State.raise_island h, State.finish_setICore h]
  rfl

@[simp] theorem Core.flagged_none (c : Core) : c.flagged Flags.none = c := by
  simp [Core.flagged, Flags.none]

@[simp] theorem ICore.flagged_none (c : ICore) : c.flagged Flags.none = c := by
  simp [ICore.flagged, Flags.none]

/-! ### Whole scalar instructions by shape (06: R104) -/

/-- A scalar instruction without flags on a tile core. -/
theorem State.scalar_done {s : State} {k rd : Nat} {rs : List Nat} (hr : s.tileReady k rs rd) (w : Bool) (cs len : Nat)
    (f : State → Word × Flags) {v : Word} (hv : f (s.setCore k ((s.core k).readIn .a rs)) = (v, Flags.none)) :
    s.scalar w cs len rs rd f = s.setCore k ((s.core k).done .a [] rd v cs len) := by
  rw [State.scalar_tile hr w cs len f hv]; simp [Core.done]

/-- A scalar instruction with flags on a tile core. -/
theorem State.scalar_flags {s : State} {k rd : Nat} {rs : List Nat} (hr : s.tileReady k rs rd) (w : Bool) (cs len : Nat)
    (f : State → Word × Flags) {v : Word} {fl : Flags}
    (hv : f (s.setCore k ((s.core k).readIn .a rs)) = (v, fl)) :
    s.scalar w cs len rs rd f = s.setCore k (((s.core k).flagged fl).done .a [] rd v cs len) := by
  rw [State.scalar_tile hr w cs len f hv]; simp [Core.done]; rfl

/-- An R-form instruction of two sources. -/
theorem State.alu_flags {s : State} {k : Nat} {ra rb rd : Reg} (hr : s.tileReady k [ra.toNat, rb.toNat] rd.toNat)
    (w : BitVec 1) (cs : BitVec 2) (f : Word → Word → Word × Flags) {v : Word} {fl : Flags}
    (hv : f (s.reg ra.toNat) (s.reg rb.toNat) = (v, fl)) :
    s.alu w cs rb ra rd f = s.setCore k (((s.core k).flagged fl).done .a [] rd.toNat v cs.toNat 4) :=
  State.scalar_flags hr _ _ _ _ (by simp only [State.reg_readIn hr.1, hv])

theorem State.alu_done {s : State} {k : Nat} {ra rb rd : Reg} (hr : s.tileReady k [ra.toNat, rb.toNat] rd.toNat)
    (w : BitVec 1) (cs : BitVec 2) (f : Word → Word → Word × Flags) {v : Word}
    (hv : f (s.reg ra.toNat) (s.reg rb.toNat) = (v, Flags.none)) :
    s.alu w cs rb ra rd f = s.setCore k ((s.core k).done .a [] rd.toNat v cs.toNat 4) :=
  State.scalar_done hr _ _ _ _ (by simp only [State.reg_readIn hr.1, hv])

/-- An F-form instruction of one source. -/
theorem State.unary_done {s : State} {k : Nat} {ra rd : Reg} (hr : s.tileReady k [ra.toNat] rd.toNat)
    (f : Word → Word × Flags) {v : Word} (hv : f (s.reg ra.toNat) = (v, Flags.none)) :
    s.unary ra rd f = s.setCore k ((s.core k).done .a [] rd.toNat v 0 4) :=
  State.scalar_done hr _ _ _ _ (by simp only [State.reg_readIn hr.1, hv])

end Sys2Proof.Machine
end

