-- ==== Sys2Proof/Laws/LoadStore.lean ====
section
/-! SUPPORT. What the shared operations of loads and stores do (LoadStore.lean, Operands.lean). -/

namespace Sys2Proof.Machine

/-! ### A core's record does not matter to addresses and memory -/

@[simp] theorem State.window_setCore (s : State) (k p : Nat) (c : Core) (a : Word) :
    (s.setCore k c).window p a = s.window p a := rfl

@[simp] theorem State.operand_setCore (s : State) (k p n : Nat) (c : Core) (a : Word) (u : Use) :
    (s.setCore k c).operand p a n u = s.operand p a n u := rfl

@[simp] theorem State.badAt_setCore (s : State) (k a n : Nat) (c : Core) : (s.setCore k c).badAt a n = s.badAt a n := rfl

@[simp] theorem State.readMem_setCore (s : State) (k a n : Nat) (c : Core) : (s.setCore k c).readMem a n = s.readMem a n :=
  rfl

@[simp] theorem State.readWord_setCore (s : State) (k a : Nat) (c : Core) : (s.setCore k c).readWord a = s.readWord a := rfl

@[simp] theorem State.memIsEmpty_setCore (s : State) (k a : Nat) (c : Core) :
    (s.setCore k c).memIsEmpty a = s.memIsEmpty a := rfl

/-! ### Counting errors and watches (10: R190; 17: R370) -/

/-- Where no word holds a single-bit error, reading counts none. -/
theorem State.countEcc_none {s : State} (h : s.eccSoft = []) (r a n : Nat) : s.countEcc r a n = s := by
  simp [State.countEcc, h]

/-- Where no watch of the cluster is enabled, an access meets none. -/
theorem State.watch_quiet {s : State} {p : Nat} (h : ∀ i, i < 9 → bit (Tab.get 0 (s.cluster p).wp i) 63 = false)
    (space own home off n : Nat) (kinds : List Nat) (kind : Nat) (src addr : Word) (core : Option Nat) :
    s.watch p space own home off n kinds kind src addr core = s := by
  have none_met : (span 0 9).filter (fun i => watches (Tab.get 0 (s.cluster p).wp i) kinds space own off n) = [] :=
    List.filter_eq_nil_iff.2 fun i hi => by
      rw [watches, h i (by simp [span] at hi; omega)]
      simp
  rw [State.watch, none_met]
  rfl

theorem State.watchLocal_quiet {s : State} {k : Nat}
    (h : ∀ i, i < 9 → bit (Tab.get 0 (s.cluster (corePos k)).wp i) 63 = false) (t : Target) (n kind : Nat) (addr : Word) :
    s.watchLocal k t n kind addr = s := by
  cases t <;> simp [State.watchLocal, State.watch_quiet h]

theorem State.watchExec_quiet {s : State} {k : Nat}
    (h : ∀ i, i < 9 → bit (Tab.get 0 (s.cluster (corePos k)).wp i) 63 = false) : s.watchExec k = (false, s) := by
  have go : ∀ l : List Nat, (∀ i ∈ l, i < 9) → l.foldl (fun (r : Bool × State) i =>
      let w := Tab.get 0 (r.2.cluster (corePos k)).wp i
      let here := bit w 63 && bit w 59 && (s.core k).twins (coreNo k) (bits w 52 2) && !isTranslated s.pc && bits w 1 23 = bits s.pc 1 23
      if !here then r
      else
        let act := bits w 60 3
        if (s.core k).within && act ≠ 1 then r
        else (r.1 || act = 1, r.2.hit (corePos k) i 6 (fields [(14, bits w 52 2)]) s.pc 0 none)) (false, s) = (false, s) := by
    intro l hl
    induction l with
    | nil => rfl
    | cons i t ih =>
      simp only [List.foldl_cons, h i (hl i (by simp)), Bool.false_and, Bool.not_false, if_true]
      exact ih fun j hj => hl j (by simp [hj])
  exact go (span 0 9) (by simp [span])

/-! ### An empty store buffer and free reply slots -/

theorem Core.buffered_drained {c : Core} (h : c.drained) : c.buffered = [] := by
  obtain ⟨h1, h2, h3, _⟩ := h
  simp [Core.buffered, h1, h2, h3]

theorem Core.acquiring_drained {c : Core} (h : c.drained) (z : Nat) : c.acquiring z = false := by
  simp [Core.acquiring, h.2.2.2]

theorem State.acquiring_drained {s : State} {k : Nat} (h : s.noneOut k) (z : Nat) : s.acquiring k z = false := by
  simp [State.acquiring, Core.acquiring_drained h.1, h.2]

theorem Core.loadsOut_drained {c : Core} (h : c.drained) : c.loadsOut = false := by simp [Core.loadsOut, h.2.2.2]

@[simp] theorem forward_nil (a b : Word) : forward [] a b = .none := rfl

theorem Core.freeSlot_free {c : Core} (h : c.slotsFree) : c.freeSlot = some 0 := by
  unfold Core.freeSlot
  rw [show c.slots = _ from h]
  rfl

/-! ### The small parts of a core that refreshing copies leaves -/

theorem Core.readIn_eq (c : Core) (sl : Slice) (rs : List Nat) : ∃ g : RegSpace, c.readIn sl rs = { c with reg := g } ∧
    g.words = c.reg.words ∧ g.empty = c.reg.empty ∧ g.pend = c.reg.pend :=
  ⟨_, rfl, by simp, by simp, by simp⟩

@[simp] theorem Core.drained_readIn (c : Core) (sl : Slice) (rs : List Nat) : (c.readIn sl rs).drained ↔ c.drained := Iff.rfl

@[simp] theorem State.quietReads_setCore (s : State) (k p : Nat) (c : Core) :
    (s.setCore k c).quietReads p ↔ s.quietReads p := Iff.rfl

@[simp] theorem State.homeScope_setCore (s : State) (k p : Nat) (c : Core) (t : Target) :
    (s.setCore k c).homeScope p t = s.homeScope p t := by cases t <;> rfl

/-! ### Loads and stores of a tile core (10: R203, R204; 15: R314) -/

/-- A load that the own cluster serves, with nothing of the core under way: the bytes at their home. -/
theorem State.tileLoad_served {s : State} {k n rd h : Nat} {a : Word} {t : Target} (hc : s.cur = .tile k)
    (hd : s.noneOut k) (hq : s.quietReads (corePos k)) (ho : s.operand (corePos k) a n .load = some t)
    (ht : t.home k = some h) (ha : a.toNat % n = 0) (hb : s.badAt h n = false) (hw : s.writeWaits k rd = false)
    (len : Nat) (signed : Bool) (acq : Option Nat) :
    s.tileLoad k len n signed acq a rd = s.finish len rd (extend signed n (s.readMem h n)) 0 := by
  simp [State.tileLoad, ho, ha, State.destination_tile hc hw, State.acquiring_drained hd, Core.buffered_drained hd.1, ht,
    Core.loadsOut_drained hd.1, hb, State.countEcc_none hq.1, State.watchLocal_quiet hq.2]

/-- A load from elsewhere, with nothing of the core under way: reply slot 0 and a request. -/
theorem State.tileLoad_asked {s : State} {k n rd : Nat} {a : Word} {t : Target} (hc : s.cur = .tile k)
    (hd : s.noneOut k) (hf : (s.core k).slotsFree) (ho : s.operand (corePos k) a n .load = some t)
    (ht : t.home k = none) (ha : a.toNat % n = 0) (hw : s.writeWaits k rd = false) (len : Nat) (signed : Bool) :
    s.tileLoad k len n signed none a rd =
      (s.request k 0 { acc := { addr := a, n := n }, pc := (s.core k).pc, home := s.homeScope (corePos k) t
                       dest := t.dest k, dst := 8 * rd, len := 8, signed := signed } t).retire len := by
  simp [State.tileLoad, b2n, ho, ha, State.destination_tile hc hw, State.acquiring_drained hd, Core.buffered_drained hd.1, ht,
    Core.freeSlot_free hf]

/-- A store with room in the buffer and no send to wait for: one entry, and the next instruction. -/
theorem State.tileStore_buffered {s : State} {k n rd : Nat} {a : Word} {t : Target} (hc : s.cur = .tile k)
    (hf : (s.core k).reg.isEmpty rd = false) (hr : (s.core k).storeRoom 1)
    (ho : s.operand (corePos k) a n .store = some t) (ha : a.toNat % n = 0) (len : Nat) (rel : Option Nat) :
    s.tileStore k len n rel a rd =
      ((s.setCore k ((s.core k).readIn .m [rd])).enqueue k [match rel with
        | some z => { s.entry k t a n (s.reg rd) with
            rel := some z, acc := { (s.entry k t a n (s.reg rd)).acc with kind := 7, ord := 2, scope := z } }
        | none => s.entry k t a n (s.reg rd)]).retire len := by
  obtain ⟨h1, h2, h3, h4, h4', h5⟩ := hr
  have hs : (s.setCore k ((s.core k).readIn .m [rd])).sendReads k t n = false := by
    unfold State.sendReads
    cases t.home k <;> simp [h4, h4', Core.heldSends, h5, Core.readIn]
  have hroom : ¬ (((s.core k).readIn .m [rd])).room < 1 := by simp [Core.room, Core.readIn, h2]; omega
  have hp : ((s.core k).readIn .m [rd]).pair ≠ .first := by simp [Core.readIn, h3]
  have he : (s.setCore k ((s.core k).readIn .m [rd])).entry k t a n (s.reg rd) = s.entry k t a n (s.reg rd) := by
    simp only [State.entry, State.homeScope_setCore, State.core_setCore_same, Core.readIn]
  simp only [State.tileStore, ho, ha, State.sources_tile hc (rs := [rd]) (by simpa using hf), hs, State.withRoom,
    State.core_setCore_same, hp, hroom, State.reg_readIn hc, he]
  simp <;> rfl

end Sys2Proof.Machine
end

