-- ==== Sys2Proof/Laws/Memory.lean ====
section
/-! SUPPORT. Every operation that writes memory keeps its canonical form, and what each leaves of the state. -/

namespace Sys2Proof.Machine

/-! ### Writes -/

theorem State.inv_of_mem {s t : State} (h : t.mem = s.mem) (hi : s.Inv) : t.Inv := by
  unfold State.Inv at *; rw [h]; exact hi

/-- A write of bytes keeps the canonical form. -/
theorem State.writeMem_inv {s : State} (hi : s.Inv) (a : Nat) (bs : List Byte) : (s.writeMem a bs).Inv :=
  Memory.wf_writeBytes a bs hi

theorem State.writeWord_inv {s : State} (hi : s.Inv) (a : Nat) (v : Word) : (s.writeWord a v).Inv :=
  State.writeMem_inv hi a _

theorem State.writeMasked_inv {s : State} (hi : s.Inv) (a : Nat) (mask v : Word) : (s.writeMasked a mask v).Inv := by
  have h := State.writeWord_inv hi a ((s.readWord a &&& ~~~mask) ||| (v &&& mask))
  unfold State.writeMasked
  by_cases hm : mask = BitVec.allOnes 64
  · simpa [hm] using h
  · simp only [if_neg hm]
    exact State.inv_of_mem rfl h

/-- Memory without the bytes that a predicate picks out keeps the canonical form: it is a part of the list (03: R53). -/
theorem State.dropBytes_inv {s : State} (hi : s.Inv) (p : Nat) : (s.dropBytes p).Inv :=
  Memory.wf_filter _ hi

/-- Bytes outside a write read as before. -/
theorem State.writeMem_outside {s : State} (hi : s.Inv) {a x : Nat} {bs : List Byte} (hx : x < a ∨ a + bs.length ≤ x) :
    Mem.read (s.writeMem a bs).mem x = Mem.read s.mem x := Mem.read_writeBytes_outside a x bs hi hx

/-- Bytes written read as written. -/
theorem State.readBytes_writeMem {s : State} (hi : s.Inv) (a : Nat) (bs : List Byte) :
    Mem.readBytes (s.writeMem a bs).mem a bs.length = bs := Mem.readBytes_writeBytes a bs hi

@[simp] theorem State.writeMem_core (s : State) (a k : Nat) (bs : List Byte) : (s.writeMem a bs).core k = s.core k := rfl

/-! ### Messages and traps -/

@[simp] theorem State.injectCore_mem (s : State) (k : Nat) (m : Msg) : (s.injectCore k m).mem = s.mem := rfl
@[simp] theorem State.injectIsland_mem (s : State) (r : Nat) (m : Msg) : (s.injectIsland r m).mem = s.mem := rfl
@[simp] theorem State.toIsland_mem (s : State) (k r ch : Nat) (ws : List Word) : (s.toIsland k r ch ws).mem = s.mem := rfl
@[simp] theorem State.report_mem (s : State) (p r cause unit chan : Nat) (h0 h1 : Word) :
    (s.report p r cause unit chan h0 h1).mem = s.mem := rfl

/-- Taking a trap writes at most the save area of the core, and keeps the canonical form (16: R335). -/
theorem State.takeTrap_inv {s : State} (hi : s.Inv) (k : Nat) (c : Cause) : (s.takeTrap k c).Inv := by
  unfold State.takeTrap
  simp only []
  split
  · exact State.inv_of_mem (State.toIsland_mem _ _ _ _ _) (State.writeMem_inv (State.inv_of_mem rfl hi) _ _)
  · exact State.inv_of_mem (State.toIsland_mem _ _ _ _ _) (State.inv_of_mem rfl hi)

/-- Without a save area taking a trap writes no memory. -/
theorem State.takeTrap_mem {s : State} {k : Nat} (h : s.tfHome k = none) (c : Cause) : (s.takeTrap k c).mem = s.mem := by
  have h' : ∀ d t : Core, d.tfbase = (s.core k).tfbase → ((s.setCore k t).setCore k d).tfHome k = none := by
    intro d t hd
    unfold State.tfHome at h ⊢
    have hc : ((s.setCore k t).setCore k d).core k = d := by simp [State.core, State.setCore]
    rw [hc, hd]
    exact h
  unfold State.takeTrap
  simp only []
  rw [h' _ _ (by simp [State.core, State.setCore])]
  rfl

/-! ### Island stores and entries -/

theorem State.dirty_mem (s : State) (a n : Nat) : (s.dirty a n).mem = s.mem := rfl

/-- The stores of an island core's buffer keep the canonical form (15: R327). -/
theorem State.performAll_inv {s : State} (hi : s.Inv) (k : Nat) : (s.performAll k).Inv := by
  have go : ∀ (es : List Buffered) (t : State), t.Inv →
      (es.foldl (fun s e => match e.homeAt with
        | some h => (s.dirty h 8).writeMasked h e.mask e.data
        | none => s) t).Inv := by
    intro es
    induction es with
    | nil => exact fun t h => h
    | cons e es ih =>
      intro t ht
      refine ih _ ?_
      dsimp only
      split
      · exact State.writeMasked_inv (State.inv_of_mem (State.dirty_mem t _ 8) ht) _ _ _
      · exact ht
  unfold State.performAll
  simp only []
  split
  · exact go _ s hi
  · exact State.inv_of_mem rfl (go _ s hi)

theorem State.countEcc_mem (s : State) (r a n : Nat) : (s.countEcc r a n).mem = s.mem := by
  simp only [State.countEcc, apply_ite State.mem]; exact ite_self _

theorem State.wedge_mem (s : State) (k cause : Nat) (a : Word) : (s.wedge k cause a).mem = s.mem := rfl

/-- The entry of an island core keeps the canonical form (16: R354). -/
theorem State.islandEnter_inv {s : State} (hi : s.Inv) (k why vec : Nat) (addr ret : Word) :
    (s.islandEnter k why vec addr ret).Inv := by
  have hp := State.performAll_inv hi k
  have hw : ∀ {t : State} (x : Nat) (y : Word), t.Inv → (t.wedge k x y).Inv :=
    fun x y h => State.inv_of_mem (State.wedge_mem _ k x y) h
  simp only [State.islandEnter]
  by_cases hd : bits ((s.performAll k).icore k).kstat 4 4 = 15
  · rw [if_pos hd]; exact hw _ _ hp
  rw [if_neg hd]
  generalize kernelHome (((s.performAll k).icore k).ksp - 64) = fa
  generalize kernelHome (((s.performAll k).icore k).ksp - 64 + 56) = fb
  rcases fa with _ | fa
  · exact hw _ _ hp
  rcases fb with _ | _
  · exact hw _ _ hp
  dsimp only
  generalize kernelHome (((s.performAll k).icore k).kvt + BitVec.ofNat 64 vec) = va
  have hf := fun bs d => State.inv_of_mem (State.setICore_mem ((s.performAll k).writeMem fa bs) k d)
    (State.writeMem_inv hp fa bs)
  rcases va with _ | va
  · exact hw _ _ (hf _ _)
  dsimp only
  split
  · exact hw _ _ (hf _ _)
  · exact State.inv_of_mem ((State.setICore_mem _ _ _).trans (State.countEcc_mem _ _ _ _)) (hf _ _)

/-- A precise cause keeps the canonical form, on either kind of core. -/
theorem State.trap_inv {s : State} (hi : s.Inv) (c : Cause) : (s.trap c).Inv := by
  unfold State.trap
  cases hc : s.cur with
  | tile k =>
    simp only []
    split
    · exact State.inv_of_mem (by simp [State.block, hc]) hi
    · exact State.takeTrap_inv hi k _
  | island k => exact State.islandEnter_inv hi k _ _ _ _

/-! ### Engine writes and writes through a context -/

theorem State.clean_mem (s : State) (a n : Nat) : (s.clean a n).mem = s.mem := rfl
theorem State.settle_mem (s : State) (k ch : Nat) (w : Word) : (s.settle k ch w).mem = s.mem := by
  unfold State.settle; simp only []; split <;> rfl

/-- Counting arrivals writes no memory (12: R230). -/
theorem State.countRun_mem (s : State) (k space off n : Nat) (w : Nat → Word) : (s.countRun k space off n w).mem = s.mem := by
  unfold State.countRun
  generalize span 0 32 = l
  induction l generalizing s with
  | nil => rfl
  | cons ch l ih =>
    rw [List.foldl, ih]
    simp only []
    split
    · rfl
    · split
      · rfl
      · rw [State.settle_mem]; rfl

theorem State.countAt_mem (s : State) (h n : Nat) (w : Nat → Nat → Word) : (s.countAt h n w).mem = s.mem := by
  unfold State.countAt
  split
  · exact State.countRun_mem ..
  · next p off _ =>
    generalize span (4 * p) 4 = l
    induction l generalizing s with
    | nil => rfl
    | cons k l ih => rw [List.foldl, ih, State.countRun_mem]
  · rfl

theorem State.fillRun_mem (s : State) (h n : Nat) : (s.fillRun h n).mem = s.mem := by
  unfold State.fillRun; split <;> rfl

/-- A write of an engine's operation changes memory as the plain write does, whatever it has counted (12: R230); one to
another wafer leaves it as it is. -/
theorem State.opWrite_mem (s : State) (hits : List (Nat × Nat)) (h : Nat) (bs : List Byte) :
    (s.opWrite hits h bs).1.mem = if awayHome h then s.mem else Mem.writeBytes s.mem h bs := by
  have go : ∀ (rs : List (Nat × Nat)) (t : State),
      (rs.foldl (fun s r => s.countAt r.1 r.2 engArrival) t).mem = t.mem := by
    intro rs
    induction rs with
    | nil => exact fun t => rfl
    | cons r rs ih => exact fun t => (ih _).trans (State.countAt_mem _ _ _ _)
  unfold State.opWrite
  by_cases ha : awayHome h = true
  · simp only [if_pos ha]; rfl
  · simp only [if_neg ha]
    rcases spotOf h with _ | x
    · rfl
    · exact (go _ _).trans (State.fillRun_mem _ _ _)

theorem State.opWrite_inv {s : State} (hi : s.Inv) (hits : List (Nat × Nat)) (h : Nat) (bs : List Byte) :
    (s.opWrite hits h bs).1.Inv := by
  unfold State.Inv; rw [State.opWrite_mem]
  split
  · exact hi
  · exact Memory.wf_writeBytes h bs hi

theorem State.engineLay_inv (hs : List (Nat × Nat)) :
    ∀ {s : State}, s.Inv → ∀ hits bs, (s.engineLay hits hs bs).1.Inv := by
  induction hs with
  | nil => exact fun hi _ _ => hi
  | cons x t ih => exact fun hi _ _ => ih (State.opWrite_inv hi _ _ _) _ _

/-! ### Folds, counters and watches -/

/-- A fold of steps that leave memory alone leaves it alone. -/
theorem State.foldl_mem {α : Type} {f : State → α → State} (hf : ∀ s x, (f s x).mem = s.mem) :
    ∀ (l : List α) (s : State), (l.foldl f s).mem = s.mem
  | [], _ => rfl
  | x :: l, s => (State.foldl_mem hf l (f s x)).trans (hf s x)

/-- A fold of steps that keep the canonical form keeps it. -/
theorem State.foldl_inv {α : Type} {f : State → α → State} (hf : ∀ s x, s.Inv → (f s x).Inv) :
    ∀ (l : List α) (s : State), s.Inv → (l.foldl f s).Inv
  | [], _, h => h
  | x :: l, s, h => State.foldl_inv hf l (f s x) (hf s x h)

theorem State.countSent_mem (s : State) (p port vc n : Nat) : (s.countSent p port vc n).mem = s.mem := rfl

/-- A message that passes at once counts, and writes no memory (17: R372). -/
theorem State.pass_mem (s : State) (vc tag n p d : Nat) : (s.pass vc tag n p d).2.mem = s.mem :=
  State.foldl_mem (f := fun s (l : Nat × Nat) => s.countSent l.1 l.2 vc n) (fun _ _ => rfl) _ s

theorem State.sentTo_mem (s : State) (p : Nat) (t : Target) : (s.sentTo p t).mem = s.mem := by
  unfold State.sentTo
  simp only []
  split
  · rfl
  · split
    · exact State.pass_mem ..
    · rw [State.pass_mem, State.pass_mem]

/-- Reading the page tables counts, and writes no memory (10: R190). -/
theorem State.countRoot_mem (s : State) (r root va : Nat) : (s.countRoot r root va).mem = s.mem := by
  unfold State.countRoot
  split
  · rfl
  · exact State.foldl_mem (fun s a => State.countEcc_mem s r a 8) _ s

theorem State.asked_mem (s : State) (k : Nat) (a : Word) : (s.asked k a).mem = s.mem := by
  unfold State.asked
  simp only []
  split
  · rfl
  · split
    · exact (State.countRoot_mem ..).trans (State.sentTo_mem ..)
    · exact State.sentTo_mem ..

theorem State.hitRecord_inv {s : State} (hi : s.Inv) (p wp kind : Nat) (src addr value : Word) :
    (s.hitRecord p wp kind src addr value).Inv := State.writeMem_inv (State.writeMem_inv hi _ _) _ _

theorem State.setCore_inv {s : State} (hi : s.Inv) (k : Nat) (c : Core) : (s.setCore k c).Inv := hi

theorem State.setCluster_inv {s : State} (hi : s.Inv) (p : Nat) (c : Cluster) : (s.setCluster p c).Inv := hi

theorem State.hit_inv {s : State} (hi : s.Inv) (p wp kind : Nat) (src addr value : Word) (core : Option Nat) :
    (s.hit p wp kind src addr value core).Inv := by
  unfold State.hit
  extract_lets _ _ _ _ _ _ t u
  have ht : t.Inv := State.setCluster_inv hi p _
  have h : u.Inv := State.hitRecord_inv ht p wp kind src addr value
  clear_value u
  split
  · split
    · exact State.setCore_inv h _ _
    · exact h
  · exact h

/-- The hits of an access write records only, and keep the canonical form (17: R370, R371). -/
theorem State.watch_inv {s : State} (hi : s.Inv) (p space own home off n : Nat) (kinds : List Nat) (kind : Nat)
    (src addr : Word) (core : Option Nat) : (s.watch p space own home off n kinds kind src addr core).Inv :=
  State.foldl_inv (fun _ i h => State.hit_inv h p i kind src addr _ core) _ s hi

theorem State.watchLocal_inv {s : State} (hi : s.Inv) (k : Nat) (t : Target) (n kind : Nat) (addr : Word) :
    (s.watchLocal k t n kind addr).Inv := by
  have w {u : State} (h : u.Inv) (a b c d e f g i j l) : (u.watch a b c d e f g i j addr l).Inv := State.watch_inv h ..
  unfold State.watchLocal
  generalize (if kind = 4 then 58 else 55 + kind) = kb
  simp only []
  cases t with
  | tcm o =>
    simp only [apply_ite State.Inv]
    split
    · exact w (w hi ..) ..
    · exact w hi ..
  | spad o => exact w hi ..
  | _ => exact hi

/-- An engine's access, once performed, has counted and met watches: it keeps the canonical form (17: R370, R372). -/
theorem State.accessed_inv {s : State} (hi : s.Inv) (k : Nat) (w : Want) (a : Word) (n : Nat) : (s.accessed k w a n).Inv := by
  have h := State.inv_of_mem (State.asked_mem s k a) hi
  unfold State.accessed
  simp only []
  split
  · exact State.watch_inv h ..
  · exact State.watch_inv h ..
  · exact State.watchLocal_inv h ..
  · exact h

theorem State.performed_inv {s : State} (hi : s.Inv) (k : Nat) (w : Want) (a : Word) (n : Nat) :
    (s.performed k w a n).Inv :=
  State.foldl_inv (fun _ _ h => State.accessed_inv h ..) _ s hi

/-- A range that an engine writes keeps the canonical form. -/
theorem State.engineStore_inv {s : State} (hi : s.Inv) {hits : List (Nat × Nat)} {k : Nat} {a : Word} {bs : List Byte}
    {t : State × List (Nat × Nat)} (h : s.engineStore hits k a bs = .ok t) : t.1.Inv := by
  unfold State.engineStore at h
  split at h
  · cases h; exact State.performed_inv (State.engineLay_inv _ hi _ _) ..
  · cases h

theorem State.lay_inv (hs : List (Nat × Nat)) : ∀ {s : State}, s.Inv → ∀ bs, (s.lay hs bs).Inv := by
  induction hs with
  | nil => exact fun hi bs => hi
  | cons x t ih =>
    intro s hi bs
    refine ih ?_ _
    split
    · exact hi
    · exact State.writeMem_inv (State.inv_of_mem (State.clean_mem _ _ _) hi) _ _

theorem State.ctxWalks_mem (s : State) (tag : Nat) (a : Word) (n : Nat) : (s.ctxWalks tag a n).mem = s.mem :=
  State.foldl_mem (fun s _ => State.countRoot_mem s _ _ _) _ s

/-- A write through a partition's context keeps the canonical form (10: R197). -/
theorem State.ctxWrite_inv {s t : State} (hi : s.Inv) {tag : Nat} {a : Word} {bs : List Byte}
    (h : s.ctxWrite tag a bs = .ok t) : t.Inv := by
  unfold State.ctxWrite at h
  split at h
  · cases h; exact State.lay_inv _ (State.inv_of_mem (State.ctxWalks_mem ..) hi) _
  · cases h

theorem State.ringWrite_inv {s : State} (hi : s.Inv) (tag : Nat) (a : Word) (bs : List Byte) :
    (s.ringWrite tag a bs).Inv := by
  unfold State.ringWrite
  split
  · next h => exact State.ctxWrite_inv hi h
  · exact hi

end Sys2Proof.Machine
end

