-- ==== Sys2Proof/Tests/Slice0.lean ====
section
/-! SUPPORT. Tests: decoding against words written out from the opcode table and the manual's examples, ill-formed terms,
placing a word, single steps, and for every statement with hypotheses a state and operands that meet them. -/

namespace Sys2Proof.Tests

-- One theorem at a time: each would otherwise be checked in a thread of its own.
set_option Elab.async false

open Sys2Proof Sys2Proof.Machine

/-! ### Decoding -/

/-- The halfwords of an instruction as one number, the first lowest. -/
def encodeWord (i : Instr) : Nat :=
  match encode i with
  | [a, b] => a.toNat + 65536 * b.toNat
  | [a] => a.toNat
  | _ => 0

def words1 : List (Nat × Instr) :=
  [(0xB9D9EE80, .add 1 3 14 51 29), (0xB9D9EE81, .sub 1 3 14 51 29), (0xB9D9EE82, .and 1 3 14 51 29),
   (0xB9D9EE83, .or 1 3 14 51 29), (0xB9D9EE84, .xor 1 3 14 51 29), (0xB9D9EE85, .andn 1 3 14 51 29),
   (0xB9D9EE86, .shl 1 3 14 51 29), (0xB9D9EE87, .shr 1 3 14 51 29), (0xB9D9EE88, .sar 1 3 14 51 29),
   (0xB9D9EE89, .ror 1 3 14 51 29), (0xB9D9EE8A, .mul 1 3 14 51 29), (0xB9D9EE8B, .mulh 1 3 14 51 29),
   (0xB9D9EE8C, .mulhu 1 3 14 51 29), (0xB9D9EE8D, .div 1 3 14 51 29), (0xB9D9EE8E, .divu 1 3 14 51 29),
   (0xB9D9EE8F, .rem 1 3 14 51 29), (0xB9D9EE90, .remu 1 3 14 51 29), (0xB9D9EE91, .min 1 3 14 51 29),
   (0xB9D9EE92, .max 1 3 14 51 29), (0xB9D9EE93, .minu 1 3 14 51 29), (0xB9D9EE94, .maxu 1 3 14 51 29),
   (0xB9D9EE95, .slt 1 3 14 51 29), (0xB9D9EE96, .sltu 1 3 14 51 29), (0xB9D9EE97, .seq 1 3 14 51 29)]

theorem test_words1 : ∀ p ∈ words1, decodeTableWord 32 p.1 = some p.2 ∧ encodeWord p.2 = p.1 := by decide +kernel

def words2 : List (Nat × Instr) :=
  [(0xB9D9EE98, .sel 1 3 14 51 29), (0x800AF599, .clz 21 43), (0x880AF599, .ctz 21 43), (0x900AF599, .popc 21 43),
   (0x980AF599, .bswap 21 43), (0xA00AF599, .sextb 21 43), (0xA80AF599, .sexth 21 43), (0xB00AF599, .sextw 21 43),
   (0xB80AF599, .zextw 21 43), (0xB9D9EE9A, .bext 1 3 14 51 29), (0xB9D9EE9B, .bdep 1 3 14 51 29),
   (0xA2B5E71C, .addi 277 43 14), (0xA2B5E71D, .andi 277 43 14), (0xA2B5E71E, .ori 277 43 14),
   (0x82B5E71F, .shli 21 43 14), (0x8AB5E71F, .shri 21 43 14), (0x92B5E71F, .sari 21 43 14),
   (0x9AB5E71F, .rori 21 43 14), (0xB9D9EEA0, .fadd 1 3 14 51 29), (0xB9D9EEA1, .fsub 1 3 14 51 29),
   (0xB9D9EEA2, .fmul 1 3 14 51 29), (0xB9D9EEA3, .fdiv 1 3 14 51 29), (0xB9D9EEA4, .ffma 1 3 14 51 29),
   (0xB9D9EEA5, .fmin 1 3 14 51 29)]

theorem test_words2 : ∀ p ∈ words2, decodeTableWord 32 p.1 = some p.2 ∧ encodeWord p.2 = p.1 := by decide +kernel

def words3 : List (Nat × Instr) :=
  [(0xB9D9EEA6, .fmax 1 3 14 51 29), (0xB807D9A7, .fsqrt 1 3 14 51), (0x82B5E728, .fcmpEq 21 43 14),
   (0x8AB5E728, .fcmpLt 21 43 14), (0x92B5E728, .fcmpLe 21 43 14), (0x9AB5E728, .fcmpUnord 21 43 14),
   (0x800AF5A9, .fcvtF32S64 21 43), (0x880AF5A9, .fcvtS64F32 21 43), (0x900AF5A9, .fcvtF32Bf16 21 43),
   (0x980AF5A9, .fcvtBf16F32 21 43), (0xA00AF5A9, .fcvtF32F16 21 43), (0xA80AF5A9, .fcvtF16F32 21 43),
   (0xB0B5E729, .fcvtF32Fmt 5 43 14), (0xB8B5E729, .fcvtFmtF32 5 43 14), (0x800AF5AA, .fneg 21 43),
   (0x880AF5AA, .fabs 21 43), (0x92B5E72A, .fcopysign 21 43 14), (0x800AF5AB, .fclass 21 43),
   (0xA560C72E, .movk 1 43 14), (0xA567D9AF, .addk 1 43 14 51), (0xA2B5E730, .beq 277 43 14),
   (0xA2B5E731, .bne 277 43 14), (0xA2B5E732, .blt 277 43 14), (0xA2B5E733, .bge 277 43 14)]

theorem test_words3 : ∀ p ∈ words3, decodeTableWord 32 p.1 = some p.2 ∧ encodeWord p.2 = p.1 := by decide +kernel

def words4 : List (Nat × Instr) :=
  [(0xA2B5E734, .bltu 277 43 14), (0xA2B5E735, .bgeu 277 43 14), (0xA000CAB6, .j 1048597), (0xA000CAB7, .jl 1048597),
   (0xB807D9B8, .jr 1 3 14 51), (0xA2A0D5B9, .loop 277 43), (0x8000C03A, .done), (0x8800C03A, .doneRepost),
   (0xA2B5E73B, .bfe 277 43 14), (0x82B5E03C, .waitfe 21 43), (0x82B5E73D, .csrw 21 43 14),
   (0x82B5E73E, .csrs 21 43 14), (0x82B5E73F, .csrc 21 43 14), (0x82A0D5FD, .csrr 21 43),
   (0xA2B5E740, .ldb 277 43 14), (0xA2B5E741, .ldbu 277 43 14), (0xA2B5E742, .ldh 277 43 14),
   (0xA2B5E743, .ldhu 277 43 14), (0xA2B5E744, .ldw 277 43 14), (0xA2B5E745, .ldwu 277 43 14),
   (0xA2B5E746, .ldd 277 43 14), (0xA2B5E747, .stb 277 43 14), (0xA2B5E748, .sth 277 43 14),
   (0xA2B5E749, .stw 277 43 14)]

theorem test_words4 : ∀ p ∈ words4, decodeTableWord 32 p.1 = some p.2 ∧ encodeWord p.2 = p.1 := by decide +kernel

def words5 : List (Nat × Instr) :=
  [(0xA2B5E74A, .std 277 43 14), (0xA2B5E74B, .lds 277 43 14), (0x800AE5CC, .ldv 21 11), (0x880AE5CC, .stv 21 11),
   (0x82B5E74D, .bitld 21 43 14), (0x8AB5E74D, .bitst 21 43 14), (0x800AF74E, .ldr 21 1 14),
   (0x800AF5CF, .lde 21 43), (0x880AF5CF, .stf 21 43), (0x900AE04F, .setf 21), (0x980AE04F, .sete 21),
   (0x902AE04F, .setfRs 21), (0x982AE04F, .seteRs 21), (0x87D9EED0, .amo 1 3 6 51 29),
   (0x9015E751, .amoxXchg 1 43 14), (0x9D67D9D1, .amoxCas 1 43 14 51), (0xA015E752, .amofFadd32 1 43 14),
   (0xA815E752, .amofFmaxabs 1 43 14), (0xB567D9D2, .amofBumplim 1 43 14 51), (0x80E0C053, .fence 7),
   (0x82B5E454, .fencer 21 43 8), (0x8000C055, .tfence), (0x82E7D9D6, .ldacq 1 7 14 51),
   (0x82E7D9D7, .strel 1 7 14 51)]

theorem test_words5 : ∀ p ∈ words5, decodeTableWord 32 p.1 = some p.2 ∧ encodeWord p.2 = p.1 := by decide +kernel

def words6 : List (Nat × Instr) :=
  [(0x82B5E758, .send 21 43 14), (0x82B5E059, .sendv 21 43), (0x82B5E75A, .sendp 21 43 14), (0x800AE05C, .post 21),
   (0x82B5E75D, .hmask 21 43 14), (0x82B5E05E, .arradd 21 43), (0x8AB5E05E, .arrwait 21 43),
   (0x900AF5DE, .arrreset 21 43), (0x82B5E75F, .cbarArrive 21 43 14), (0x8AB5E05F, .cbarWait 21 43),
   (0x92B5E75F, .cbarArrivewait 21 43 14), (0x82B5E760, .cpygo 21 43 14), (0x82A0D5E1, .cpywait 21 43),
   (0x82A0D5E2, .cpystat 21 43), (0x800AE5E3, .tmset 21 11), (0x800AE5E4, .tmget 21 11),
   (0x82B5E065, .waitmask 21 43), (0x82B5E766, .testmask 21 43 14), (0x82B5E767, .hbset 21 43 14),
   (0x800AE1E8, .fmtset 21 3), (0x826BF669, .mldw 38 5 14 3), (0x826DCF6A, .mmul 38 1 5 3 1 2),
   (0x809AFDEB, .mream 38 5 14 1 1), (0x8000C16C, .mrmrg 1 0)]

theorem test_words6 : ∀ p ∈ words6, decodeTableWord 32 p.1 = some p.2 ∧ encodeWord p.2 = p.1 := by decide +kernel

def words7 : List (Nat × Instr) :=
  [(0x8015F46D, .mdrain 21 1 2 1), (0x89AFD8ED, .mstore 38 5 14 3), (0x8000C2EE, .mclr 5), (0x8000CAEF, .mstat 21),
   (0x855BE9F0, .vadd 5 11 14 19), (0x8C5BE9F0, .vsub 4 11 14 19), (0x925BE9F0, .vmul 2 11 14 19),
   (0x9A5BE9F0, .vfma 2 11 14 19), (0xA25BE9F0, .vmin 2 11 14 19), (0xAA5BE9F0, .vmax 2 11 14 19),
   (0xB202F770, .vabs 2 11 14), (0xBA02F770, .vneg 2 11 14), (0x80AAF771, .vand 21 11 14),
   (0x88AAF771, .vor 21 11 14), (0x90AAF771, .vxor 21 11 14), (0x98AAF771, .vandn 21 11 14),
   (0xA25BE9F1, .vshl 2 11 14 19), (0xAA5BE9F1, .vshr 2 11 14 19), (0xB25BE9F1, .vsar 2 11 14 19),
   (0xB805D5F1, .vnot 21 11), (0xB174FEF2, .vcmp 6 1 14 19 29), (0x825BE9F3, .vsel 2 11 14 19),
   (0x8A5BE9F3, .vpermx 2 11 14 19), (0x9202F773, .vbcast 2 11 14)]

theorem test_words7 : ∀ p ∈ words7, decodeTableWord 32 p.1 = some p.2 ∧ encodeWord p.2 = p.1 := by decide +kernel

def words8 : List (Nat × Instr) :=
  [(0x9A5BE9F3, .vslideup 2 11 14 19), (0xA25BE9F3, .vslidedn 2 11 14 19), (0xAA5BE9F3, .vzip 2 11 14 19),
   (0xB202F773, .vunzip 2 11 14), (0xBA00C5F3, .viota 2 11), (0x983FD374, .vcvt 3 0 1 3 29 6),
   (0xAA03E9F5, .vred 5 2 14 19), (0x825BE9F6, .ldtm 2 11 14 19), (0x8A5BE9F6, .sttm 2 11 14 19),
   (0x925BE9F6, .ldstr 2 11 14 19), (0x9A5BE9F6, .ststr 2 11 14 19), (0xA25BE9F6, .ldgi 2 11 14 19),
   (0xAA5BE9F6, .stsi 2 11 14 19), (0xB005D5F6, .ldfe 21 11), (0x825BE9F7, .vmovls 2 11 14 19),
   (0x8A5BE9F7, .vmovsl 2 11 14 19), (0x8402F778, .exp 4 11 14), (0x8B02F778, .exp2 3 11 14),
   (0x9502F778, .log2 5 11 14), (0x9C02F778, .rsqrt 4 11 14), (0xA302F778, .rcp 3 11 14),
   (0xAD02F778, .tanh 5 11 14), (0xB402F778, .sigmoid 4 11 14), (0xBB02F778, .rowmaxsub 3 11 14)]

theorem test_words8 : ∀ p ∈ words8, decodeTableWord 32 p.1 = some p.2 ∧ encodeWord p.2 = p.1 := by decide +kernel

def words9 : List (Nat × Instr) :=
  [(0x8258C779, .smpath 2 11 14), (0x8A58C079, .smerge 2 11), (0x9258C079, .smkv 2 11),
   (0x9B02FEF9, .smsort 3 11 29), (0x825BE07A, .gxgather 2 11 14), (0x8A5BE07A, .gxscat 2 11 14),
   (0x925BE9FA, .gxbins 2 11 14 19), (0x9800CAFA, .gxstat 21), (0x80A0C07B, .zdgo 20), (0x8800CAFB, .zdwait 21),
   (0x945BE07B, .rdsum 4 11 14), (0x9B5BE07B, .rdmax 3 11 14), (0xA0B0C07B, .rdjoin 22),
   (0x8167D9FC, .lease 1 3 14 51), (0x88A0D5FC, .lyield 5 43), (0x90A0C07C, .lfree 5), (0x98A0D5FC, .lstat 5 43),
   (0x8000C07E, .brk), (0x8AB5E07E, .trap 21 43), (0x900AE07E, .dbgmark 21), (0x9AB5E77E, .qtile 21 43 14),
   (0xA000CAFE, .qcap 21), (0xA800CAFE, .qpwr 21), (0xB000C07E, .nop)]

theorem test_words9 : ∀ p ∈ words9, decodeTableWord 32 p.1 = some p.2 ∧ encodeWord p.2 = p.1 := by decide +kernel

def words10 : List (Nat × Instr) :=
  [(0x8000C07F, .tret), (0x8020C07F, .evwait), (0x804AE07F, .tlbinv 21), (0x806AE07F, .tlbinva 21),
   (0x808AF5FF, .icinv 21 43), (0x80AAF5FF, .dcflush 21 43), (0x80CAF5FF, .dcinv 21 43), (0x80EAE07F, .haltb 21),
   (0x810AE07F, .resumeb 21), (0x812AF5FF, .savectx 21 43), (0x814AF5FF, .loadctx 21 43), (0x0B61, .addQ 5 11),
   (0x0B62, .subQ 5 11), (0x0B63, .andQ 5 11), (0x0B64, .orQ 5 11), (0x0B65, .movQ 5 11), (0x6B66, .moviQ 53 11),
   (0x6B67, .addiQ 53 11), (0x2B68, .shliQ 21 11), (0x2B69, .shriQ 21 11), (0x37CA, .lddQ 1 11 14),
   (0x37CB, .stdQ 1 11 14), (0x37CC, .ldwQ 1 11 14), (0x37CD, .stwQ 1 11 14)]

theorem test_words10 : ∀ p ∈ words10, decodeTableWord 32 p.1 = some p.2 ∧ encodeWord p.2 = p.1 := by decide +kernel

def words11 : List (Nat × Instr) :=
  [(0x6B6E, .bezQ 53 11), (0x6B6F, .bnzQ 53 11), (0x42B0, .jQ 533), (0x00B1, .jrQ 5), (0x0012, .doneQ),
   (0x0013, .brkQ), (0x0014, .nopQ)]

theorem test_words11 : ∀ p ∈ words11, decodeTableWord 32 p.1 = some p.2 ∧ encodeWord p.2 = p.1 := by decide +kernel

/-! ### Operands that an instruction does not allow, and words that are no instruction (04: R82) -/

/-- For each check of WellFormed a term that it refuses, with the word of the same fields. -/
def illFormed : List (Instr × Nat) :=
  [(.fence 9, 0x8120C053), (.fencer 0 0 9, 0x8000C4D4), (.ldacq 0 9 0 0, 0x8120C056), (.strel 0 15 0 0, 0x81E0C057),
   (.mldw 1 1 0 0, 0x8012C069), (.mldw 0 0 0 0, 0x8000C069), (.mmul 1 0 1 0 0 0, 0x8011C06A),
   (.mmul 0 0 0 0 0 0, 0x8000C06A), (.mream 1 1 0 0 0, 0x8004E06B), (.mream 0 0 0 0 0, 0x8000C06B),
   (.mrmrg 0 0, 0x8000C06C), (.mstore 1 0 0 0, 0x8040C0ED), (.mclr 7, 0x8000C3EE), (.vadd 6 0 0 0, 0x8600C070),
   (.vshl 3 0 0 0, 0xA300C071), (.vcmp 0 6 0 0 0, 0x8600C072), (.vcmp 6 3 0 0 0, 0xB300C072),
   (.viota 3 0, 0xBB00C073), (.vcvt 0 1 2 0 0 0, 0x8140C074), (.vred 0 6 0 0, 0x8600C075), (.exp 2 0 0, 0x8200C078),
   (.smpath 0 0 0, 0x8000C079), (.smerge 4 0, 0x8C00C079), (.smkv 1 0, 0x9100C079), (.smsort 1 0 31, 0x9900CFF9),
   (.gxgather 3 4 0, 0x8320C07A), (.gxscat 0 4 0, 0x8820C07A), (.gxbins 7 4 0 0, 0x9720C07A),
   (.zdgo 3, 0x8018C07B), (.rdsum 5 0 0, 0x9500C07B), (.rdmax 1 0 0, 0x9900C07B), (.rdjoin 3, 0xA018C07B)]

theorem test_ill_formed : ∀ p ∈ illFormed, p.1.wf = false ∧ encodeWord p.1 = p.2 ∧ decodeTableWord 32 p.2 = none := by
  decide +kernel

/-- Reserved majors and op5, a reserved function, must-be-zero bits, a prelude word, a first halfword alone and a
continuation. -/
theorem test_reserved_words : ∀ w ∈ [0, 0x15, 0x2221, 0x8000C02C, 0x8000C02D, 0x8000C05B, 0xA000C01F, 0xB800C02A, 0x8020C019,
    0x8020C027, 0x8800C050, 0x9000C07F, 0x8160C07F, 0xC000, 0x8000], decodeTableWord 32 w = none := by
  decide +kernel

/-! ### Placing a word -/

/-- What a step answers meets a check. -/
def stepsTo (s : State) (f : State → Bool) : Bool :=
  match step s with
  | .next t => f t
  | _ => false

/-- `addi s4, s4, #128` and, on an island core, `tlbinva s9` from reset. -/
theorem test_place_addi : stepsTo (State.reset.withFetchWord 32 0x9002C21C) (fun t =>
    (t.core 0).pc = 0x20000000004 && (t.core 0).reg.word 4 = 128 && (t.core 0).instret = 1) = true := by decide +kernel
theorem test_place_sys : stepsTo (State.reset.withFetchWord 32 0x8064E07F) (fun t =>
    (t.icore 0).pc = 0x4000000000004 && (t.icore 0).instret = 1) = true := by decide +kernel
theorem test_place_short : stepsTo (State.reset.withFetchWord 16 0x0A66) (fun t =>
    (t.core 0).pc = 0x20000000002 && (t.core 0).reg.word 3 = 5) = true := by decide +kernel

/-! ### States that meet the hypotheses of the statements -/

/-- Core 0 of the reset wafer with some of its registers set. -/
def at0 (rs : List (Nat × Word)) (c : Core := {}) : State := ({} : State).setCore 0 { c with reg := { words := rs } }

theorem witness_RoundTrip : (Instr.mldw 38 5 0xE 3).encoded = true ∧ (Instr.mldw 38 5 0xE 3).wf = true := by decide
theorem witness_DecodingIsExact : decodeBytes [0x66, 0x0A, 0xFF] = .ok (.moviQ 5 3, [0xFF]) := by rfl

/-- The word placed for core 0, whose pc is then moved. -/
def placed (a w : Nat) : State :=
  let t := State.reset.withFetchWord 32 w
  t.setCore 0 { t.core 0 with pc := BitVec.ofNat 64 a }

/-- Tile code: an odd pc, a continuation, both lengths of an instruction, and no instruction. -/
theorem witness_TileStep : let s := placed
    ((s 0x20000000001 0).issuing 0 ∧ (s 0x20000000001 0).cached 0 0x20000000000 0) ∧
    ((s 0x20000000000 0x8000).issuing 0 ∧ (s 0x20000000000 0x8000).cached 0 0x20000000000 0x8000 ∧ halfClass 0x8000 = 2) ∧
    ((s 0x20000000000 0x9002C21C).cached 0 0x20000000000 0xC21C ∧ (s 0x20000000000 0x9002C21C).cached 0 0x20000000002 0x9002 ∧
      halfClass 0xC21C = 3) ∧
    ((s 0x20000000000 0x0A66).cached 0 0x20000000000 0x0A66 ∧ halfClass 0x0A66 = 0) ∧
    (∀ w, w < 9 → bit (Tab.get 0 ((s 0x20000000000 0x0A66).cluster (corePos 0)).wp w) 63 = false) := by
  simp only [State.issuing, State.cached]
  repeat' apply And.intro
  all_goals first | exact ⟨_, rfl, by decide +kernel⟩ | decide +kernel

theorem witness_IslandStep : let s : State := State.reset.withFetchWord 32 0x8064E07F
    s.agenda = [] ∧ s.cur = .island 0 ∧ (s.icore 0).wedged = false ∧
    s.islandCode 0 ((s.icore 0).pc &&& ~~~1) = .ok (sramHome 0) ∧ s.islandCode 0 ((s.icore 0).pc + 2) = .ok (sramHome 0 + 2) ∧
    halfClass (s.readMem (sramHome 0) 2) = 3 := by
  repeat' apply And.intro
  all_goals rfl

theorem witness_AgendaStep : eventOk (.softStop 0) = true ∧ isCore 0 = true ∧ coreOk (.island 383) = true ∧
    (let c : Core := { stopped := 1, ch := some 0 }
     ∃ t, exec (.step 0) (at0 [] c) = .next t ∧ (t.core 0).stepping = true) := by
  refine ⟨by decide, by decide, by decide, _, rfl, by decide +kernel⟩

theorem witness_StepKeepsMemory : State.reset.Inv ∧ ∃ t, step State.reset = .next t := ⟨rfl, _, rfl⟩

/-- Two sources and a destination; the destination may be a source or s0. -/
theorem witness_IntegerResults : (at0 [(1, 7), (2, 63)]).tileReady 0 [1, 2] 2 ∧ (at0 []).tileReady 0 [0, 0] 0 ∧
    (at0 [(3, 1)]).tileReady 0 [1, 2, 3] 3 := by simp only [State.tileReady]; decide +kernel

theorem witness_DivisionResults : let s := at0 [(1, 0x8000000000000000), (2, -1)]
    s.tileReady 0 [1, 2] 3 ∧ s.reg 1 = 0x8000000000000000 ∧ s.reg 2 = -1 ∧ s.reg 4 = 0 := by
  simp only [State.tileReady]; decide +kernel

theorem witness_BitResults : let s := at0 [(1, 0xD6), (2, 0xAA)]
    s.tileReady 0 [1, 2] 3 ∧ s.reg 1 = 0xD6 ∧ s.reg 2 = 0xAA := by simp only [State.tileReady]; decide +kernel

theorem witness_FloatResults : (at0 [(1, 0x7F800001)]).tileReady 0 [1, 2] 3 ∧ (at0 []).tileReady 0 [1, 2, 3] 3 ∧
    Fmt.ofReg (Tab.get 0 ((at0 [] { fmts := [(0, 0x3B9)] }).core 0).fmts 0) ≠ none ∧
    (Fmt.f32.real 0x7F800001).isNan = true ∧ (Fmt.f32.real 0x7F800001).isSnan = true ∧ (Fmt.f32.real 0x7FC00000).isNan = true := by
  simp only [State.tileReady]; decide +kernel

/-- NaNs of both kinds at the ends of their codes, both infinities, and what is neither (11: R212). -/
theorem witness_FloatNans : f32Nan 0x7F800001 = true ∧ f32Snan 0x7FBFFFFF = true ∧ f32Snan 0x7FC00000 = false ∧
    f32Nan 0x7FC00000 = true ∧ f32Nan 0x7F800000 = false ∧ f32Inf 0x7F800000 = true ∧ f32Inf 0xFF800000 = true ∧
    f32Inf 0x80000000 = false ∧ fmtNeg .f32 0xFF800000 = true ∧ fmtNeg .f32 0x7F7FFFFF = false := by decide +kernel

/-- No finite code is as large as 2^128. -/
theorem f32_below (c : Nat) (h : fmtFinite .f32 c) : |fmtValue .f32 c| < 2 ^ 128 := by
  have hv : fmtValue .f32 c = (if fmtNeg .f32 c then -1 else 1) *
      (if c / 2 ^ 23 % 2 ^ 8 = 0 then ((c % 2 ^ 23 : Nat) : ℚ) * 2 ^ (-149 : ℤ)
       else (2 ^ 23 + ((c % 2 ^ 23 : Nat) : ℚ)) * 2 ^ (((c / 2 ^ 23 % 2 ^ 8 : Nat) : ℤ) - 150)) := by
    unfold fmtValue
    rw [if_neg (by decide)]
    norm_num [Fmt.f32, sub_sub]
  have hx : c / 2 ^ 23 % 2 ^ 8 ≠ 2 ^ 8 - 1 := h
  have hX : c / 2 ^ 23 % 2 ^ 8 < 2 ^ 8 := Nat.mod_lt _ (by decide)
  have hm : ((c % 2 ^ 23 : Nat) : ℚ) < 2 ^ 23 := by exact_mod_cast Nat.mod_lt c (show 0 < 2 ^ 23 by decide)
  have hm0 : (0 : ℚ) ≤ ((c % 2 ^ 23 : Nat) : ℚ) := Nat.cast_nonneg _
  have hs : ∀ n : Bool, |(if n then (-1 : ℚ) else 1)| = 1 := by decide
  rw [hv, abs_mul, hs, one_mul]
  generalize c / 2 ^ 23 % 2 ^ 8 = x at *
  generalize ((c % 2 ^ 23 : Nat) : ℚ) = m at *
  split
  · rw [abs_of_nonneg (by positivity)]
    have h2 : (2 : ℚ) ^ (-149 : ℤ) ≤ 1 := by norm_num
    nlinarith
  · rw [abs_of_nonneg (by positivity)]
    have h2 : (2 : ℚ) ^ ((x : ℤ) - 150) ≤ 2 ^ (104 : ℤ) := zpow_le_zpow_right₀ (by norm_num) (by omega)
    calc (2 ^ 23 + m) * (2 : ℚ) ^ ((x : ℤ) - 150) ≤ (2 ^ 23 + m) * 2 ^ (104 : ℤ) :=
          mul_le_mul_of_nonneg_left h2 (by positivity)
      _ < 2 ^ 128 := by norm_num; nlinarith

theorem f32_finite (c : Nat) : fmtFinite .f32 c ↔ c / 2 ^ 23 % 2 ^ 8 ≠ 2 ^ 8 - 1 := Iff.rfl

/-- Codes at the ends of the finite ones with their values, a sum and a root with the binades that hold them, and a value
beyond every finite one (11: R212). -/
theorem witness_FloatValues : fmtFinite .f32 0x3F800000 ∧ fmtFinite .f32 0x7F7FFFFF ∧ fmtFinite .f32 0x80000000 ∧
    fmtFinite .f32 0xBF800000 ∧ ¬fmtFinite .f32 0x7F800000 ∧ fmtValue .f32 0x3F800000 = 1 ∧ fmtValue .f32 0xBF800000 = -1 ∧
    fmtValue .f32 0x80000000 = 0 ∧ fmtValue .f32 1 = 2 ^ (-149 : ℤ) ∧ fmtValue .f32 0x7F7FFFFF = (2 ^ 24 - 1) * 2 ^ 104 ∧
    (2 : ℚ) ^ (1 : ℤ) ≤ |(1 : ℚ) + 1| ∧ |(1 : ℚ) + 1| < (2 : ℚ) ^ (1 + 1 : ℤ) ∧
    ((2 : ℚ) ^ (0 : ℤ)) ^ 2 ≤ 1 ∧ (1 : ℚ) < ((2 : ℚ) ^ (0 + 1 : ℤ)) ^ 2 ∧
    (∀ c, fmtFinite .f32 c → |fmtValue .f32 c| < 2 ^ 128) ∧ (2 : ℚ) ^ (128 : ℤ) ≤ (2 ^ 24 - 1) * 2 ^ 104 + (2 ^ 24 - 1) * 2 ^ 104 := by
  have hp : Fmt.f32.pol ≠ .tc := by decide
  refine ⟨?_, ?_, ?_, ?_, ?_, ?_, ?_, ?_, ?_, ?_, ?_, ?_, ?_, ?_, f32_below, ?_⟩
  any_goals (simp only [f32_finite]; decide)
  any_goals simp only [fmtValue, if_neg hp]
  all_goals norm_num [fmtNeg, Fmt.f32, Fmt.w, zpow_neg]

/-- A format of each policy, of the encoding of format registers (11: R213, R214), and one without a sign. -/
theorem witness_FloatConversions : (Fmt.ofReg 0x3B9).map Fmt.pol = some .ieee ∧ (Fmt.ofReg 0x103B9).map Fmt.pol = some .oneNan ∧
    (Fmt.ofReg 0x203B9).map Fmt.pol = some .sat ∧ (Fmt.ofReg 0x28071).map Fmt.pol = some .tc ∧
    (Fmt.ofReg 0x20040).map Fmt.s = some 0 := by decide +kernel

theorem witness_TransferResults : (at0 [(1, 7)]).tileReady 0 [1, 2] 0 ∧ (at0 []).tileReady 0 [] 63 ∧
    (at0 [(5, 0x20000000010)]).tileReady 0 [5] 5 := by simp only [State.tileReady]; decide +kernel

theorem witness_LoopAndTestResults : let s := at0 [(1, 2047), (2, 1), (3, 2)] { }
    s.tileReady 0 [1, 2] 0 ∧ (s.reg 1).toNat + (s.reg 2).toNat ≤ 2048 ∧ (s.core 0).reg.isEmpty 2047 = false ∧
    (s.core 0).pair = .alone ∧ 2048 < (s.reg 1).toNat + (s.reg 3).toNat ∧
    (let t := s.setCore 0 { s.core 0 with reg := { (s.core 0).reg with empty := [(2047, true)] } }
     t.tileReady 0 [1, 2] 0 ∧ (t.core 0).reg.isEmpty 2047 = true) := by
  simp only [State.tileReady]; decide +kernel

theorem witness_ShortResults : (at0 []).tileReady 0 [15, 14] 15 ∧ (at0 []).tileReady 0 [] 0 ∧ (at0 []).noneOut 0 := by
  simp only [State.tileReady, State.noneOut, Core.drained]; decide +kernel

/-- CSR values that are accepted at the ends of their ranges, and that are refused beyond them; an undefined number and a
read-only one. -/
theorem witness_CsrResults : let s := at0 [(1, 8192), (2, 12288), (3, 4)]
    s.tileReady 0 [1] 2 ∧ s.opsOf 0 = [] ∧ (0x048, 0) ∈ csrValues s 0 ∧ (csrStored (s.core 0) 1 8192).isSome = true ∧
    (csrStored (s.core 0) 2 12288).isSome = true ∧ (csrStored (s.core 0) 0 4).isSome = true ∧
    csrStored (s.core 0) 0 5 = none ∧ csrStored (s.core 0) 0 7 = none ∧ csrStored (s.core 0) 1 8256 = none ∧
    csrStored (s.core 0) 1 520 = none ∧ csrStored (s.core 0) 1 448 = none ∧ csrStored (s.core 0) 2 12352 = none ∧
    (0x049 ∉ [8] ++ (csrValues s 0).map Prod.fst) ∧ (s.core 0).pair = .alone := by
  simp only [State.tileReady]; decide +kernel

/-- The last aligned double word of TCM, and of the scratchpad. -/
theorem witness_LocalLoads : let s := at0 [(1, 0xFFF8), (2, 0x1FFFF8)]
    s.noneOut 0 ∧ s.quietReads (corePos 0) ∧ s.tileReady 0 [1] 3 ∧
    s.operand (corePos 0) (s.reg 1) 8 .load = some (.tcm 0xFFF8) ∧ s.operand (corePos 0) (s.reg 2) 8 .load = some (.spad 0xFFFF8) ∧
    s.badAt (tcmHome 0 + 0xFFF8) 8 = false := by
  simp only [State.tileReady, State.noneOut, Core.drained, State.quietReads]; decide +kernel

/-- Core 0 with its own region in its partition mask. -/
def near0 (rs : List (Nat × Word)) (c : Core := {}) : State := (at0 rs c).setCluster 0 { partMask := 1 }

/-- A reply slot that is free below none and above two that loads hold; an operand of each kind of remote target. -/
theorem witness_RemoteLoads : let s := near0 [(1, 0x10000100000), (2, 0x20000F003F8), (3, 0x1000000000000)]
    let q := s.setCore 0 { s.core 0 with slots := some {} :: some { acc := { kind := 2 } } :: List.replicate 6 none }
    (s.core 0).lowestFree 0 ∧ (q.core 0).lowestFree 2 ∧
    (∀ u, u = s ∨ u = q → u.tileReady 0 [1] 3 ∧ (u.core 0).buffered = [] ∧ u.ldfeBefore 0 (u.core 0).nextSeq = false ∧
      (∀ l ∈ (u.core 0).accesses, l.acc.kind = 0 ∨ l.acc.kind = 2) ∧
      u.operand (corePos 0) (u.reg 1) 8 .load = some (.cluster 1 0)) ∧
    (Target.cluster 1 0).home 0 = none ∧ (s.reg 1).toNat % 8 = 0 ∧
    s.operand (corePos 0) (s.reg 2) 8 .load = some (.sram 0 0xF003F8) ∧ s.operand (corePos 0) (s.reg 3) 8 .load = some (.virt 0) := by
  simp only [State.tileReady, Core.lowestFree, forall_eq_or_imp, forall_eq]; decide +kernel

theorem witness_VectorLoads : let s := near0 [(1, 0xFF00), (2, 0x20000000F80)]
    s.tileReady 0 [1] 0 ∧ s.noneOut 0 ∧ (s.core 0).slotsFree ∧ s.quietReads (corePos 0) ∧
    s.wordsFree 0 (span (vbyte (s.core 0).vbase.toNat 31 / 8) 32) ∧
    s.operand (corePos 0) (s.reg 1) 256 .localLoad = some (.tcm 0xFF00) ∧ s.badAt (tcmHome 0 + 0xFF00) 256 = false ∧
    s.operand (corePos 0) (s.reg 2) 128 .block = some (.sram 0 0xF80) ∧ (s.reg 2).toNat % 4096 + 128 ≤ 4096 ∧
    (s.reg 2).toNat % 8 = 0 ∧ s.wordsFree 0 (span (vbyte (s.core 0).vbase.toNat 31 / 8 + 16) 16) := by
  simp only [State.tileReady, State.noneOut, Core.drained, Core.slotsFree, State.quietReads, State.wordsFree]; decide +kernel

theorem witness_Stores : let s := near0 [(1, 0x778), (2, 0x20000EFFFF8), (4, 9)]
    (s.core 0).storeRoom 1 ∧ s.tileReady 0 [1, 4] 0 ∧ s.operand (corePos 0) (s.reg 1) 8 .store = some (.tcm 0x778) ∧
    s.operand (corePos 0) (s.reg 2) 8 .store = some (.sram 0 0xEFFFF8) := by
  simp only [State.tileReady, Core.storeRoom]; decide +kernel

/-- A field that crosses a word, and one that does not, at the ends of the scratchpad's window in bits. -/
theorem witness_BitFieldAccess : let s := at0 [(1, 0x800 * 8 + 63), (2, 0x800), (4, 3)]
    s.tileReady 0 [1, 4] 0 ∧ s.tileReady 0 [1] 4 ∧ (s.core 0).storeRoom 16 ∧ s.noneOut 0 ∧ s.eccBad = [] ∧
    s.quietReads (corePos 0) ∧
    s.operand (corePos 0) (BitVec.ofNat 64 ((s.reg 1).toNat / 8)) (((s.reg 1).toNat + 63) / 8 - (s.reg 1).toNat / 8 + 1)
      .localStore = some (.tcm 0x807) ∧
    s.operand (corePos 0) (BitVec.ofNat 64 ((s.reg 1).toNat / 8)) (((s.reg 1).toNat + 63) / 8 - (s.reg 1).toNat / 8 + 1)
      .localLoad = some (.tcm 0x807) ∧
    s.operand (corePos 0) (s.reg 2) 256 .localStore = some (.tcm 0x800) ∧
    (∀ i, i < 32 → (s.core 0).reg.isEmpty (vbyte (s.core 0).vbase.toNat 0 / 8 + i) = false) := by
  simp only [State.tileReady, State.noneOut, Core.drained, Core.storeRoom, State.quietReads]; decide +kernel

theorem witness_FullEmptyResults : let s := at0 [(1, 0x800), (4, 2047)]
    let t := s.setMemEmpty (tcmHome 0 + 0x800)
    s.noneOut 0 ∧ (s.core 0).storeRoom 1 ∧ s.quietReads (corePos 0) ∧
    s.operand (corePos 0) 0x800 8 .localBits = some (.tcm 0x800) ∧ s.badAt (tcmHome 0 + 0x800) 8 = false ∧
    s.tileReady 0 [1] 3 ∧ s.memIsEmpty (tcmHome 0 + 0x800) = false ∧ t.memIsEmpty (tcmHome 0 + 0x800) = true ∧
    t.tileReady 0 [1] 3 ∧ t.noneOut 0 ∧ t.badAt (tcmHome 0 + 0x800) 8 = false ∧
    t.operand (corePos 0) 0x800 8 .localBits = some (.tcm 0x800) ∧
    t.tileReady 0 [1, 4] 0 ∧ (s.reg 4).toNat < 2048 ∧ s.writeWaits 0 (s.reg 4).toNat = false := by
  simp only [State.tileReady, State.noneOut, Core.drained, Core.storeRoom, State.quietReads]; decide +kernel

theorem witness_AtomicResults : let s := at0 [(1, 0x800), (2, 5), (3, 6)]
    s.Inv ∧ s.noneOut 0 ∧ (s.core 0).sendq = [] ∧ (s.core 0).sends = [] ∧ s.quietReads (corePos 0) ∧
    s.operand (corePos 0) (s.reg 1) 8 .atomic = some (.tcm 0x800) ∧ s.operand (corePos 0) (s.reg 1) 4 .atomic = some (.tcm 0x800) ∧
    s.badAt (tcmHome 0 + 0x800) 8 = false ∧ s.tileReady 0 [1, 2] 2 ∧ s.tileReady 0 [1, 2, 3] 2 := by
  simp only [State.tileReady, State.noneOut, Core.drained, State.quietReads, State.Inv]; decide +kernel

/-- An atomic on another cluster's scratchpad, on SRAM and through translation, beside a load of a wider scope in slot 0. -/
theorem witness_RemoteAtomics : let c : Core := { slots := some { home := 5 } :: List.replicate 7 none }
    let s := near0 [(1, 0x10000100000), (2, 0x20000EFFFF8), (3, 0x1000000000000)] c
    s.tileReady 0 [1, 2] 2 ∧ s.tileReady 0 [1, 2, 3] 2 ∧ (s.core 0).lowestFree 1 ∧ (s.core 0).buffered = [] ∧
    (s.core 0).sendq = [] ∧ (s.core 0).sends = [] ∧ (s.core 0).held = [] ∧ s.ldfeBefore 0 (s.core 0).nextSeq = false ∧
    s.operand (corePos 0) (s.reg 1) 8 .atomic = some (.cluster 1 0) ∧ (Target.cluster 1 0).home 0 = none ∧
    s.operand (corePos 0) (s.reg 2) 8 .atomic = some (.sram 0 0xEFFFF8) ∧ s.operand (corePos 0) (s.reg 3) 8 .atomic = some (.virt 0) ∧
    (∀ l ∈ (s.core 0).accesses, (l.acc.kind = 0 ∨ l.acc.kind = 2) ∧ (l.performed = true ∨ 3 < l.home ∧ s.homeScope (corePos 0) (.cluster 1 0) < l.home)) := by
  simp only [State.tileReady, Core.lowestFree]; decide +kernel

theorem witness_FenceResults : let s := at0 [(1, 0xFFFFFFFFFFFFFFF8), (2, 8)]
    s.noneOut 0 ∧ (s.core 0).sendq = [] ∧ (s.core 0).sends = [] ∧ s.cur = .tile 0 ∧ s.tileReady 0 [1, 2] 0 ∧
    (s.reg 1).toNat + (s.reg 2).toNat ≤ 2 ^ 64 ∧ s.opsOf 0 = [] ∧
    (∀ i, i < 6 → ¬(bit (s.core 0).fcsr (8 + i) = true ∧ bit (s.core 0).fcsr (16 + i) = true)) ∧
    (let e : Buffered := { home := 2 }
     let t := at0 [] { sbuf := [e] }
     e ∈ (t.core 0).sbuf ∧ e.home ≤ 2) ∧
    (let t := at0 [] { fcsr := 0x202000 }
     (t.core 0).pair = .alone ∧ bit (t.core 0).fcsr (8 + 5) = true ∧ bit (t.core 0).fcsr (16 + 5) = true ∧
     ∀ i, i < 5 → ¬(bit (t.core 0).fcsr (8 + i) = true ∧ bit (t.core 0).fcsr (16 + i) = true)) := by
  simp only [State.tileReady, State.noneOut, Core.drained]; decide +kernel

/-- Header of a message on VC5, and one on VC4, which is refused; a full queue, a length and ranges that are refused. -/
theorem witness_SendResults : let s := at0 [(1, 0x50000), (2, 0x1000), (3, 64), (4, 0x40000), (5, 65536), (6, 0xFFC8), (7, 0x10000050000), (8, 0)]
    let q := at0 [] { sendq := [{}, {}, {}], sends := [{}] }
    4 ≤ (q.core 0).sendq.length + (q.core 0).sends.length ∧ 65535 < (s.reg 5).toNat ∧ s.tileReady 0 [1, 2, 5] 0 ∧
    ownRange (s.own (corePos 0) (s.reg 6)) 64 = false ∧ s.tileReady 0 [1, 6, 3] 0 ∧
    badHeader (s.reg 7) false = false ∧ preludeBytes (s.reg 7) = 8 ∧ s.tileReady 0 [7, 8, 8] 0 ∧
    ownRange (s.own (corePos 0) (s.reg 8 - 8)) 8 = false ∧
    (s.core 0).sendq.length < 4 ∧ (s.core 0).pair = .alone ∧ s.tileReady 0 [1, 2, 3] 0 ∧ s.tileReady 0 [4, 2, 3] 0 ∧
    ownRange (s.own (corePos 0) (s.reg 2)) 64 = true ∧ badHeader (s.reg 1) true = false ∧ badHeader (s.reg 1) false = false ∧
    preludeBytes (s.reg 1) = 0 ∧ badHeader (s.reg 4) true = true ∧ s.tileReady 0 [1] 0 ∧
    (∀ i, i < 32 → (s.core 0).reg.isEmpty (vbyte (s.core 0).vbase.toNat 31 / 8 + i) = false) := by
  simp only [State.tileReady]; decide +kernel

theorem witness_SignalResults : let s := at0 [(1, 0xFFFF), (2, 0x10000)]
    s.tileReady 0 [1] 0 ∧ (s.reg 1).toNat % 65536 ≠ 0 ∧ (s.reg 2).toNat % 65536 = 0 ∧
    (s.cluster (corePos 0)).traceOn = false ∧ s.tileReady 0 [1, 2] 3 := by
  simp only [State.tileReady]; decide +kernel

theorem witness_BarrierResults : let s := (at0 [(1, 7), (2, 1), (3, 2), (4, 0)]).setBar 0 7 { phase := 2 ^ 31 }
    s.tileReady 0 [1, 2] 5 ∧ s.noneOut 0 ∧ (s.core 0).barWait = none ∧ ((s.cluster 0).bar 7).target = 0 ∧
    ((s.cluster 0).bar 7).count + 1 = (s.reg 2).toNat % 65536 ∧ ((s.cluster 0).bar 7).count + 1 ≠ (s.reg 3).toNat % 65536 ∧
    (s.core 0).pair = .alone ∧ (s.reg 4).toNat % 65536 = 0 ∧
    (let t := s.setBar 0 7 { count := 1, target := 65535 }
     t.tileReady 0 [1, 2] 5 ∧ ((t.cluster 0).bar 7).target ≠ 0 ∧ ((t.cluster 0).bar 7).target ≠ (t.reg 2).toNat % 65536) ∧
    (let t := s.setCore 0 { s.core 0 with barWait := some (7, 1) }
     t.tileReady 0 [1, 2] 5 ∧ (t.core 0).barWait = some (7, 1)) ∧
    s.tileReady 0 [1, 4] 0 ∧ (2 ^ 31 + 2 ^ 32 - (s.reg 2).toNat % 2 ^ 32) % 2 ^ 32 = 2 ^ 31 - 1 ∧
    (2 ^ 31 + 2 ^ 32 - (s.reg 4).toNat % 2 ^ 32) % 2 ^ 32 = 2 ^ 31 := by
  simp only [State.tileReady, State.noneOut, Core.drained]; decide +kernel

/-- Channel 31 of core 0 with one buffer of 512 bytes at 0x1000 of TCM. -/
def buffered0 (rs : List (Nat × Word)) : State :=
  (at0 rs { ch := some 31 }).setHand 0 31
    { words := [0, 0x80 ||| 0x10, BitVec.ofNat 64 (0x1000 + 2 ^ 24 * 512 + 2 ^ 44 * 512), 0, 0, 0] }

/-- An entry without buffers, and one with a buffer: a word inside it and the words on either side. -/
theorem witness_DoneResults : let s := at0 [] { ch := some 31 }
    let b := buffered0 []
    let h := (b.core 0).hand 31
    0 < h.nbuf ∧ bufHome 0 (h.buf 0) / 8 ≤ (tcmHome 0 + 0x11F8) / 8 ∧
    (tcmHome 0 + 0x11F8) / 8 < bufHome 0 (h.buf 0) / 8 + bufCap (h.buf 0) / 8 ∧
    bufHome 0 (h.buf 0) / 8 = (tcmHome 0 + 0xFF8) / 8 + 1 ∧ b.cur = .tile 0 ∧ (b.core 0).ch = some 31 ∧ b.quiet 0 = true ∧
    s.cur = .tile 0 ∧ (s.core 0).ch = some 31 ∧ s.quiet 0 = true ∧ (s.core 0).pair = .alone ∧
    (∀ i, i < 6 → ¬(bit (s.core 0).fcsr (8 + i) = true ∧ bit (s.core 0).fcsr (16 + i) = true)) ∧
    (s.cluster (corePos 0)).traceOn = false ∧ (∀ vc, s.inq (corePos 0) vc = []) := by
  repeat' apply And.intro
  all_goals first | decide +kernel | exact fun _ => rfl

theorem witness_ArrivalResults : let s := buffered0 [(1, 31), (2, 0), (3, 5)]
    let h := (s.core 0).hand 31
    h.valid = true ∧ 0 < h.nbuf ∧ h.counts.length = 4 ∧ s.tileReady 0 [1, 3] 0 ∧ s.noneOut 0 ∧
    (s.reg 2).toNat % 2 ^ 21 ≤ nth 0 h.counts 0 ∧ nth 0 h.counts 0 < (s.reg 3).toNat % 2 ^ 21 ∧ s.tileReady 0 [1] 4 ∧
    h.maskSet 0 0 0 = some 0 ∧ s.tileReady 0 [1, 2] 4 ∧ h.maskSet 0 0 1 = some 0 ∧ h.maskSet 0 0 2 = none ∧
    h.maskSet 0 1 1 = none ∧ (s.core 0).pair = .alone ∧ ((s.core 0).hand 30).valid = false ∧ h.nbuf ≤ 1 ∧
    s.tileReady 0 [1, 3] 4 := by
  simp only [State.tileReady, State.noneOut, Core.drained]; decide +kernel

/-- A channel in each state, of this core and of another; a record's address that is refused. -/
theorem witness_CopyResults : let s := at0 [(1, 0xFFC0), (2, 3), (3, 0xFFC1), (4, 0x10000)]
    let on (x : Chan) : Chan := ((s.setChan 0 3 x).cluster 0).chan 3
    (on { st := .parked }).st = .parked ∧ (on { st := .parked }).owner = coreNo 0 ∧ (on { st := .fault }).st = .fault ∧
    (on { st := .fault, owner := 1 }).owner ≠ coreNo 0 ∧ s.reg 5 = 0 ∧ s.tileReady 0 [5, 2] 4 ∧ (s.core 0).pair = .alone ∧
    s.tileReady 0 [3, 2] 0 ∧ (s.reg 3).toNat % 64 ≠ 0 ∧ s.tileReady 0 [4, 2] 0 ∧ (s.reg 4).toNat % 64 = 0 ∧
    recordSpot (s.own (corePos 0) (s.reg 4)) = false ∧ recordSpot (s.own (corePos 0) (s.reg 1)) = true ∧
    let t := s.setChan 0 3 { st := .active }
    s.tileReady 0 [1, 2] 4 ∧ s.noneOut 0 ∧ ((s.cluster 0).chan 3).st = .idle ∧ s.reg 1 ≠ 0 ∧ (s.reg 1).toNat % 64 = 0 ∧
    recordSpot (s.reg 1) = true ∧ s.tileReady 0 [2] 4 ∧ t.tileReady 0 [2] 4 ∧ ((t.cluster 0).chan 3).st = .active := by
  simp only [State.tileReady, State.noneOut, Core.drained]; decide +kernel

theorem witness_DescriptorResults : let s := (at0 [(1, 0x800), (2, 0), (3, 0x0001000000001001)]).setCluster 0 { hbGrant := 2 }
    (Target.tcm 0x800).home 0 = some (tcmHome 0 + 0x800) ∧ s.tileReady 0 [1] 0 ∧ s.noneOut 0 ∧
    s.quietReads (corePos 0) ∧ s.badAt (tcmHome 0 + 0x800) 64 = false ∧
    s.operand (corePos 0) (s.reg 1) 64 .localLoad = some (.tcm 0x800) ∧ (s.core 0).storeRoom 8 ∧
    s.operand (corePos 0) (s.reg 1) 64 .localStore = some (.tcm 0x800) ∧ s.tileReady 0 [1, 3] 4 ∧ bit (s.reg 2) 0 = false ∧
    s.tileReady 0 [3] 0 ∧ (s.reg 3).toNat % 8 ≠ 0 := by
  simp only [State.tileReady, State.noneOut, Core.drained, State.quietReads, Core.storeRoom]; decide +kernel

/-- Core 0 with the leases of all engines and a format register, tensor map 0 of the given element width code. -/
def bay0 (rs : List (Nat × Word)) (ew : Nat) : State :=
  at0 rs { leases := (span 0 8).map fun e => (e, { st := .held }),
           fmts := [(0, 0x3B9), (3, 0x20031)], kept := (span 0 4).map fun b => (b, { loaded := true, cls := 16 }),
           tms := [(0, BitVec.ofNat 512 ((1 + 2 ^ 24) * 2 ^ 64 + (2 * 2 ^ 32 + ew * 2 ^ 35) * 2 ^ 192))] }

/-- An operation of each list, with the fields at their ends, and one without its lease that another engine's comes before. -/
theorem witness_EngineNotHeld : let s (st : LeaseState) : State := at0 [] { leases := [(0, { st := .held }), (1, { st := st })] }
    let y : State := at0 [] { leases := [(7, { st := .held, yielding := true })] }
    (Instr.mclr 6).wf = true ∧ enginesOf (.mclr 6) = [0] ++ 1 :: [] ∧ ((s .none).core 0).leased [0] ∧ (s .none).cur = .tile 0 ∧
    ((s .none).core 0).pair = .alone ∧ (∀ st ∈ [LeaseState.none, .lost, .queued, .grace],
      (Tab.get {} ((s st).core 0).leases 1 : Lease).st = st) ∧
    (Instr.rdjoin 62).wf = true ∧ enginesOf (.rdjoin 62) = [] ++ 7 :: [] ∧ (y.core 0).leased [] ∧
    (Tab.get {} (y.core 0).leases 7 : Lease).yielding = true := by
  simp only [Core.leased]; decide +kernel

theorem witness_VectorIssue : let s := bay0 [] 6
    let v := vWords (s.core 0).vbase.toNat
    s.bayReady 0 [2] [v 1, v 2] [v 31] ∧ s.bayReady 0 [6] [(28, 1), (29, 1), (30, 1)] [] ∧ s.bayReady 0 [4] [(4, 1)] [(3, 1)] ∧
    (∀ t, t < 7 → (laneFmt (s.core 0) t).isSome = true) ∧ groupOk 28 = true ∧
    tmLaneOk (Tab.get 0 (s.core 0).tms 0) 32 true = true ∧ convOk 64 128 1 = true ∧
    (∀ i ∈ [Instr.vadd 5 31 31 31, .exp 5 31 31, .smsort 3 31 30, .vred 5 5 31 31, .zdgo 28, .rdsum 4 31 31], i.wf = true) := by
  simp only [Machine.State.bayReady, Core.leased]; decide +kernel

theorem witness_AddressedIssue : let s := bay0 [(1, 63), (4, 0x800), (6, 0x0000000000080001)] 6
    laneFmt (s.core 0) 2 = some (Fmt.int 32) ∧ (s.core 0).reg.isEmpty 1 = false ∧
    s.bayReady 0 [2] [(9, 1)] [(vbyte (s.core 0).vbase.toNat 31 / 8 + 63 * 32 / 64, 1)] ∧ groupOk 4 = true ∧
    ownRange (s.reg 4) (1 * (8 * ((s.reg 6).toNat / 65536 % 65536))) = true ∧ (s.reg 6).toNat % 65536 = 1 ∧
    s.bayReady 0 [5] [vWords (s.core 0).vbase.toNat 1, (4, 3)] [(vbyte (s.core 0).vbase.toNat 2 / 8, 1)] ∧
    ownRange (s.own (corePos 0) (s.reg 4)) (1 * (8 * bits (s.reg 6) 16 16)) = true ∧ bits (s.reg 6) 40 24 = 0 ∧
    s.cur = .tile 0 ∧ (s.core 0).pair = .alone := by
  simp only [Machine.State.bayReady, Core.leased]; decide +kernel

theorem witness_MatrixIssue : let s := bay0 [] 6
    let r := bay0 [] 3
    let c := s.core 0
    let t : TMap := Tab.get 0 c.tms 0
    let u : TMap := Tab.get 0 (r.core 0).tms 0
    matFmt 0 (c.fmtReg 0) = some .f32 ∧ t.fits (pitch 32) (classK (matClass 0)) false = true ∧ s.bayReady 0 [0] [] [] ∧
    s.bayReady 0 [1] [] [] ∧ reamFmt (c.fmtReg 3) = true ∧ u.fits (pitch 4) (classK 4) false = true ∧
    t.fits (pitch 32) (classK (matClass 0)) true = true ∧ (c.bank 0).loaded = true ∧ (c.bank 0).cls = matClass 0 ∧
    s.bayReady 0 [0] [tileWords c.abase.toNat 3 t.nr] [tileWords c.abase.toNat 3 t.nr] ∧
    (bay0 [] 5).bayReady 0 [0] [tileWords c.abase.toNat 0 1] [] ∧
    (Tab.get 0 ((bay0 [] 5).core 0).tms 0 : TMap).fits (pitch 32) 16 false = false ∧ t.fits (pitch 32) 16 false = true ∧
    u.fits 4 512 true = true ∧
    mreamCheck (c.bank 2) (c.counter 0) (c.fmtReg 3) (List.replicate 16 0x7F0) u.nk = none ∧
    mergeCheck (c.counter 0) (c.counter 1) = none ∧ s.bayReady 0 [0, 1] [] [tileWords c.abase.toNat 0 64] ∧
    s.tileReady 0 [] 63 := by
  simp only [Machine.State.bayReady, Core.leased, State.tileReady]
  repeat' apply And.intro
  all_goals decide +kernel

/-- The last pair, which names a table of scales at the end of TCM and a box start; an absmax word that the issue lets pass. -/
theorem witness_MatrixTables : let s := bay0 [(62, 0xFF80), (63, 5), (1, 0xFFFC)] 6
    s.pairIs 0 62 0xFF80 5 ∧ s.scalesAre 0 0xFF80 64 (List.replicate 64 0) ∧ s.scalesAre 0 0xFFE0 16 (List.replicate 16 0) ∧
    classK (matClass 0) / 2 = 64 ∧ s.absmaxIs 0 (s.reg 1) ∧ (s.core 0).reg.isEmpty 1 = false ∧ s.bayReady 0 [0] [] [] := by
  refine ⟨⟨by decide, fun _ => by decide +kernel⟩, ⟨by decide, fun _ => ?_⟩, ⟨by decide, fun _ => ?_⟩, ?_⟩
  all_goals simp only [State.absmaxIs, State.noneOut, Core.drained, State.quietReads, State.bayReady, Core.leased]; decide +kernel

theorem witness_LeaseResults : let s := at0 [(1, 0x20000000100)]
    let t := bay0 [] 0
    let l := at0 [] { leases := [(2, { st := .lost })] }
    let q := at0 [] { leases := [(2, { st := .queued })] }
    (Tab.get {} (s.core 0).leases 2 : Lease).yieldDone = none ∧ (Tab.get {} (t.core 0).leases 7 : Lease).st = .held ∧
    s.tileReady 0 [1] 3 ∧ t.tileReady 0 [1] 3 ∧ (Tab.get {} (s.core 0).leases 2 : Lease).st = .none ∧
    (s.cluster 0).leaseQ = [] ∧ (s.cluster 0).engs = [] ∧ (s.cluster 0).demand = none ∧
    (Tab.get {} (l.core 0).leases 2 : Lease).st = .lost ∧ l.tileReady 0 [] 3 ∧
    (Tab.get {} (q.core 0).leases 2 : Lease).st = .queued ∧ q.tileReady 0 [] 3 ∧ (l.core 0).pair = .alone := by
  simp only [State.tileReady]; decide +kernel

/-- A held lease that no one waits for, that another core waits for, that is being yielded; a grace window; an operation
under way; a request in the queue. -/
theorem witness_LeaseEnds : let on (l : Lease) (q : List LeaseReq) (ops : List EngOp) : State :=
      ((at0 [] { leases := [(2, l)], dispq := ops }).setCluster 0 { engs := [(2, { power := .held 0 })], leaseQ := q })
    let op : EngOp := { instr := .vadd 2 3 1 2, engs := [2] }
    let other : LeaseReq := { core := 1, eng := 2, prio := 3 }
    let own : LeaseReq := { core := 0, eng := 2 }
    let w : State := (at0 [] { leases := [(2, { st := .queued, rd := 31 })] }).setCluster 0
      { engs := [(2, { power := .waking (some 0) 0 true false })], leaseQ := [own] }
    let held := on { st := .held } [] []
    let asked := on { st := .held } [other] [op]
    held.waitedFor 0 2 = false ∧ held.tileReady 0 [] 3 ∧ held.opsOn 0 2 = [] ∧ (held.cluster 0).demand = none ∧
    asked.waitedFor 0 2 = true ∧ asked.opsOn 0 2 ≠ [] ∧ asked.tileReady 0 [] 3 ∧
    (on { st := .held, yielding := true } [] []).opsOn 0 2 = [] ∧ (on { st := .grace } [] []).opsOn 0 2 = [] ∧
    (on { st := .grace } [] [op]).opsOn 0 2 ≠ [] ∧ (held.cluster 0).engs = [(2, { power := .held 0 })] ∧
    (w.cluster 0).leaseQ = [{ core := coreNo 0, eng := 2, prio := ((w.core 0).lease 2).prio }] ∧ ((w.core 0).lease 2).rd < 32 ∧
    (w.cluster 0).demand = none ∧ (w.cluster 0).scanOrder = [own] ∧ w.tileReady 0 [] 3 ∧
    (∀ r ∈ (held.cluster 0).scanOrder, ¬(r.core = coreNo 0 ∧ r.eng = 2)) := by
  simp only [State.tileReady]; decide +kernel

/-- A lease that another core waits for, as the core has no operation left, and an LFREE of a request whose register is s63. -/
theorem witness_LeaseHandover :
    let s : State := (at0 [] { leases := [(2, { st := .held, prio := 2 })] }).setCluster 0
      { engs := [(2, { power := .held 0 })], leaseQ := [{ core := 3, eng := 2, prio := 2 }] }
    let w : State := (at0 [] { leases := [(2, { st := .queued, prio := 3, rd := 63 })] }).setCluster 0
      { engs := [(2, { power := .waking (some 0) 3 true false })], leaseQ := [{ core := 0, eng := 2, prio := 3 }] }
    let l : Lease := Tab.get {} (s.core 0).leases 2
    (s.cluster (corePos 0)).engs = [(2, { power := .held 0 })] ∧ (s.cluster (corePos 0)).leaseQ = [{ core := 3, eng := 2, prio := 2 }] ∧
    (s.cluster (corePos 0)).demand = none ∧ l.yieldDone = none ∧ l.st = .held ∧ l.yielding = false ∧ s.opsOn 0 2 = [] ∧ 3 ≠ coreNo 0 ∧
    s.waitedFor 0 2 = true ∧ l.prio ≤ 2 ∧ s.tileReady 0 [] 63 ∧ ((w.core 0).lease 2).rd < 64 ∧ ((w.core 0).lease 2).st = .queued ∧
    (w.cluster (corePos 0)).leaseQ = [{ core := coreNo 0, eng := 2, prio := ((w.core 0).lease 2).prio }] ∧ w.cur = .tile 0 := by
  simp only [State.tileReady]; decide +kernel

theorem witness_MapResults : let s := at0 [(1, 5)]
    s.tileReady 0 [] 3 ∧ s.tileReady 0 [1, 2] 3 ∧ (s.core 0).slotsFree := by
  simp only [State.tileReady, Core.slotsFree]; decide +kernel

/-- A root table at page 1 that maps the first gibibyte of translated space to edge memory, for region 0. -/
def mapped0 : State :=
  (State.writeWord { (at0 [] { tfbase := 0x1000000008000, ch := some 0 }) with
    regions := [(0, { tag := 1 })]
    parts := [(1, { regions := 1, root := 0x1000 })] } 0x1000 0x2001).writeWord 0x2000 0x1F

theorem witness_TrapEntry : mapped0.Inv ∧ mapped0.tfHome 0 = some 0x8000 ∧ (at0 []).tfHome 0 = none := by
  simp only [State.Inv]; decide +kernel

theorem witness_ScalarTraps : let s := near0 [(1, 0x3F), (2, 0xF8), (3, 0x11000)]
    let e := s.setCore 0 { s.core 0 with reg := { empty := [(1, true)] } }
    (e.core 0).reg.isEmpty 2 = false ∧ s.cur = .tile 0 ∧ (s.core 0).pair = .alone ∧ (s.core 0).reg.isEmpty 1 = false ∧ (e.core 0).reg.isEmpty 1 = true ∧
    s.tileReady 0 [3, 2] 2 ∧ s.operand (corePos 0) (s.reg 3) 8 .load = none ∧ s.operand (corePos 0) (s.reg 3) 8 .store = none ∧
    s.tileReady 0 [1, 2] 2 ∧ s.operand (corePos 0) (s.reg 1) 2 .load = some (.tcm 0x3F) ∧
    s.operand (corePos 0) (s.reg 1) 2 .store = some (.tcm 0x3F) ∧ (s.reg 1).toNat % 2 ≠ 0 := by
  simp only [State.tileReady]; decide +kernel

/-- Island core 0 in S mode at a depth, its trap stack and vectors in its region's SRAM. -/
def isle0 (kstat : Word) (rs : List (Nat × Word) := []) : State :=
  { (({} : State).setICore 0 { kstat := kstat, ksp := 0x4000000002000, kvt := 0x4000000001000, regs := rs }) with cur := .island 0 }

theorem witness_IslandScalars : (isle0 1).cur = .island 0 ∧ bit ((isle0 0).icore 0).kstat 0 = false ∧
    (at0 []).cur = .tile 0 := by decide +kernel

/-- Island core 0 in U mode under the tables of mapped0. -/
def user0 (rs : List (Nat × Word)) : State :=
  let s := isle0 0 rs
  let t := s.setICore 0 { s.icore 0 with kxlat := 0x1000 }
  (t.writeWord 0x1000 0x2001).writeWord 0x2000 0x1F

/-- The last words of a region's SRAM and of a page of the tables, and a word of host memory; an address that no memory holds, one
that is not aligned, one beyond translation, one that no table maps, a word that cannot be read. -/
theorem witness_IslandAccesses : let s := isle0 1 [(1, 0x40000000FFFF8)]
    let u := user0 [(1, 0x3FFFFFF8)]
    (s.cur = .island 0 ∧ s.eccSoft = [] ∧ (s.icore 0).sbuf = [] ∧ s.Inv ∧ s.badAt 0x40000000FFFF8 8 = false) ∧
    (u.cur = .island 0 ∧ u.eccSoft = [] ∧ (u.icore 0).sbuf = [] ∧ u.Inv ∧ bit (u.icore 0).kstat 0 = false) ∧
    (∀ w, s.islandAt 0 (s.reg 1) 8 w 0x40000000FFFF8 ∧ u.islandAt 0 (u.reg 1) 8 w 0x3FFFFFF8 ∧
      s.islandAt 0 0x8000000000000 8 w 0x8000000000000) ∧
    physHome 0x4000030000000 = none ∧ (physHome 0x40000000FFFF9).isSome = true ∧ 0x40000000FFFF9 % 2 ≠ 0 ∧
    (∀ w, (u.translate ((u.icore 0).kxlat.toNat / 4096 * 4096) 0x40000000 w).toOption = none) ∧
    ({ s with eccBad := [0x40000000FFFF8 / 8] } : State).badAt 0x40000000FFFF8 8 = true := by
  refine ⟨?_, ?_, fun w => ⟨⟨by decide +kernel, 0x40000000FFFF8, by decide +kernel, by decide +kernel, fun _ => by decide +kernel,
      fun h => absurd h (by decide +kernel)⟩,
    ⟨by decide +kernel, 0x3FFFFFF8, by decide +kernel, by decide +kernel, fun h => absurd h (by decide +kernel),
      fun _ => ⟨by decide +kernel, by cases w <;> rfl⟩⟩,
    ⟨by decide +kernel, 0x8000000000000, by decide +kernel, by decide +kernel, fun _ => by decide +kernel,
      fun h => absurd h (by decide +kernel)⟩⟩, by decide +kernel, by decide +kernel, by decide +kernel,
    fun w => by cases w <;> decide +kernel, by decide +kernel⟩
  all_goals simp only [State.Inv]; decide +kernel

/-- CSRs by name, values that are stored and one that is refused, a number that no register has; an instruction of a tile core
whose fields its encoding admits. -/
theorem witness_IslandCsrs : let s := isle0 0xF1 [(1, 5)]
    let c := s.icore 0
    (0x105, 0) ∈ islandCsrs s 0 ∧ (0x100, 0xF1) ∈ islandCsrs s 0 ∧ (islandStored c 0x100 2).map ICore.kstat = some 0xF2 ∧
    (islandStored c 0x101 63).map ICore.ksp = some 0 ∧ islandStored c 0 5 = none ∧ (islandStored c 0 4).isSome = true ∧
    islandStored c 0x105 0 = none ∧ 1 ∉ [8] ++ (islandCsrs s 0).map Prod.fst ∧ bit c.kstat 0 = true ∧
    (Instr.vadd 5 31 31 31).encoded = true ∧ (Instr.vadd 5 31 31 31).wf = true ∧ islandRuns (.vadd 5 31 31 31) = false ∧
    islandRuns (.mstat 63) = false ∧ (Instr.mstat 63).encoded = true ∧ (Instr.mstat 63).wf = true ∧
    bit ((isle0 0).icore 0).kstat 0 = false ∧ Instr.loadctx 63 0 ∈ systemOps 63 0 := by decide +kernel

theorem witness_IslandEntry : let s := isle0 0xE3
    let c := s.icore 0
    let f := c.ksp - 64
    s.Inv ∧ c.sbuf = [] ∧ bits c.kstat 4 4 < 15 ∧ physHome f.toNat = some 0x4000000001FC0 ∧ (physHome (f + 56).toNat).isSome = true ∧
    physHome (c.kvt + BitVec.ofNat 64 (8 * 130)).toNat = some 0x4000000001410 ∧ s.badAt 0x4000000001410 8 = false ∧
    (0x4000000001410 + 8 ≤ 0x4000000001FC0) ∧ bits ((isle0 0xF1).icore 0).kstat 4 4 = 15 ∧
    bit (isle0 0xF1).fcsr 0 = false ∧ bit ((isle0 0xF1).icore 0).kstat 0 = true ∧
    physHome (c.ksp + 8).toNat = some 0x4000000002008 ∧
    (let t := (isle0 0x11).writeWord 0x4000000002000 0x02
     bits (t.readWord 0x4000000002000) 8 56 = 0 ∧ bits (t.readWord 0x4000000002000) 4 4 + 1 = bits (t.icore 0).kstat 4 4) ∧
    (let t := (isle0 0x11).writeWord 0x4000000002000 0x100
     bits (t.readWord 0x4000000002000) 8 56 ≠ 0) ∧
    (let t := (isle0 0x11).writeWord 0x4000000002000 0x12
     bits (t.readWord 0x4000000002000) 8 56 = 0 ∧ bits (t.readWord 0x4000000002000) 4 4 + 1 ≠ bits (t.icore 0).kstat 4 4) ∧
    (let t : State := { isle0 0x11 with eccBad := [0x800000000400] }
     t.badAt 0x4000000002000 8 = true ∧ physHome (t.icore 0).ksp.toNat = some 0x4000000002000) ∧
    physHome 0x4000030000000 = none ∧ physHome 0x400002FFFFFF8 = some 0x400002FFFFFF8 ∧ bits ((isle0 1).icore 0).kstat 4 4 = 0 := by
  simp only [State.Inv]; decide +kernel

theorem witness_SystemResults : let s := isle0 1 [(1, 0x1001), (2, 65)]
    s.cur = .island 0 ∧ bit (s.icore 0).kstat 0 = true ∧ s.kevt 0 = 0 ∧ (s.region 0).walks = [] ∧ (s.region 0).waiting = [] ∧
    s.reg 2 ≠ 0 ∧ s.reg 3 = 0 ∧ (s.icore 0).sbuf = [] ∧ (s.setRegion 0 { doorbell := 1 }).kevt 0 ≠ 0 ∧
    bits (s.reg 2) 0 24 ≠ 0 ∧ bits (s.reg 2) 26 6 = 0 ∧ bits (s.reg 2) 40 24 = 0 ∧ bits (0x4000000 : Word) 26 6 ≠ 0 ∧
    1 ∈ s.tagClusters 0 false ∧ 1 ∉ s.tagClusters 5 false ∧
    (let t := s.setCluster 95 { hardTags := [1] }
     (t.cluster 95).hardTags = [(s.reg 1).toNat % 256] ∧ (t.cluster 95).clusterStops = []) := by decide +kernel

/-- Partition 1 on region 0 with its context in a state. -/
def ctx0 (st : Nat) : State :=
  let s : State := { isle0 1 [(1, 1)] with
    regions := [(0, { tag := 1 })], parts := [(1, { regions := 1, released := true, saveBases := (regionClusters 0).map fun p => (p, 0x1000000000000) })] }
  s.writeWord (sramHome 0 + 0xF01000 + 8) (BitVec.ofNat 64 st)

theorem witness_ContextResults : (∀ n, n < 4 → (ctx0 n).ctxState 1 = n) ∧
    (∀ p ∈ (ctx0 0).partClusters 1, Tab.get 0 (Tab.get {} (ctx0 0).parts 1 : Partition).saveBases p ≠ 0) ∧
    (∀ p ∈ (ctx0 2).partClusters 1, (ctx0 2).unserved 1 p = false) ∧
    (∀ r ∈ maskRegions 1, ((ctx0 2).region r).tag = 1) ∧ (ctx0 0).reg 1 = 1 := by decide +kernel

/-! Events. -/

/-- A plain message from cluster 0 for a position, with the tag of its source. -/
def letter (at_ dest vc tag : Nat) : Msg := { at_ := at_, vc := vc, w0 := header0 dest 0 vc 31 0 0, w1 := header1 at_ 0 0 tag, dir := 4 }

/-- A message enters the local port or finds it full; one hop inside a region, across a border that admits it and across one that does not, arrival with room and without,
a broken link. -/
theorem witness_MeshForwarding : let s : State := { net := [letter 0 1 5 0, letter 15 16 5 0xFF, letter 15 16 6 5, letter 0 0 6 0] }
    let one (m : Msg) : State := { net := [m] }
    let full := s.setInq 0 6 [{ letter 0 0 6 0 with body := List.replicate 256 0 }]
    let cut := s.setRouter 0 { broken := [1] }
    let fresh : Msg := { letter 0 1 6 0 with dir := 5 }
    s.portRoom 0 fresh = true ∧ ({ net := List.replicate 4 (letter 0 1 6 0) } : State).portRoom 0 fresh = false ∧
    (one fresh).behind 0 fresh = false ∧ (one fresh).loadHeld fresh = false ∧
    (∀ i, i < 3 → (one (nth {} s.net i)).credit (nth {} s.net i).at_ 1 (nth {} s.net i) = true ∧
      (one (nth {} s.net i)).linkTurn (nth {} s.net i).at_ 1 = some (nth {} s.net i).vc) ∧
    s.portTo 5 0 1 = 1 ∧ s.portTo 5 15 16 = 1 ∧ roomFor (s.inq 0 6) (nth {} s.net 3) = true ∧
    roomFor (full.inq 0 6) (nth {} s.net 3) = false ∧ (cut.router 0).broken.contains (cut.portTo 5 0 1) = true ∧
    (∀ i, i < 4 → s.behind i (nth {} s.net i) = false ∧ s.quieted (nth {} s.net i).at_ (nth {} s.net i).vc = false ∧
      s.loadHeld (nth {} s.net i) = false) ∧
    nextPos 0 (s.portTo 5 0 1) = some 1 ∧ (s.router 0).broken.contains (s.portTo 5 0 1) = false ∧ regionOf 1 = regionOf 0 ∧
    nextPos 15 (s.portTo 5 15 16) = some 16 ∧ s.admits 16 (nth {} s.net 1) = true ∧ s.admits 16 (nth {} s.net 2) = false ∧
    regionOf 16 ≠ regionOf 15 ∧ isIsland 0 = false ∧ s.isRetired 0 = false ∧ s.Inv ∧
    fresh.uncounted = false ∧ ({ fresh with uncounted := true } : Msg).uncounted = true ∧ isIsland (islandPos 47) = true := by
  simp only [State.Inv]; decide +kernel

/-- A request of kind `kind` for address `a`. -/
def request (kind : Nat) (a : Word) : Msg :=
  { vc := 2, w0 := header0 0 0 2 kind 0 0, w1 := header1 0 0 0 0, w2 := a, w3 := 3 * 256, body := toBytes 8 5 }

theorem witness_RequestServing : let m := request 0 0x1000000008000
    let st := request 1 0xFFFF8
    let s := mapped0
    let at_ (m : Msg) : State := s.setCluster 0 { reqq := [m] }
    let fwd (m : Msg) : State := s.setRegion 0 { s.region 0 with inq := [(2, [m])] }
    let walk : State := s.setRegion 0 { s.region 0 with walks := [{ page := 8, reqs := [m] }] }
    m.port = none ∧ walk.eccSoft = [] ∧ s.eccSoft = [] ∧ (at_ (request 0 0)).quietReads 0 ∧ (request 0 0).kind = 0 ∧ st.kind = 1 ∧ m.size = 8 ∧
    s.badAt (spadHome 0) 8 = false ∧ m.toSram = false ∧ isTranslated m.w2 = true ∧ isTranslated (request 0 0).w2 = false ∧
    Tab.get [] ((fwd m).region 0).inq 2 = [m] ∧ ((fwd m).region 0).waiting = [] ∧ ((fwd m).region 0).walks = [] ∧
    ((fwd m).region 0).tlbFind (s.asid 0) (bits m.w2 0 48) = none ∧ (request 8 0).kind = 8 ∧
    (walk.region 0).walks = [{ page := 8, reqs := [m] }] ∧
    ((walk.walk (walk.partOf 0).root (8 * 4096)).toOption.map fun g => (g.pa, g.size, g.perm)) = some (0, 30, 7) ∧ (⟨0, 30, 7⟩ : Page).allows m.want = true ∧
    0 + bits m.w2 0 48 % 2 ^ 30 < 0x18000000000 ∧ (s.walk 0 (8 * 4096)).toOption.isNone = true := by
  simp only [State.quietReads]
  decide +kernel

/-- An access of every kind at the home of a word, one there that cannot be read, kinds that are none, in the queue of each
server. -/
theorem witness_Serving : let word (kind n : Nat) : Msg := { request kind 0xFFFF8 with w3 := n * 256 }
    let s (m : Msg) : State := { (({} : State).setCluster 0 { reqq := [m] }).setRegion 0 { inq := [(2, [{ m with w2 := 0x20000000008 }])] } with
      bridges := [(15, [m]), (19, [{ m with w2 := 0xF8000000FFFF8 }])] }
    (∀ kind ∈ [0, 1, 2, 3, 4, 5, 6, 7, 9, 10, 31], let m := word kind 3
      m.kind = kind ∧ ((s m).cluster 0).reqq = m :: [] ∧ Tab.get [] ((s m).region 0).inq 2 = { m with w2 := 0x20000000008 } :: [] ∧
      ({ m with w2 := 0x20000000008 } : Msg).toSram = true ∧ Tab.get [] (s m).bridges 15 = m :: [] ∧
      (Tab.get [] (s m).bridges (16 + 3)).length = 1 ∧ (s m).eccSoft = [] ∧ m.port = none ∧
      (s m).badAt (spadHome 0 + bits m.w2 0 20) m.size = false) ∧
    (∀ kind ∈ [3, 4, 5], ((word kind (3 + 8 * (if kind = 5 then 2 else 0))).newValue 0).isSome = true) ∧
    ((word 3 2).newValue 0).isSome = true ∧ ((word 5 (2 + 8)).newValue 0).isSome = true ∧
    (let b : State := { s (word 0 3) with eccBad := [(spadHome 0 + 0xFFFF8) / 8] }
     b.badAt (spadHome 0 + bits (word 0 3).w2 0 20) 8 = true) := by decide +kernel

/-- A page that the TLB of region 0 holds, over edge memory, host memory and another wafer, that allows a write or none. -/
theorem witness_Translation : let m := request 1 0x1000000008000
    let s (pa perm : Nat) : State := { (({} : State).setRegion 0 { inq := [(2, [m])], tlb := [{ va := 0, size := 30, pa := pa, perm := perm }] }) with
      links := [(3, { up := true, toward := [5] })], fabric := { joined := true, pods := [(5, 0)] } }
    (∀ pa ∈ [0x17FC0000000, 0x8000000000000, 0x2000000000000 + 5 * 2 ^ 41], let t := s pa 7
      Tab.get [] (t.region 0).inq 2 = [m] ∧ (t.region 0).tlbFind (t.asid 0) (bits m.w2 0 48) = some ⟨pa, 30, 7⟩ ∧
      t.canForward m (pa + bits m.w2 0 48 % 2 ^ 30) ∧ (t.region 0).waiting = [] ∧ (t.region 0).walks = []) ∧
    (⟨0, 30, 7⟩ : Page).allows m.want = true ∧ (⟨0, 30, 1⟩ : Page).allows m.want = false ∧
    (s 0 1).freeLink none 5 m = some 3 ∧ m.kind ∉ [3, 4, 5] ∧ m.kind < 10 ∧ m.toSram = false ∧ isTranslated m.w2 = true := by
  simp only [State.canForward]; decide +kernel

theorem witness_ReplySinking : let l : Slot := { dst := 24, len := 8, acc := { n := 8 } }
    let d : Msg := { vc := 3, w0 := header0 0 0 3 0 8 0, w2 := 7, body := toBytes 8 5 }
    let f : Msg := { vc := 3, w0 := header0 0 0 3 2 0 0, w2 := fields [(0, 11), (8, 16)] }
    let s := (at0 [] { slots := setNth (List.replicate 8 none) 7 (some l) }).setInq 0 3 [d]
    let t := (({} : State).setCluster 0 { fills := [none, none, none, some { line := 5 }] }).setInq 0 3 [f]
    s.inq 0 3 = [d] ∧ bit d.w2 3 = false ∧ bits d.w2 0 3 = 7 ∧ (s.core 0).pair = .alone ∧
    nth none (s.core 0).slots 7 = some l ∧ d.kind = 0 ∧ l.store = false ∧ t.inq 0 3 = [f] ∧ bit f.w2 3 = true ∧
    nth none (t.cluster 0).fills (bits f.w2 0 3) = some { line := 5 } ∧ f.kind = 2 ∧
    (let g : Msg := { f with w0 := header0 0 0 3 0 64 0 }
     g.kind = 0 ∧ bit g.w2 3 = true ∧ ((t.setInq 0 3 [g]).inq 0 3) = [g]) := by decide +kernel

theorem witness_StoreReleases : let e : Buffered := { homeAt := some (tcmHome 0), mask := 0xFF, data := 5, home := 1 }
    let f : Buffered := { acc := { kind := 1, addr := 0x1000000000000, n := 8 }, home := 5 }
    let s := at0 [] { sbuf := [e] }
    let t := at0 [] { sbuf := [f] }
    let u : State := ({} : State).setICore 383 { sbuf := [e] }
    (s.core 0).sbHeld = none ∧ (s.core 0).sbuf = [e] ∧ (s.core 0).stream = [] ∧ (s.core 0).sends = [] ∧
    (t.core 0).blocked ≠ some .slot ∧ t.ldfeBefore 0 f.seq = false ∧ (s.core 0).mayRelease 0 e = true ∧ s.ldfeBefore 0 e.seq = false ∧
    s.quietReads (corePos 0) ∧ (s.cluster (corePos 0)).chans = [] ∧ (t.core 0).mayRelease 0 f = true ∧ f.homeAt = none ∧
    (t.core 0).slotsFree ∧ (u.icore 383).sbuf = [e] ∧ s.Inv := by
  simp only [State.quietReads, Core.slotsFree, State.Inv]; decide +kernel

/-- A message of 8 bytes for channel 31 of core 0 in the input queue of VC5. -/
def arriving (s : State) (body : List (BitVec 8)) : State := s.setInq 0 5 [{ letter 0 0 5 0 with w0 := header0 0 0 5 31 0 0, body := body }]

theorem witness_MessageArrival : let e : SendEntry := { hdr := 0x50000, addr := 0x1000, len := 8 }
    let s := at0 [] { sendq := [e] }
    let q := arriving ((at0 []).setHand 0 31 { words := [0, 0x80, 0, 0, 0, 0] }) []
    let r := arriving ((at0 []).setHand 0 31 { words := [0, 0x80, 0, 0, 0, 0], life := .ready }) []
    let b := arriving (buffered0 []) (toBytes 8 5)
    let h := (b.core 0).hand 31
    let st : Msg := { w0 := header0 0 0 0 chStart 0 0 }
    let c : Msg := { letter 0 0 5 0 with body := toBytes 8 9 ++ List.replicate 256 0 }
    let n := arriving {} []
    let x : RdSlot := { armed := true, ctl := fields [(2, 5), (5, 31), (12, 1), (28, 1), (31, 1)] }
    let y : RdSlot := { armed := true, ctl := fields [(2, 5), (5, 31), (12, 2), (28, 1), (31, 1)] }
    let t (x : RdSlot) : State := (({} : State).setCluster 0 { rd := [(0, x)] }).setInq 0 5 [c]
    (s.core 0).sendq = [e] ∧ (s.core 0).sendWaits 0 e = false ∧ (s.core 0).sends = [] ∧ s.eccSoft = [] ∧ s.portRoom 0 (s.sendMsg 0 e) = true ∧ s.preempted (corePos 0) = false ∧
    q.savedOut 0 = false ∧ q.preempted 0 = false ∧ q.frontTurn 0 = some 5 ∧ r.frontTurn 0 = some 5 ∧ b.frontTurn 0 = some 5 ∧
    n.frontTurn 0 = some 5 ∧
    ((q.core 0).hand 31).valid = true ∧ ((q.core 0).hand 31).life = .filling ∧ ((q.core 0).hand 31).nbuf = 0 ∧
    ((r.core 0).hand 31).life ≠ .filling ∧ h.valid = true ∧ h.target = some 0 ∧ 0 < h.nbuf ∧
    nth 0 h.counts 0 + 8 ≤ bufCap (h.buf 0) ∧ ((n.core 0).hand 31).valid = false ∧
    bits st.w0 19 5 = chStart ∧ ((t x).cluster 0).rdMatch c = some 0 ∧ ((t y).cluster 0).rdMatch c = some 0 ∧
    c.body.length = 264 ∧ x.count + 1 = bits x.ctl 12 16 ∧ y.count + 1 ≠ bits y.ctl 12 16 ∧
    ofBytes (takeN 8 c.body) % 16 = x.descr.toNat ∧ s.ldfeBefore 0 e.seq = false ∧ isIsland (corePos 0) = false ∧
    (let o : Msg := { vc := bits x.parent 16 3, body := toBytes 8 x.descr.toNat ++ dropN 8 c.body }
     (t x).portRoom 0 o = true ∧ ({ t x with net := List.replicate 4 { letter 0 1 o.vc 0 with body := List.replicate 512 0 } } : State).portRoom 0 o = false) := by
  decide +kernel

theorem witness_ActivationSteps : let h : Handler := { words := [0x20000000000, 0x87, 0, 0, 0, 0], life := .ready, launch := 5 }
    let s := (at0 []).setHand 0 31 h
    let l : Launch := { phase := .masked, reported := true, cores := [0], entries := [(0, 31)] }
    let t : State := { s with launches := [(5, l)] }
    (s.core 0).pair = .alone ∧ (s.core 0).ch = none ∧ (s.core 0).trapped = none ∧ (s.core 0).oppNew = none ∧
    s.mayStart (corePos 0) = true ∧ (s.cluster (corePos 0)).traceOn = false ∧ (s.core 0).select = some 31 ∧
    t.preempted (corePos 0) = false ∧ ((t.core 0).hand 31).valid = true ∧ ((t.core 0).hand 31).launch = 5 ∧
    ((t.core 0).lease 7).st = .none := by decide +kernel

theorem witness_LaunchSteps : let l : Launch := { queue := 3, expect := 2, cores := [0] }
    let s : State := { launches := [(7, l)] }
    let st : Launch := { l with phase := .started }
    let m (n : Nat) : Msg := { w0 := header0 0 0 0 chPost 16 0, body := bytesOf [BitVec.ofNat 64 n, 7] }
    let t (n : Nat) : State := { launches := [(7, st)], regions := [(0, { inq := [(0, [m n])] })] }
    let z : Quieting := { classes := [5], regions := [0], launch := some 7 }
    let q : State := { s with regions := [(0, { quiet := some z })] }
    let b : State := { q with net := [{ letter 0 0 5 0 with dir := 3 }] }
    (∀ e ∈ s.launches, e.2.phase ≠ .waiting) ∧ l.phase = .loaded ∧ l.expect ≠ 0 ∧
    (s.launches.find? fun e => e.2.queue = 3 && e.2.phase == .loaded && !s.startWaits e.1 e.2 &&
      s.ctxState (s.queue 3).tag = 0) = some (7, l) ∧
    Tab.get [] ((t 1).region 0).inq 0 = [m 1] ∧ bits (m 1).w0 19 5 = chPost ∧ bits (nth 0 (wordsOf (m 1).body 2) 1) 0 32 = 7 ∧
    l.count + (nth 0 (wordsOf (m 1).body 2) 0).toNat < l.expect ∧ l.expect ≤ l.count + (nth 0 (wordsOf (m 2).body 2) 0).toNat ∧
    (q.region 0).quiet = some z ∧ q.isQuiet z = true ∧ Mould.idle (q.launchOf 7).mould q = true ∧ b.isQuiet z = false ∧
    Mould.idle (q.launchOf 7).mould (q.releaseQuiet z) = true ∧
    (Mould.refusal (q.launchOf 7).mould (q.releaseQuiet z) 0 0).isSome = true ∧ l.reported = false ∧ l.node = 0xFFFF ∧
    b.isQuiet { z with launch := none } = false := by
  repeat' apply And.intro
  all_goals decide +kernel

/-- The mapped wafer with a queue of partition 1 whose work ring is at 0x1000000010000. -/
def queue0 (x : Queue) : State := { mapped0 with queues := [(1, { x with tag := 1, work := 0x1000000010000 })] }

theorem witness_QueueSteps : let s := queue0 { st := 1, tail := 2, chead := 1 }
    let t := (s.writeWord 0x10040 (BitVec.ofNat 64 (1 + 1 * 2 ^ 32)))
    let k := queue0 { st := 1, cseq := 1, chead := 0, kept := [[1]] }
    let a : State := { (queue0 { st := 3, cmd := 1 }).setHand 0 31 { words := [0, 0x80, 0, 0, 0, 0], life := .running, launch := 7 } with
      launches := [(7, { queue := 1, phase := .masked, cores := [0], entries := [(0, 31)] })] }
    let d := a.setCore 0 { a.core 0 with ch := some 31 }
    (d.queue 1).st = 3 ∧ (d.core 0).ch = some 31 ∧ ((d.core 0).hand 31).valid = true ∧ ((d.core 0).hand 31).launch = 7 ∧
    (d.core 0).pair = .alone ∧ (d.core 0).trapped = none ∧ (d.core 0).stuck = [] ∧ (d.core 0).due = [] ∧
    (d.core 0).slots = List.replicate 8 none ∧ d.opsOf 0 = [] ∧ ((d.core 0).lease 7).st = .none ∧
    (d.cluster (corePos 0)).traceOn = false ∧ d.inq (corePos 0) 5 = [] ∧ (s.part (s.queue 1).tag).retiring = [] ∧
    (s.queue 1).st ≠ 0 ∧ (s.queue 1).pend = [] ∧ (s.queue 1).consumed ≠ (s.queue 1).tail ∧
    (s.ctxRead 1 ((s.queue 1).work + 64) 64).toOption = some (List.replicate 64 0) ∧
    ((t.ctxRead 1 ((t.queue 1).work + 64) 64).toOption.map fun bs =>
      (bits (nth 0 (wordsOf bs 8) 0) 0 32, workFormat (wordsOf bs 8))) = some (1, true) ∧
    s.led 1 = true ∧ (s.queue 1).st = 1 ∧ s.launches = [] ∧ (s.queue 1).place = none ∧ s.queueRuns 1 = false ∧ (k.queue 1).st ≠ 3 ∧ before (k.queue 1).chead (k.queue 1).cseq = true ∧
    (∀ w ∈ (k.queue 1).kept, before (k.queue 1).chead (bits (nth 0 w 0) 0 32) = true) ∧
    ahead (k.queue 1).cseq (k.queue 1).chead ≤ (k.queue 1).kept.length ∧ ((queue0 { st := 3, cmd := 1 }).queue 1).st = 3 := by
  decide +kernel

/-- A barrier node that fires node 1, which waits for it and for one more. -/
def graph0 (ph : NodePhase) (k : Nat) : Graph :=
  { queue := 1, nodes := [{ words := [BitVec.ofNat 64 k, 0xFFFFFFFFFFFF0001, 0x1000000000100, 0x1000000000200, 8], phase := ph },
      { words := [0x20003, 0xFFFFFFFFFFFFFFFF], phase := .idle },
      { words := [3, 0xFFFFFFFFFFFFFFFF], phase := .running }] }

/-- A mould that places one task, of one buffer on channel 31, on core 0; its code goes to SRAM at 0x1000. -/
def mould0 : List (BitVec 8) :=
  let body := bytesOf ([fields [(0, 1), (32, 24)], 128, fields [(0, 2), (32, 48)], 152, fields [(0, 3), (32, 8)], 200,
    fields [(0, 4), (32, 8)], 208] ++ [2, 0x1000, 0x0A66] ++ [fields [(32, 1)], BitVec.ofNat 64 (0x1000 + 2 ^ 24 * 512 + 2 ^ 44 * 512), 0, 0, 0, 0]
    ++ [fields [(16, 31)]] ++ [fields [(32, 31), (37, 1)]])
  bytesOf [0x444C554F4D57564F, fields [(0, 1), (16, 64), (32, 4)], 216, 1, fields [(0, 1), (32, 1)], 0,
    BitVec.ofNat 64 (crc32c body), 0] ++ body

/-- Quiet classes while a core of the mould is still at work. -/
theorem witness_LaunchWaits : let z : Quieting := { classes := [5], regions := [0], launch := some 7 }
    let s : State := { at0 [] { ch := some 0 } with regions := [(0, { quiet := some z })], launches := [(7, { mould := mould0 })] }
    (s.region 0).quiet = some z ∧ s.isQuiet z = true ∧ Mould.idle (s.launchOf 7).mould s = false := by decide +kernel

/-- The mapped wafer whose one tenant has queue 1 with a record that launches the mould at 0x1000000010000. -/
def paid0 (gs : Tab Graph) (items : List Item) : State :=
  let s : State := { mapped0 with
    queues := [(1, { st := 1, tag := 1, tenant := 5, items := items })]
    regions := [(0, { tag := 1, tenants := [(5, { refill := 4, bal := 2 })] })], graphs := gs }
  s.writeMem 0x10000 mould0

theorem witness_GraphSteps : let s := paid0 [(9, graph0 .ready 3)] []
    let it : Item := { words := [fields [(32, 1)], 0x1000000010000, 216, 0, 0] }
    let m := paid0 [] [it]
    let y : Queue := s.queue 1
    let c := paid0 [(9, graph0 .condition 4)] []
    let d := paid0 [(9, graph0 .running 2)] []
    let loop := paid0 [(9, (graph0 .condition 5).setNode 0 { (graph0 .condition 5).node 0 with words := [5, 0, 0x1000000010000, 0x100000001] })] []
    let w : State := { m with launches := [(7, { queue := 1, phase := .waiting, mould := mould0 })] }
    s.turnOf 0 = some (5, 1) ∧ s.pick 1 = some (.node 9 0) ∧ y.tenant = 5 ∧ (s.graph 9).queue = 1 ∧
    ((graph0 .ready 3).node 0).kind = 3 ∧ m.turnOf 0 = some (5, 1) ∧ m.pick 1 = some (.item it) ∧ ({} : State).turnOf 0 = none ∧
    (m.ctxRead 1 0x1000000010000 216).toOption = some mould0 ∧ 1 + ((Mould.clusters mould0).length + 15) / 16 ≤ 2 ∧
    Mould.refusal mould0 m 1 216 = none ∧ Mould.at_ mould0 0x10 8 = 216 ∧ Mould.idle mould0 (m.setCore 0 {}) = true ∧
    Mould.refusal mould0 (m.setCore 0 {}) 1 216 = none ∧ Mould.routes mould0 = [] ∧
    (let p := m.setQueue 1 { m.queue 1 with items := [{ it with dispatched := true }] }
     (p.ctxRead 1 0x1000000010000 216).toOption = some mould0 ∧
     Mould.refusal mould0 (p.countCtx 1 0x1000000010000 216) 1 216 = none) ∧
    (let g := loop.graph 9
     let t := loop.setGraph 9 (g.setNode 0 { g.node 0 with phase := .again })
     (t.turnOf 0).map Prod.snd = some 1 ∧ t.pick 1 = some (.node 9 0) ∧ g.failed = none ∧ g.halted = false) ∧
    (w.launchOf 7).phase = .waiting ∧
    (d.graph 9).halted = false ∧ ((d.graph 9).node 0).phase = .running ∧ ((d.graph 9).node 0).kind = 2 ∧
    (let g := d.graph 9
     let f := (four ((g.node 0).w 1)).foldl Graph.fire (g.setNode 0 (g.node 0).ended)
     f.busy = true ∧ (∀ b ∈ f.nodes, ¬(b.kind = 5 ∧ b.tail = 0 ∧ b.phase = .running)) ∧ bit ((g.node 0).w 0) 4 = false ∧
     (g.node 1).rcv < (g.node 1).ndep ∧ (g.node 2).ndep ≤ (g.node 2).rcv) ∧
    (d.ctxRead 1 0x1000000000100 8).toOption.isSome = true ∧ (d.ctxWrite 1 0x1000000000200 (toBytes 8 5)).toOption.isSome = true ∧
    ((c.graph 9).node 0).kind = 4 ∧ ((c.graph 9).node 0).phase = .condition ∧ (((c.graph 9).node 0).w 2).toNat % 8 = 0 ∧
    (c.ctxRead 1 0x1000000000100 8).toOption = some (List.replicate 8 0) ∧
    ((loop.graph 9).node 0).kind = 5 ∧ ((loop.graph 9).node 0).passes < ((loop.graph 9).node 0).maxIter ∧
    ((loop.ctxRead 1 0x1000000010000 8).toOption.map ofBytes).any (· ≠ 0) = true := by
  repeat' apply And.intro
  all_goals decide +kernel

theorem witness_FailureSteps : let s : State := { regions := [(0, { tag := 1 }), (1, { tag := 1 })], parts := [(1, { regions := 3 })] }
    let z : Quieting := { classes := span 0 8, regions := [0, 1], repair := some 1 }
    let b : State := { s with parts := [(1, { regions := 3, broken := [(15, 1)] })] }
    let q : State := { b with regions := [(0, { tag := 1, quiet := some z }), (1, { tag := 1, quiet := some z })] }
    let c : Core := { pair := .first, ckptDue := true, ch := some 0 }
    let r : Core := { pair := .first, rollback := true, ch := some 0 }
    nextPos 15 1 = some 16 ∧ (s.router 15).broken.contains 1 = false ∧ (s.region (regionOf 15)).tag = 1 ∧
    (s.region (regionOf 16)).tag = 1 ∧ (b.part 1).broken = [(15, 1)] ∧ (b.region (b.part 1).lead).quiet = none ∧
    (q.region (q.part 1).lead).quiet = some z ∧ z.repair = some 1 ∧ q.isQuiet z = true ∧ q.spareFree 15 1 = true ∧
    c.rollback = false ∧ (at0 [] c).ctxState ((at0 [] c).region 0).tag ≠ 1 ∧ (c.reg.pend.any fun e => e.2) = false ∧ c.still = false ∧ c.mismatch = 0 ∧
    c.link = none ∧ c.ckptDue = true ∧ ({ c with ckptDue := false } : Core).ckptDue = false ∧ (at0 [] c).preempted 0 = false ∧
    (let w : State := { s with net := [{ letter 15 16 5 0 with dir := 5 }] }
     ∀ m ∈ w.net, m.dir = 5) ∧ (at0 [] r).settled 0 = true ∧ (r.shadow.reg.pend.any fun e => e.2) = false := by decide +kernel

/-- An operation of core 0 at the head of an engine's queue. -/
def inBay (e : Nat) (op : EngOp) : State := ({} : State).setCluster 0 { inflight := [(e, [(0, op)])] }

theorem witness_OperationSteps : let op : EngOp := { instr := .vadd 2 3 1 2, engs := [2] }
    let h := at0 [] { dispq := [op], leases := [(2, { st := .held })] }
    let j : EngOp := { instr := .zdgo 4, engs := [6] }
    let b : EngOp := { instr := .rdjoin 4, engs := [7] }
    h.acceptable 0 = some (op, []) ∧ h.bayTurn 0 = some 0 ∧
    (inBay 2 op).running 0 2 = some (0, op) ∧ ((inBay 2 op).core 0).stopped = 0 ∧ ((inBay 2 op).runOp 0 op none).how = .complete ∧
    isZdgo op.instr = false ∧ op.vbase % 8 = 0 ∧ 8 ≤ op.vbase ∧ (inBay 6 j).running 0 6 = some (0, j) ∧ isZdgo j.instr = true ∧
    ((inBay 6 j).runOp 0 j none).how = .complete ∧ (inBay 7 b).running 0 7 = some (0, b) ∧
    ((inBay 7 b).runOp 0 b none).how = .faulted cILLEGAL_OP 0 := by decide +kernel

/-- Core 3 and an engine of cluster 0 in a state of power. -/
def engine0 (e : Nat) (x : Engine) (l : Lease) (q : List LeaseReq) : State :=
  (({} : State).setCore 3 { leases := [(e, l)] }).setCluster 0 { engs := [(e, x)], leaseQ := q }

theorem witness_BaySteps : let r : LeaseReq := { core := 3, eng := 7, prio := 2 }
    let w := engine0 7 { power := .waking (some 3) 2 true false } { st := .queued, prio := 2, rd := 63 } [r]
    let g := engine0 0 { power := .held 3 } { st := .grace } []
    let y := engine0 0 { power := .held 3 } { st := .held, yielding := true } []
    ((w.cluster 0).eng 7).power = .waking (some 3) 2 true false ∧ (w.cluster 0).leaseQ = [r] ∧ (w.cluster 0).demand = none ∧
    ((w.cluster 0).engs).length = 1 ∧ (w.cluster 0).units ≤ w.allowance 0 ∧ ((g.cluster 0).eng 0).power = .held 3 ∧ (g.cluster 0).leaseQ = [] ∧
    ((g.core 3).lease 0).st = .grace ∧ ((g.core 3).lease 0).yielding = false ∧ (g.core 3).stopped = 0 ∧ g.opsOf 3 = [] ∧
    ((y.core 3).lease 0).yielding = true ∧ y.opsOn 3 0 = [] ∧ ((engine0 5 { power := .warm } {} []).cluster 0).eng 5 = { power := .warm } := by
  decide +kernel

theorem witness_PowerSteps : let s : State := {}
    let n := at0 [] { oppNew := some 4 }
    let voted (s : State) : State := (s.revote 0).revote 1
    let at_ (mv : Nat) (slew asked acked : Bool) : State := voted { rails := [(0, { mv := mv, slewing := slew, asked := asked, acked := acked })] }
    let most (s : State) : Nat := max (s.region 0).vote (s.region 1).vote
    let p : State := { regions := [(0, { tag := 1 })], queues := [(7, { tag := 1, st := 4 })] }
    (s.core 0).ch = none ∧ (s.core 0).oppNew = none ∧ (s.core 0).pair ≠ .second ∧ s.inService 0 = true ∧
    (n.core 0).oppNew = some 4 ∧ voteOf 1 ≤ (s.rail 0).mv ∧ ((at0 [] { oppNew := some 1 }).core 0).oppNew = some 1 ∧
    ((at_ 850 true false false).rail 0).mv ≤ most (at_ 850 true false false) ∧
    most (at_ 851 false true false) < ((at_ 851 false true false).rail 0).mv ∧
    most (at_ 900 true true true) < ((at_ 900 true true true).rail 0).mv ∧
    ((at_ 900 true true true).rail 0).mv ≤ most (at_ 900 true true true) + 50 ∧
    most (at_ 901 true true true) + 50 < ((at_ 901 true true true).rail 0).mv ∧
    (let g (n : Nat) (w : Bool) : State := { regions := [(0, { vote := n, withdrawn := w })] }
     ((g 850 false).region 0).vote ≤ 850 ∧ ((g 900 true).region 0).withdrawn = true ∧ 850 < ((g 900 false).region 0).vote ∧
     ((g 900 false).region 0).withdrawn = false ∧ (g 900 false).exits 0 = true ∧ (g 850 false).exits 0 = false) ∧
    ((at_ 900 true true true).rail 0).asked = true ∧
    (s.region 0).tag = 0 ∧ (p.region 0).tag ≠ 0 ∧ (p.region 0).withdrawn = false ∧ p.exits 0 = true ∧
    (∀ p ∈ regionClusters 47, ∀ j ∈ span (4 * p) 4, (s.core j).ch = none) ∧
    (∀ tag ∈ Tab.keys s.parts, Tab.get 0 (s.part tag).shares 15 = 0) := by
  decide +kernel

/-- Channel 3 of cluster 0 at a record at 0x800 of core 0's TCM, whose words are given. -/
def chan0 (x : Chan) (r : List Word) : State :=
  ((({} : State).writeMem (tcmHome 0 + 0x800) (bytesOf r)).setCluster 0 { partMask := 1 }).setChan 0 3 { x with st := .active, addr := 0x800 }

theorem witness_CopySteps : let ok : List Word := [1 + 1024 * 2 ^ 32, 0, 0x1000, 0x2000, 0, 0, 0, 2]
    let bad : List Word := [1, 0, 0, 0, 1, 0, 0, 0]
    let s := chan0 {} ok
    let go : Chan := { started := true, record := [1 + 1024 * 2 ^ 32, 0, 0x1000, 0x2000, 0, 0, 0, 0] }
    let no : Chan := { started := true, record := [1 + 1024 * 2 ^ 32, 0, 0x10001, 0x2000, 0, 0, 0, 0] }
    let x := (s.cluster 0).chan 3
    x.st = .active ∧ x.addr.toNat % 64 = 0 ∧ recordSpot x.addr = true ∧ s.badAt (ownHome 0 x.addr) 64 = false ∧ s.preempted 0 = false ∧
    wordsOf (Mem.readBytes s.mem (ownHome 0 x.addr) 64) 8 = ok ∧ recFault ok 0 = none ∧ recCount ok 0 = 2 ∧
    recFault bad 0 = some cBAD_RECORD ∧ bit (nth 0 bad 0) 0 = true ∧ bit (nth 0 (List.replicate 8 (0 : Word)) 0) 0 = false ∧
    (match (chan0 go ok).sector 0 3 1 with
      | some (none, u) => decide ((({ (u.cluster 0).chan 3 with sectors := [(1, .complete)] } : Chan).progress) ≠ 64) &&
        ((u.cluster 0).chan 3).issued.isNone
      | _ => false) = true ∧
    (match (chan0 no ok).sector 0 3 0 with
      | some (some _, _) => true
      | _ => false) = true ∧
    s.ownRecord 0 ok = ok ∧ s.ownRecord 0 bad = bad ∧ s.fabric.joined = false ∧ (((chan0 no ok).cluster 0).chan 3).progress ≠ 64 ∧
    s.eccSoft = [] ∧ go.issued = none ∧ no.failing = none ∧ ((chan0 no ok).cluster 0).chan 3 = ((chan0 no ok).cluster 0).chan 3 ∧
    (((chan0 no ok).cluster 0).chan 3).flying.filter (· ≠ 0) ≠ [] ∧
    ((((chan0 { no with issued := some [0] } ok)).cluster 0).chan 3).flying.filter (· ≠ 0) = [] ∧
    recSkind ok = 0 ∧ recDkind ok = 0 ∧ (s.engineRead 0 0x1200 512).toOption.isSome = true ∧
    (s.engineStore [] 0 0x2200 (List.replicate 512 5)).toOption.isSome = true := by
  repeat' apply And.intro
  all_goals decide +kernel

theorem witness_HeadboxSteps : let s : State := { mapped0 with hbPorts := [(191, { grant := some 1 })] }
    let d := (s.writeMem (hbRing 191 + 0x200) [1]).writeMem (hbRing 191) (bytesOf [0x100, fields [(0, 130), (32, 64)], 5, 0])
    let b : Burst := { src := 0x100, len := 130, next := 1, far := 5 }
    let t : State := { d with hbPorts := [(191, { grant := some 1, burst := some b })] }
    let w := fields [(0, 1), (1, 1), (5, 1), (11, 1), (12, 0x8000), (32, 1), (48, 3)]
    let m : Msg := { at_ := 5, vc := 4, dir := 4, w1 := header1 0 0 7 1, body := List.replicate 64 9 }
    let p : State := { (({} : State).setCluster 5 { hb := [(0, w)] }) with net := [m] }
    d.hbActive 191 = some 1 ∧ (d.hbPort 191).burst = none ∧ d.readMem (hbRing 191 + 0x208) 4 ≠ d.readMem (hbRing 191 + 0x200) 4 ∧
    wordsOf (Mem.readBytes d.mem (hbRing 191) 32) 4 = [0x100, fields [(0, 130), (32, 64)], 5, 0] ∧
    t.hbActive 191 = some 1 ∧ (t.ctxRead 1 (BitVec.ofNat 64 (2 ^ 48 + (b.src.toNat + b.next * b.blk) % 2 ^ 48)) b.blk).toOption.isSome = true ∧
    b.next * b.blk + b.blk < b.len ∧ m.dir ≠ 5 ∧ p.behind 0 m = false ∧ p.pattern 5 m = some w ∧ m.body.length ≤ patStride w ∧
    d.eccSoft = [] ∧ d.badAt (hbRing 191 + 0x200) 12 = false ∧ d.badAt (hbRing 191) 32 = false := by
  repeat' apply And.intro
  all_goals decide +kernel

/-- Core 0 trapped on channel 31 with a kind of frame at a pc. -/
def trapped0 (kind : Nat) (pc : Word) : State :=
  (at0 [] { ch := some 31, trapped := some { frame := [fields [(8, kind)], pc] } }).setHand 0 31 { words := [0, 0x80, 0, 0, 0, 0], life := .running }

theorem witness_ResumeSteps : let d := at0 [] { ch := some 0, due := [{ cause := 5 }] }
    let t : Trapped := { frame := [fields [(8, 4)], 0] }
    let s := trapped0 4 0
    let i := trapped0 0 0x20000000000
    let p := trapped0 2 0x20000000000
    let y : State := { p with parts := [(0, { flagPolicy := true })] }
    let f : Slot := { store := true }
    let fs := at0 [] { trapped := some { frame := [fields [(8, 1)], 0], due := { kind := 1, slot := f } } }
    let op : EngOp := { instr := .vadd 2 3 1 2, engs := [2] }
    let fo := at0 [] { trapped := some { frame := [fields [(8, 3)], 0], due := { kind := 3, cause := 16, unit := 2 } }, stuck := [(2, op)] }
    ((i.core 0).trapped.map Trapped.kind) = some 0 ∧ (p.part (p.region (regionOf (corePos 0))).tag).flagPolicy = false ∧ isCore 0 = true ∧
    (y.part (y.region (regionOf (corePos 0))).tag).flagPolicy = true ∧ p.writeWaits 0 63 = false ∧ (p.setCore 0 { p.core 0 with reg := { pend := [(63, true)] } }).writeWaits 0 63 = true ∧
    (fs.core 0).trapped.any (fun t => t.kind = 1 && t.due.slot.store) = true ∧ (fs.core 0).due = [] ∧
    (fo.core 0).trapped.any (fun t => t.kind = 3 && t.due.cause ≠ cLEASE_LOST) = true ∧ (fo.core 0).stuckOn 2 = some op ∧
    (d.core 0).ends = false ∧ (d.core 0).pair = .alone ∧ (d.core 0).still = false ∧ d.preempted (corePos 0) = false ∧ (d.core 0).due = [{ cause := 5 }] ∧
    (s.core 0).trapped = some t ∧ t.kind ≠ 1 ∧ (s.core 0).due = [] ∧ (s.core 0).stuck = [] ∧ (s.core 0).sbHeld = none ∧
    s.quiet 0 = true ∧ (s.core 0).ch = some 31 ∧ (s.cluster (corePos 0)).traceOn = false ∧ (∀ vc, s.inq (corePos 0) vc = []) ∧
    ((p.core 0).trapped.map Trapped.kind) = some 2 ∧ bit (0x20000000000 : Word) 0 = false ∧
    (p.codeHalf 0 0x20000000000).isSome = true := by
  repeat' apply And.intro
  all_goals first | decide +kernel | exact fun _ => rfl

theorem witness_PreemptionSteps : ((ctx0 1).part 1).regions ≠ 0 ∧ (ctx0 1).launches = [] ∧ (ctx0 1).ctxState 1 = 1 ∧
    (ctx0 1).drainedOf 1 = true ∧ (ctx0 3).ctxState 1 = 3 ∧ (ctx0 3).Inv ∧
    ((ctx0 1).part 1).released = true ∧ (∀ p ∈ (ctx0 3).partClusters 1, (ctx0 3).pointHolds p = false) ∧
    (let b := (ctx0 1).setCore 4 { rollback := true }
     (b.setPart 1 { b.part 1 with released := false }).ctxState 1 = 1 ∧ 1 ∈ b.partClusters 1 ∧ 4 ∈ span (4 * 1) 4 ∧
       (b.core 4).atRest false = false) ∧ ((ctx0 1).setCore 4 { slots := [some {}] }).drainedOf 1 = false ∧
    ((ctx0 1).partClusters 1).filter (fun p => [1].contains p || (ctx0 1).saveTorn 1 p) = [1] ∧
    (let im : Image := { tag := 1, cores := [{}, {}, {}, {}] }
     Tab.get none (({ ctx0 3 with images := [(5, im)] } : State).images.map fun e => (e.1, some e.2)) 5 = some im ∧
       ∀ c ∈ im.cores, c.ch = none ∧ c.trapped = none ∧ c.pair = .alone) := by
  simp only [State.Inv]; decide +kernel

theorem witness_IslandSteps : let s := isle0 0xE3
    let t := s.setRegion 0 { ktime := 0xFFFFFFFFFFFFFFFF }
    let w : State := ({} : State).setICore 383 { wedged := true }
    (s.icore 0).wedged = false ∧ islandCause cUSER_TRAP = true ∧ islandCause cILLEGAL_OP = true ∧ bit (t.icore 0).kstat 1 = true ∧
    (t.kevt 0).testBit 2 = true ∧ (∀ i, i < 2 → (t.kevt 0).testBit i = false) ∧ (w.icore 383).wedged = true := by decide +kernel

theorem witness_DebugSteps : let s := at0 [] { stopped := 1, ch := some 0 }
    let c : State := ({} : State).setCluster 0 { soft := true }
    let b : State := (({} : State).setBar 0 7 { partners := [1, 16] })
    let w : State := ({} : State).setCluster 0 { pendStops := [(2, 0x80), (3, 0)] }
    let h : State := { casts := [{ tag := 5, left := [0] }], regions := [(0, { tag := 5 })] }
    let r : State := (at0 [] { received := some 0, instret := 3 }).setCluster 0 { hardTags := [0] }
    let e : State := (at0 [] { stopped := 2 }).setCluster 0 { covers := [0], clusterStops := [0], soft := true }
    s.hubValue 0 (.regWord 0 2047) = some (0, true) ∧ s.open_ 0 = true ∧ (r.core 0).tripDue = false ∧ (r.core 0).stream = [] ∧ (s.core 0).reg.isPend 2047 = false ∧
    regionOf (corePos 0) = 0 ∧ (s.core 0).trapped = none ∧ (s.core 0).pair = .alone ∧ (s.core 0).ch.isSome = true ∧
    isCluster 0 = true ∧ (c.cluster 0).soft = true ∧ (c.region 0).softDone.contains 0 = false ∧ (∀ j ∈ span 0 4, (c.core j).ch = none) ∧
    b.covered 0 0x80 = [0, 1, 16] ∧ (w.cluster 0).pendStops = [(2, 0x80), (3, 0)] ∧ h.casts = [{ tag := 5, left := [0] }] ∧ (h.region 0).tag = 5 ∧
    (r.core 0).stopped = 0 ∧ (r.core 0).rollback = false ∧ (r.core 0).pair ≠ .second ∧ (r.core 0).recvTrapped = false ∧
    (s.core 0).rollback = false ∧ s.preempted (corePos 0) = false ∧ (r.core 0).blocked ≠ some .copy ∧ (r.core 0).received = some 0 ∧
    3 = ((r.core 0).instret.toNat + 2 ^ 64 - 0) % 2 ^ 64 ∧ (r.cluster 0).hardTags ≠ [] ∧ (e.cluster 0).covers = [0] ∧
    (e.cluster 0).clusterStops = [0] ∧ (e.cluster 0).hardTags = [] ∧ (s.core 0).stepping = false ∧ (s.core 0).stepFrame = false ∧
    ((at0 [] { stopped := 1, stepping := true }).core 0).stepping = true ∧ ((at0 [] { stopped := 1 }).core 0).ch = none := by
  repeat' apply And.intro
  all_goals decide +kernel

/-- The hub reaches a cluster, a router that drops its request, a class that is being quieted; a hard stop that comes over a link
and one where it began; a partner's stop message; a pair whose second core is named. -/
theorem witness_HubMessages : let s : State := {}
    let h (n : Nat) : Cast := { tag := 5, origin := 0, left := [n] }
    let c (n : Nat) : State := { regions := [(0, { tag := 5 })], casts := [h n] }
    let lost : State := s.setRouter (islandPos 0) { broken := span 0 4 }
    let q : State := { regions := [(0, { quiet := some { classes := [1], regions := [0] } })] }
    let m : Msg := { letter 16 0 1 0xFF with w0 := header0 0 0 1 4 8 0, body := toBytes 8 16 }
    let r : State := s.setInq 0 1 [m]
    let pr := (at0 [] { pair := .first, stopped := 1 }).setCore 1 { pair := .second }
    s.hubReaches 0 ∧ s.hubReaches 12287 ∧ (s.path 1 0xFF 0 512 (islandPos (regionOf 0))).2 = none ∧
    (lost.path 1 0xFF 0 512 (islandPos (regionOf 0))).2.isSome = true ∧ lost.quieted 0 1 = false ∧ q.quieted 0 1 = true ∧
    (s.hubValue 0 (.spadWord 0 131071)).isSome = true ∧ s.hubValue 1 (.spadWord 0 0) = none ∧
    (c 0).casts = [h 0] ∧ (h 0).left = [0] ∧ 0 = (h 0).origin ∧ ((c 1).castLink (h 1) 1).isSome = true ∧
    ((c 1).region 0).tag = (h 1).tag ∧ ((c 1).cluster 1).hardTags = [] ∧ r.casts = [] ∧ r.inq 0 1 = m :: [] ∧
    (pr.core 1).pair = .second ∧ (pr.core (1 - 1)).pair = .first ∧ pr.open_ 0 = true ∧ (pr.core 1).reg.isPend 2047 = false := by
  simp only [State.hubReaches]
  repeat' apply And.intro
  all_goals decide +kernel

theorem witness_FabricSteps : let f : Frame := { lseq := 4095, vc := 2, replays := 15 }
    let g : Frame := { f with replays := 16 }
    let m : Msg := request 0 0
    let s : State := { links := [(0, { up := true, toward := [7] }), (94, { up := true, toward := [6] }),
                                 (95, { up := true, rx := 4095, unacked := [f], toward := [7] })],
                       fabric := { out := [{ msg := m, port := 0, wafer := 7, lost := true }], pairings := [(3, 4, 1)], grants := [(1, 0x1000, 64)],
                                   high := [(3, 5)], done := [(3, [5])] } }
    let l : Link := Tab.get {} s.links 95
    flagPlace 5 6 = .above ∧ flagPlace 5 (2 ^ 31 + 4) = .above ∧ flagPlace 5 5 = .window ∧
    flagPlace 5 (2 ^ 32 - 65530) = .window ∧ flagPlace 5 (2 ^ 32 - 65531) = .older ∧ flagPlace 5 (2 ^ 31 + 5) = .older ∧
    (Tab.get [] s.fabric.done 3).contains 5 = true ∧ (nth {} s.fabric.out 0).lost = true ∧
    (let r := nth {} s.fabric.out 0
     s.freeLink (some r.port) r.wafer r.msg = some 95 ∧ s.freeLink none 7 m = some 0 ∧ s.freeLink none 5 m = none) ∧
    l.up = true ∧ (0 = (l.rx + 1) % 4096) ∧ (∀ e ∈ l.flits, e.1 ≠ 3) ∧ (∀ e ∈ l.unacked, e.replays < 16) ∧
    (∃ e ∈ [g], 16 ≤ e.replays) ∧ s.fabric.pairings.find? (fun p => p.1 = 3 && p.2.1 = 4) = some (3, 4, 1) ∧
    (1, 0x1000, 64) ∈ s.fabric.grants ∧ l.flits = [] ∧ s.fabric.replies = [] ∧ l.unacked.length < 2048 ∧
    (s.fabric.pairings.find? fun p => p.1 = 3 && p.2.1 = 5) = none ∧ Tab.get [] s.bridges 1 = [] ∧
    (∀ g ∈ ({ s.fabric with grants := [] } : Fabric).grants, g.1 ≠ 1) ∧ 0x1000 + (List.replicate 64 (0 : Byte)).length ≤ 0x18000000000 ∧
    (let r : Msg := { request 7 0x1000 with port := some 95 }
     let t : State := { s with bridges := [(15, [r])] }
     Tab.get [] t.bridges 15 = [r] ∧ r.port = some 95 ∧ r.kind = 7 ∧ (Tab.get {} t.links 95 : Link).up = true) := by
  repeat' apply And.intro
  all_goals decide +kernel

/-- Numbers of flags at both ends of each range about H (15: R330). -/
theorem witness_FlagWindow : (let far (high q : Nat) : Nat := (q + 2 ^ 32 - high) % 2 ^ 32
    let back (high q : Nat) : Nat := (high + 2 ^ 32 - q) % 2 ^ 32
    far 5 6 = 1 ∧ far 5 (2 ^ 31 + 4) = 2 ^ 31 - 1 ∧ back 5 5 = 0 ∧ back 5 (2 ^ 32 - 65530) = 65535 ∧
    back 5 (2 ^ 32 - 65531) = 65536 ∧ back 5 (2 ^ 31 + 5) = 2 ^ 31) := by decide +kernel

/-- A firmware slot at version 5 with a body of 8 bytes, signed on P-521 by a key made for this test (computed apart from the
model; the key's hash is `root0`). -/
def slot0 : List Byte :=
  toBytes 56 0xDF1BC117AD4121DD5846A3833AECFBC8B102CBF812674578018CAF11781AB7D8000000000000000800000005000000014D52494638345756 ++
  toBytes 56 0xAA6A59405C393BF9B7349DC3D1056FC838810FAAD0970104B2346E6013C2918D1F7CF64966FF20A17EEEA6DA4C746A88966A48BC4860C80D ++
  toBytes 56 0xB9890E83CA4E8EB44CB392F001AD90237E3E59DE32489CAD88F32E52698C5CF7CA557DAA3B894891F1277F4F657DEC18BCB8ED919259B5AE ++
  toBytes 56 0x5859E1EBD9A324A68516A832A21448289D22C73BE8836244E39ABC8D56E5B00CE56F316926DF13AE7C03179591C34B625882C25ACF ++
  toBytes 56 0x181F4FDF03D725E90B57EAD81EA51474B736219E95DDD6F7FB58C20673FC708C54F692C356E0A0D0F24185DEAC17368917D16BBED4EF6800 ++
  toBytes 56 0xFC90B257DF7C08DF396FCC119371652D5EF813F76886C3F110CD50980E7906555584366D638807D5FE2BFA407100E90D36F07068F0389896 ++
  toBytes 28 0x57575757575757573D101CA79008AFB769F7122147D3ABBEB665628A

def root0 : BitVec 512 :=
  0xD113CA56777958E5123329F04D90F799AA07992F63848AC217020B4594050C6CCFCC3183ED1E135EEA6A8D9225C39A758629D2A6DF9BB90CA8B7BAAE3B99A75

/-- FIPS 180-4's example of SHA-512, "abc". -/
theorem test_sha512 : sha512 [97, 98, 99] = (toBytes 64
    0xDDAF35A193617ABACC417349AE20413112E6FA4E89A97EA20A9EEEE64B55D39A2192992A274FC1A836BA3C23A3FEEBBD454D4423643CE80E2A9AC94FA54CA49F).reverse := by
  decide +kernel

/-- Slot A is accepted, and both are refused where the root hash is another's. -/
theorem witness_Board : let b : Board := { slotA := slot0, rootHash := root0, rollback := 5 }
    b.accepts b.slotA = true ∧ ({ slotA := slot0, slotB := slot0 } : Board).accepts slot0 = false ∧
    ({ b with rollback := 6 } : Board).accepts slot0 = false ∧ b.badRails = [] ∧ b.badStacks = [] ∧ b.badLinks = [] ∧
    b.badPorts = [] := by
  repeat' apply And.intro
  all_goals decide +kernel

theorem witness_BoardSlot : let b : Board := { slotA := slot0, rootHash := root0, rollback := 5 }
    b.slot = some slot0 := if_pos witness_Board.1

/-- Port 3 trained and port 0 not; a queue that is open, and none; an aperture; sizes and kinds that are refused. -/
theorem witness_HostSteps : let s : State := { queues := [(0x2FFF, { st := 1 })], hostPorts := [(3, { trained := true, apertures := [(1, (1, 0x1000000000000))] })] }
    (s.hostPort 3).trained = true ∧ (s.queue 0x2FFF).st ≠ 0 ∧ s.aperture 3 (2 ^ 27 + 5) = some (1, 0x1000000000000) ∧
    (s.hostPort 0).trained = false ∧ ({ s with queues := [] } : State).queues = [] ∧
    4096 < 4097 ∧ 512 < (List.replicate 513 (0 : Byte)).length ∧ (List.replicate 512 (0 : Byte)).length ≤ 512 ∧
    HostTarget.ats ∈ [HostTarget.atomicOp, .peerToPeer, .ats, .pri, .other] ∧ 1 ∉ [0, 2, 4] := by
  repeat' apply And.intro
  all_goals decide +kernel

end Sys2Proof.Tests
end

/-! SUPPORT. The end of an activation (01: R19; 07: R135, R136), and the statement O26. -/

namespace Sys2Proof.Machine

/-! ### Numbers, tables and lists -/

theorem mem_span {a lo n : Nat} : a ∈ span lo n ↔ lo ≤ a ∧ a < lo + n := by
  induction n generalizing lo with
  | zero => simp [span]
  | succ n ih => simp only [span, List.mem_cons, ih]; omega

/-- A table mapped entry by entry, where the default stays the default. -/
theorem Tab.get_map {α : Type} {d : α} {f : α → α} (hd : f d = d) (t : Tab α) (k : Nat) :
    Tab.get d (t.map fun e => (e.1, f e.2)) k = f (Tab.get d t k) := by
  induction t with
  | nil => exact hd.symm
  | cons e t ih =>
    simp only [List.map_cons, Tab.get, ih]
    split
    · rfl
    · split
      · exact hd.symm
      · rfl

/-- What every step of a fold leaves, the fold leaves. -/
theorem State.foldl_keeps {α β : Type} {f : State → α → State} {p : State → β} (hf : ∀ s x, p (f s x) = p s)
    (l : List α) (s : State) : p (l.foldl f s) = p s :=
  List.foldlRecOn l f (motive := fun t => p t = p s) rfl fun t ht x _ => (hf t x).trans ht

/-! ### The words of a buffer marked empty (01: R19) -/

/-- A word of a buffer of core `k` (01: R15). -/
def bufHolds (k : Nat) (d : Word) (w : Nat) : Prop := bufHome k d / 8 ≤ w ∧ w < bufHome k d / 8 + bufCap d / 8

theorem State.memIsEmpty_word (s : State) (w : Nat) : s.memIsEmpty (8 * w) = decide (w ∈ s.memEmpty) := by
  rw [State.memIsEmpty, Nat.mul_div_cancel_left w (by decide)]
  exact List.contains_eq_mem w s.memEmpty

theorem State.mem_emptyBuf {s : State} {k w : Nat} {d : Word} :
    w ∈ (s.emptyBuf k d).memEmpty ↔ bufHolds k d w ∨ w ∈ s.memEmpty := by
  simp only [State.emptyBuf, List.mem_append, List.mem_filter, mem_span, bufHolds, Bool.not_eq_true', Bool.and_eq_false_iff,
    decide_eq_false_iff_not]
  by_cases h : w ∈ s.memEmpty
  · simp only [h, true_and, or_true, iff_true]; omega
  · simp [h]

/-- Emptying buffers changes the empty bits alone, and those of their words. -/
theorem State.emptyBufs_spec (k : Nat) (h : Handler) (l : List Nat) (s : State) :
    ∃ es, l.foldl (fun s b => s.emptyBuf k (h.buf b)) s = { s with memEmpty := es } ∧
      ∀ w, w ∈ es ↔ (∃ b ∈ l, bufHolds k (h.buf b) w) ∨ w ∈ s.memEmpty := by
  induction l generalizing s with
  | nil => exact ⟨s.memEmpty, rfl, by simp⟩
  | cons b l ih =>
    obtain ⟨es, he, hw⟩ := ih (s.emptyBuf k (h.buf b))
    refine ⟨es, he, fun w => ?_⟩
    rw [hw, State.mem_emptyBuf, List.exists_mem_cons_iff, or_left_comm, or_assoc]

/-! ### A handler entry replaced (01: R15) -/

@[simp] theorem State.core_setHand_same (s : State) (k ch : Nat) (h : Handler) :
    (s.setHand k ch h).core k = { s.core k with hands := Tab.put (s.core k).hands ch h } := State.core_setCore_same _ _ _

@[simp] theorem Core.hand_put_same (c : Core) (ch : Nat) (h : Handler) :
    ({ c with hands := Tab.put c.hands ch h } : Core).hand ch = h := Tab.get_put_same _ _ _ _

/-! ### Bytes that count again (12: R234) -/

@[simp] theorem State.core_uncount (s : State) (lo n k : Nat) : (s.uncount lo n).core k = (s.core k).uncount lo n :=
  Tab.get_map rfl _ _

@[simp] theorem State.cluster_uncount (s : State) (lo n p : Nat) :
    (s.uncount lo n).cluster p = (s.cluster p).uncount lo n := Tab.get_map rfl _ _

/-- What counting again leaves of a core stays. -/
theorem State.uncountBufs_core {α : Type} {f : Core → α} (hf : ∀ lo n c, f (Core.uncount lo n c) = f c) (s : State)
    (k : Nat) (h : Handler) (which : Nat → Bool) (j : Nat) : f ((s.uncountBufs k h which).core j) = f (s.core j) :=
  State.foldl_keeps (p := fun s => f (s.core j)) (fun s b => by simp [hf]) _ s

theorem State.uncountBufs_inq (s : State) (k : Nat) (h : Handler) (which : Nat → Bool) (p vc : Nat) :
    (s.uncountBufs k h which).inq p vc = s.inq p vc :=
  State.foldl_keeps (p := fun s => s.inq p vc) (fun s b => by simp [State.inq, Cluster.uncount]) _ s

theorem State.uncountBufs_mem (s : State) (k : Nat) (h : Handler) (which : Nat → Bool) :
    (s.uncountBufs k h which).mem = s.mem :=
  State.foldl_keeps (p := State.mem) (fun s _ => (rfl : (s.uncount _ _).mem = s.mem)) _ s

theorem State.uncountBufs_memEmpty (s : State) (k : Nat) (h : Handler) (which : Nat → Bool) :
    (s.uncountBufs k h which).memEmpty = s.memEmpty :=
  State.foldl_keeps (p := State.memEmpty) (fun s _ => (rfl : (s.uncount _ _).memEmpty = s.memEmpty)) _ s

/-! ### What an instruction of a core outside a pair goes past -/

theorem State.mirror_alone {s : State} {k : Nat} (h : (s.core k).pair = .alone) : s.mirror k = s := by
  simp [State.mirror, h]

theorem State.trace_off {s : State} {k : Nat} (h : (s.cluster (corePos k)).traceOn = false) (kind : Nat) (w : Option Word) :
    s.trace k kind w = s := by
  simp [State.trace, h]

theorem State.depositHeld_nil {s : State} {k vc : Nat} (h : s.inq (corePos k) vc = []) (ch n : Nat) :
    s.depositHeld k ch vc n = s := by
  cases n <;> simp [State.depositHeld, h]

theorem enabledFlag_none {fcsr : Word} (h : ∀ i, i < 6 → ¬(bit fcsr (8 + i) = true ∧ bit fcsr (16 + i) = true)) :
    enabledFlag fcsr = none := by
  refine List.find?_eq_none.2 fun i hi => ?_
  simpa using h i (by have := mem_span.1 hi; omega)

/-- On a quiet tile core without an enabled flag, a form of DONE retires and ends as it says (07: R135, R136). -/
theorem State.doneWith_quiet {s : State} {k : Nat} (hc : s.cur = .tile k) (hq : s.quiet k = true)
    (hf : ∀ i, i < 6 → ¬(bit (s.core k).fcsr (8 + i) = true ∧ bit (s.core k).fcsr (16 + i) = true)) (len : Nat)
    (go : Nat → State → State) :
    s.doneWith len go = go k (s.setCore k ((s.core k).retired ((s.core k).pc + BitVec.ofNat 64 len))) := by
  have hn : enabledFlag s.fcsr = none := by simpa [State.fcsr, hc] using enabledFlag_none hf
  simp [State.doneWith, State.onTile, hc, hq, State.flagTrap, hn, State.retire_tile hc]

/-! ### The end of an activation (01: R19; 07: R135) -/

/-- With no message waiting, the entry that ends is FILLING and clear, and its buffers' words are empty. -/
theorem State.endEntry_noHeld {s : State} {k : Nat} (hi : ∀ vc, s.inq (corePos k) vc = []) (ch : Nat) :
    ∃ es, s.endEntry k ch = (({ s with memEmpty := es } : State).setHand k ch
        { ((s.core k).hand ch).clear with life := .filling }).uncountBufs k ((s.core k).hand ch) (fun _ => true) ∧
      ∀ w, w ∈ es ↔
        (∃ b, b < ((s.core k).hand ch).nbuf ∧ bufHolds k (((s.core k).hand ch).buf b) w) ∨ w ∈ s.memEmpty := by
  obtain ⟨es, he, hw⟩ := State.emptyBufs_spec k ((s.core k).hand ch) (span 0 ((s.core k).hand ch).nbuf) s
  refine ⟨es, ?_, fun w => by simp [hw, mem_span]⟩
  simp only [State.endEntry, he, List.foldl_cons, List.foldl_nil]
  generalize hu : State.uncountBufs _ k _ _ = u
  have hv : ∀ vc, u.inq (corePos k) vc = [] := fun vc => by
    rw [← hu, State.uncountBufs_inq]; exact hi vc
  simp [State.depositHeld_nil (hv _)]


/-- The end of the activation of a core outside a pair, with no message waiting: the entry is FILLING and clear, the words
of its buffers are empty, and what the core ran is left (01: R19; 07: R135). -/
theorem State.endActivation_noHeld {s : State} {k ch : Nat} (hch : (s.core k).ch = some ch) (hp : (s.core k).pair = .alone)
    (ht : (s.cluster (corePos k)).traceOn = false) (hi : ∀ vc, s.inq (corePos k) vc = []) (kind : Nat) :
    let h := (s.core k).hand ch
    let u := s.endActivation k kind
    (u.core k).ch = none ∧ (u.core k).hand ch = { h.clear with life := .filling } ∧
      (u.core k).instret = (s.core k).instret ∧ (u.core k).pc = (s.core k).pc ∧ u.mem = s.mem ∧
      ∀ w, w ∈ u.memEmpty ↔ (∃ b, b < h.nbuf ∧ bufHolds k (h.buf b) w) ∨ w ∈ s.memEmpty := by
  obtain ⟨es, he, hw⟩ := State.endEntry_noHeld hi ch
  simp only [State.endActivation, hch, State.trace_off ht, he]
  generalize hv : State.setHand _ k ch _ = v
  have hcore := fun {α : Type} (f : Core → α) hf =>
    State.uncountBufs_core (f := f) hf v k ((s.core k).hand ch) (fun _ => true) k
  have hk : v.core k = { s.core k with
      hands := Tab.put (s.core k).hands ch { ((s.core k).hand ch).clear with life := .filling } } := by
    rw [← hv]; exact State.core_setHand_same _ _ _ _
  have hpair := hcore Core.pair fun _ _ _ => rfl
  rw [State.mirror_alone (by simpa [Core.leave, hk, hp] using hpair)]
  simp only [State.core_setCore_same, Core.leave]
  refine ⟨trivial, ?_, ?_, ?_, ?_, ?_⟩
  · exact (hcore (fun c => c.hand ch) fun _ _ _ => rfl).trans (by rw [hk]; exact Core.hand_put_same _ _ _)
  · exact (hcore Core.instret fun _ _ _ => rfl).trans (by rw [hk])
  · exact (hcore Core.pc fun _ _ _ => rfl).trans (by rw [hk])
  · rw [State.setCore_mem, State.uncountBufs_mem, ← hv]; rfl
  · rw [State.setCore_memEmpty, State.uncountBufs_memEmpty, ← hv]; exact hw

/-- DONE and DONE.Q on a quiet core outside a pair, with no message waiting (07: R135). -/
theorem State.done_quiet {s : State} {k ch : Nat} (hc : s.cur = .tile k) (hch : (s.core k).ch = some ch)
    (hq : s.quiet k = true) (hp : (s.core k).pair = .alone)
    (hf : ∀ i, i < 6 → ¬(bit (s.core k).fcsr (8 + i) = true ∧ bit (s.core k).fcsr (16 + i) = true))
    (ht : (s.cluster (corePos k)).traceOn = false) (hi : ∀ vc, s.inq (corePos k) vc = []) (len : Nat) :
    let h := (s.core k).hand ch
    let u := s.doneWith len fun k s => s.endActivation k 1
    (u.core k).ch = none ∧ (u.core k).hand ch = { h.clear with life := .filling } ∧
      (u.core k).instret = (s.core k).instret + 1 ∧ (u.core k).pc = (s.core k).pc + BitVec.ofNat 64 len ∧ u.mem = s.mem ∧
      ∀ w, w ∈ u.memEmpty ↔ (∃ b, b < h.nbuf ∧ bufHolds k (h.buf b) w) ∨ w ∈ s.memEmpty := by
  rw [State.doneWith_quiet hc hq hf]
  generalize hr : s.setCore k _ = r
  have hk : r.core k = (s.core k).retired ((s.core k).pc + BitVec.ofNat 64 len) := by rw [← hr, State.core_setCore_same]
  have he := State.endActivation_noHeld (s := r) (k := k) (ch := ch) (by rw [hk]; exact hch) (by rw [hk]; exact hp)
    (by rw [← hr]; exact ht) (fun vc => by rw [← hr]; exact hi vc) 1
  rw [hk] at he
  have hm : r.mem = s.mem := by rw [← hr]; rfl
  have hme : r.memEmpty = s.memEmpty := by rw [← hr]; rfl
  rw [hm, hme] at he
  exact he

/-- DONE.REPOST on a quiet core outside a pair: the entry is READY, its arrival state as it was (07: R136). -/
theorem execDoneRepost_quiet {s : State} {k ch : Nat} (hc : s.cur = .tile k) (hch : (s.core k).ch = some ch)
    (hq : s.quiet k = true) (hp : (s.core k).pair = .alone)
    (hf : ∀ i, i < 6 → ¬(bit (s.core k).fcsr (8 + i) = true ∧ bit (s.core k).fcsr (16 + i) = true))
    (ht : (s.cluster (corePos k)).traceOn = false) :
    let c := (s.core k).retired ((s.core k).pc + 4)
    execDoneRepost s = .next (s.setCore k { c with
      hands := Tab.put c.hands ch { c.hand ch with life := .ready }, ch := none, came := none, barWait := none }) := by
  rw [execDoneRepost, State.doneWith_quiet hc hq hf]
  have hch' : ((s.core k).retired ((s.core k).pc + BitVec.ofNat 64 4)).ch = some ch := hch
  simp only [State.core_setCore_same, hch', State.trace_off (s := s.setCore k _) ht, State.setCore_setCore]
  rw [State.mirror_alone (by rw [State.core_setCore_same]; exact hp)]
  rfl

end Sys2Proof.Machine

namespace Sys2Proof.Proofs
open Sys2Proof Sys2Proof.Machine

/-- Settles O26: the entry that ends is cleared, and the words of its buffers alone become empty; one that is reposted keeps
its arrival state. -/
theorem doneResults : Obligations.DoneResults := by
  unfold Obligations.DoneResults
  intro s k ch hc hch hq hp hf ht
  refine ⟨fun p hmem hi => ?_, _, execDoneRepost_quiet hc hch hq hp hf ht, ?_⟩
  · obtain ⟨hidle, hhand, hret, hpc, hkept, hempty⟩ := State.done_quiet hc hch hq hp hf ht hi p.2
    refine ⟨s.doneWith p.2 fun k s => s.endActivation k 1, ?_, hidle, congrArg Handler.life hhand,
      congrArg Handler.counts hhand, congrArg Handler.chunks hhand, congrArg Handler.fill hhand, fun w => ⟨?_, ?_⟩,
      hret, hpc, hkept⟩
    · simp only [List.mem_cons, List.not_mem_nil, or_false] at hmem
      rcases hmem with rfl | rfl <;> rfl
    · rintro ⟨b, hb, hw⟩
      rw [State.memIsEmpty_word, decide_eq_true_eq, hempty]
      exact .inl ⟨b, hb, hw⟩
    · intro hw
      rw [State.memIsEmpty_word, State.memIsEmpty_word, decide_eq_decide, hempty]
      exact or_iff_right fun ⟨b, hb, h⟩ => hw b hb h
  · simp only [State.core_setCore_same, Core.hand, Tab.get_put_same]
    exact ⟨trivial, trivial, rfl, rfl, rfl, rfl, rfl, rfl, rfl⟩

end Sys2Proof.Proofs

/-! SUPPORT. The start of an activation and the end of a launch's entries (02: R36; 07: R131), and the statement O45. -/

namespace Sys2Proof.Machine

/-! ### Which entry starts (07: R131) -/

/-- A fold of maxima is at least its start and every value. -/
theorem le_foldl_max (f : Nat → Nat) (l : List Nat) (a : Nat) :
    a ≤ l.foldl (fun a x => max a (f x)) a ∧ ∀ x ∈ l, f x ≤ l.foldl (fun a x => max a (f x)) a := by
  induction l generalizing a with
  | nil => simp
  | cons y l ih =>
    obtain ⟨ha, hl⟩ := ih (max a (f y))
    refine ⟨(le_max_left _ _).trans ha, fun x hx => ?_⟩
    rcases List.mem_cons.1 hx with rfl | hx
    · exact (le_max_right _ _).trans ha
    · exact hl x hx

/-- The channel selected may run, and none that may run has a higher priority. -/
theorem Core.select_spec {c : Core} {ch : Nat} (h : c.select = some ch) :
    ch < 32 ∧ c.mayRun ch = true ∧ ∀ j, j < 32 → c.mayRun j = true → (c.hand j).prio ≤ (c.hand ch).prio := by
  have hfound := List.find?_some h
  simp only [Bool.and_eq_true, decide_eq_true_eq] at hfound
  obtain ⟨hrun, htop⟩ := hfound
  obtain ⟨i, -, hi⟩ := List.mem_map.1 (List.mem_of_find?_eq_some h)
  refine ⟨hi ▸ Nat.mod_lt _ (by decide), hrun, fun j hj hr => htop ▸ ?_⟩
  exact (le_foldl_max (fun ch => (c.hand ch).prio) _ 0).2 j (List.mem_filter.2 ⟨mem_span.2 (by omega), hr⟩)

theorem State.checkpoint_alone {s : State} {k : Nat} (h : (s.core k).pair = .alone) : s.checkpoint k = s := by
  simp [State.checkpoint, h]

/-- A core set outside a pair, without tracing, has no checkpoint, record or partner to write. -/
theorem State.checkpoint_trace_mirror_alone {s : State} {k : Nat} {d : Core} (hp : d.pair = .alone)
    (ht : (s.cluster (corePos k)).traceOn = false) (kind : Nat) (w : Option Word) :
    (((s.setCore k d).checkpoint k).trace k kind w).mirror k = s.setCore k d := by
  have ha : ((s.setCore k d).core k).pair = .alone := by rw [State.core_setCore_same]; exact hp
  rw [State.checkpoint_alone ha, State.trace_off (s := s.setCore k d) ht, State.mirror_alone ha]

/-- A core outside a pair, without tracing, starts by the writes of R20 alone. -/
theorem State.startOn_alone {s : State} {k : Nat} (hp : (s.core k).pair = .alone)
    (ht : (s.cluster (corePos k)).traceOn = false) (ch : Nat) :
    let c := s.core k
    let h := c.hand ch
    s.startOn k ch = s.setCore k { c with
      hands := Tab.put c.hands ch { h with life := .running }, rr := setNth c.rr h.prio ((ch + 1) % 32), ch := some ch,
      pc := nth 0 h.words 0, came := none, blocked := none, barWait := none,
      reg := (((c.reg.put 1 h.arrival).put 2 h.buf0).copySet 1 0).copySet 2 0 } := by
  intro c h
  refine State.checkpoint_trace_mirror_alone ?_ ht 0 none
  exact hp

/-- An idle core that may start runs the entry selected (07: R131). -/
theorem execActivationStart_idle {s : State} {k ch : Nat} (hp : (s.core k).pair = .alone) (hc : (s.core k).ch = none)
    (ht : (s.core k).trapped = none) (ho : (s.core k).oppNew = none) (hm : s.mayStart (corePos k) = true)
    (hs : (s.core k).select = some ch) : execActivationStart k s = .next (s.startOn k ch) := by
  simp [execActivationStart, State.pointMoves, hp, hc, ht, ho, hm, hs]

/-! ### Entries of a masked launch (02: R36) -/

/-- A core that has no lease has none to give back (07: R159). -/
theorem State.freeEngines_none {s : State} {k : Nat} (h : ∀ e, ((s.core k).lease e).st = .none) (l : List Nat) :
    l.foldl (fun s e => s.freeEngine k e) s = s := by
  induction l with
  | nil => rfl
  | cons e l ih => rw [List.foldl_cons, State.freeEngine, h e]; exact ih

/-- A core without an activation loses the entries of masked launches. -/
theorem execEntryInvalidate_idle {s : State} {k : Nat} (hc : (s.core k).ch = none) (ht : (s.core k).trapped = none)
    (hp : s.preempted (corePos k) = false) : execEntryInvalidate k s = .next ((s.invalidateOn k).mirror k) := by
  simp [execEntryInvalidate, hc, ht, hp]

/-- The only launch, masked and reported, with its only entry on a core: the entry is invalid and the launch is gone. -/
theorem State.invalidateOn_last {s : State} {k ch key : Nat} {l : Launch} (hl : s.launches = [(key, l)])
    (hph : l.phase = .masked) (hr : l.reported = true) (hcs : l.cores = [k]) (hes : l.entries = [(k, ch)])
    (hv : ((s.core k).hand ch).valid = true) (hk : ((s.core k).hand ch).launch = key)
    (he : ∀ e, ((s.core k).lease e).st = .none) :
    s.invalidateOn k = State.setHand { s with launches := [] } k ch {} := by
  have hfree := State.freeEngines_none (s := s.setHand k ch {}) (k := k) (fun e => by simpa [Core.lease] using he e)
  have hdrop : Tab.drop (s.setHand k ch {}).launches key = [] := by simp [State.setHand, hl, Tab.drop]
  have hmask : (s.launches.filter fun e => e.2.phase == .masked && e.2.cores.contains k) = [(key, l)] := by
    simp [hl, hph, hcs]
  simp only [State.invalidateOn, hmask, List.foldl_cons, List.foldl_nil, hes, hcs, hr, hv, hk, State.invalidate, if_true,
    List.filter_cons, List.filter_nil, decide_true, Bool.and_self, hfree, hdrop, ne_eq, not_true_eq_false, decide_false,
    Bool.false_eq_true, if_false, List.isEmpty_nil]
  rfl

end Sys2Proof.Machine

namespace Sys2Proof.Proofs
open Sys2Proof Sys2Proof.Machine

/-- Settles O45: the scheduler's choice is the eligible entry of highest priority, and starting it makes the writes of R20
alone; the one entry of a masked launch becomes invalid. -/
theorem activationSteps : Obligations.ActivationSteps := by
  unfold Obligations.ActivationSteps
  intro s k ch key l c h hp hc ht
  refine ⟨fun ho hm htr hs => ?_, fun hpre hl hph hr hcs hes hv hk he => ?_⟩
  · obtain ⟨hlt, hrun, hmax⟩ := Core.select_spec hs
    exact ⟨hlt, hrun, hmax, (execActivationStart_idle hp hc ht ho hm hs).trans
      (congrArg _ (State.startOn_alone hp htr ch))⟩
  · have hi := State.invalidateOn_last hl hph hr hcs hes hv hk he
    have hm : (State.setHand { s with launches := [] } k ch {}).mirror k = State.setHand { s with launches := [] } k ch {} :=
      State.mirror_alone (by rw [State.core_setHand_same]; exact hp)
    rw [← hi] at hm ⊢
    exact execEntryInvalidate_idle hc ht hpre |>.trans (congrArg _ hm)

end Sys2Proof.Proofs

/-! SUPPORT. The life of a launch (01: R28; 02: R36; 03: R62), and the statement O46. -/

namespace Sys2Proof.Machine

/-! ### What a completion record leaves of launches and counts (02: R34, R37)

Completion records, position blocks and the counting of memory errors on the way leave every launch, the next launch id of
every region and the counts of completed items as they are. -/

/-- The launches and the next launch ids of two states agree. -/
structure State.SameLaunches (s t : State) : Prop where
  launches : t.launches = s.launches
  next : ∀ r, (t.region r).nextLaunch = (s.region r).nextLaunch

/-- The same, and every queue has reported as many items. -/
structure State.SameCounts (s t : State) : Prop extends State.SameLaunches s t where
  counted : ∀ q, (t.queue q).nCompleted = (s.queue q).nCompleted

namespace State.SameLaunches

theorem trans {s t u : State} (h : s.SameLaunches t) (g : t.SameLaunches u) : s.SameLaunches u :=
  ⟨g.launches.trans h.launches, fun r => (g.next r).trans (h.next r)⟩

theorem launchOf {s t : State} (h : s.SameLaunches t) (key : Nat) : t.launchOf key = s.launchOf key := by
  rw [State.launchOf, State.launchOf, h.launches]

end State.SameLaunches

namespace State.SameCounts

theorem refl (s : State) : s.SameCounts s := ⟨⟨rfl, fun _ => rfl⟩, fun _ => rfl⟩

theorem trans {s t u : State} (h : s.SameCounts t) (g : t.SameCounts u) : s.SameCounts u :=
  ⟨h.toSameLaunches.trans g.toSameLaunches, fun q => (g.counted q).trans (h.counted q)⟩

theorem foldl {α : Type} {f : State → α → State} (hf : ∀ (s : State) x, s.SameCounts (f s x)) (l : List α) (s : State) :
    s.SameCounts (l.foldl f s) :=
  List.foldlRecOn l f (motive := s.SameCounts) (refl s) fun t ht x _ => ht.trans (hf t x)

theorem countEcc (s : State) (r a n : Nat) : s.SameCounts (s.countEcc r a n) := by
  simp only [State.countEcc]
  split
  · exact refl s
  · refine ⟨⟨rfl, fun j => ?_⟩, fun _ => rfl⟩
    generalize eccOwner r a = i
    by_cases hj : j = i
    · subst hj; rw [State.region_setRegion_same]
    · rw [State.region_setRegion_ne _ _ hj]

theorem countRoot (s : State) (r root va : Nat) : s.SameCounts (s.countRoot r root va) := by
  unfold State.countRoot
  split
  · exact refl s
  · exact foldl (fun s a => countEcc s r a 8) _ s

theorem lay (hs : List (Nat × Nat)) : ∀ (s : State) (bs : List Byte), s.SameCounts (s.lay hs bs) := by
  induction hs with
  | nil => exact fun s _ => refl s
  | cons x hs ih =>
    intro s bs
    have hx : s.SameCounts (if awayHome x.1 then s.storeAway x.1 (takeN x.2 bs)
        else (s.clean x.1 x.2).writeMem x.1 (takeN x.2 bs)) := by
      split <;> exact ⟨⟨rfl, fun _ => rfl⟩, fun _ => rfl⟩
    exact hx.trans (ih _ _)

theorem ringWrite (s : State) (tag : Nat) (a : Word) (bs : List Byte) : s.SameCounts (s.ringWrite tag a bs) := by
  unfold State.ringWrite State.ctxWrite
  cases s.ctxHomes tag .write (pieces a.toNat bs.length (bs.length / 4096 + 2)) with
  | error x => exact refl s
  | ok hs => exact (foldl (fun s _ => countRoot s _ _ _) _ s).trans (lay hs _ bs)

end State.SameCounts

/-! ### Queues (02: R30) -/

@[simp] theorem State.setQueue_launches (s : State) (q : Nat) (x : Queue) : (s.setQueue q x).launches = s.launches := by
  unfold State.setQueue
  cases x.place with
  | none => rfl
  | some o => exact State.writeMem_launches _ _ _

@[simp] theorem State.setQueue_region (s : State) (q r : Nat) (x : Queue) : (s.setQueue q x).region r = s.region r := by
  unfold State.setQueue
  cases x.place with
  | none => rfl
  | some o => exact State.region_writeMem _ _ _ _

theorem State.queue_setQueue (s : State) (q j : Nat) (x : Queue) :
    (s.setQueue q x).queue j = if j = q then x else s.queue j := by
  have h : (s.setQueue q x).queues = Tab.put s.queues q x := by
    unfold State.setQueue
    cases x.place with
    | none => rfl
    | some o => exact State.writeMem_queues _ _ _
  rw [State.queue, h, Tab.get_put]; rfl

theorem State.setQueue_sameLaunches (s : State) (q : Nat) (x : Queue) : s.SameLaunches (s.setQueue q x) :=
  ⟨s.setQueue_launches q x, fun r => by rw [State.setQueue_region]⟩

/-- A queue replaced by one of the same count. -/
theorem State.SameCounts.setQueue {s : State} {q : Nat} {x : Queue} (h : x.nCompleted = (s.queue q).nCompleted) :
    s.SameCounts (s.setQueue q x) := by
  refine ⟨s.setQueue_sameLaunches q x, fun j => ?_⟩
  rw [State.queue_setQueue]
  split
  · subst j; exact h
  · rfl

theorem State.SameCounts.queueVector (s : State) (q : Nat) : s.SameCounts (s.queueVector q) := by
  have hi : s.SameCounts (s.interrupt (s.queue q).vector (s.queue q).cseq (s.queue q).sent).2 := by
    unfold State.interrupt
    split
    · exact refl s
    · dsimp only
      split <;> exact ⟨⟨rfl, fun _ => rfl⟩, fun _ => rfl⟩
  simp only [State.queueVector]
  split
  · exact hi.trans (.setQueue (hi.counted q).symm)
  · exact hi

theorem State.SameCounts.flush (q n : Nat) : ∀ s : State, s.SameCounts (s.flush q n) := by
  induction n with
  | zero => exact refl
  | succ n ih =>
    intro s
    simp only [State.flush]
    split
    · exact refl s
    · split
      · refine .trans (.trans (.trans (ringWrite s _ _ _) (.setQueue ?_)) (queueVector _ q)) (ih _)
        exact ((ringWrite s _ _ _).counted q).symm
      · exact refl s

theorem State.SameCounts.tell (s : State) (q : Nat) (ws : List Word) : s.SameCounts (s.tell q ws) :=
  .trans (.setQueue (q := q) (x := { s.queue q with pend := (s.queue q).pend ++ [ws] }) rfl) (flush q _ _)

/-! ### Results (02: R36, R45) -/

/-- The result of an item leaves the launches, and counts the item. -/
theorem State.result_sameLaunches (s : State) (q hseq : Nat) (ws : List Word) : s.SameLaunches (s.result q hseq ws) :=
  (s.setQueue_sameLaunches q _).trans (State.SameCounts.tell _ q ws).toSameLaunches

theorem State.result_counts (s : State) (q hseq : Nat) (ws : List Word) :
    ((s.result q hseq ws).queue q).nCompleted = (s.queue q).nCompleted + 1 := by
  rw [State.result, (State.SameCounts.tell _ q ws).counted, State.queue_setQueue, if_pos rfl]
  rfl

theorem State.endGraph_sameLaunches (s : State) (g : Nat) : s.SameLaunches (s.endGraph g) := by
  have hd : s.SameLaunches { s with graphs := Tab.drop s.graphs g } := ⟨rfl, fun _ => rfl⟩
  simp only [State.endGraph]
  split
  · exact ⟨rfl, fun _ => rfl⟩
  · split
    · exact hd.trans (State.result_sameLaunches _ _ _ _)
    · exact hd.trans (State.result_sameLaunches _ _ _ _)

theorem State.setGraph_sameLaunches (s : State) (g : Nat) (x : Graph) : s.SameLaunches (s.setGraph g x) := ⟨rfl, fun _ => rfl⟩

theorem State.completeNode_sameLaunches (s : State) (g i : Nat) (chosen : List Nat) :
    s.SameLaunches (s.completeNode g i chosen) := by
  simp only [State.completeNode]
  split
  · exact s.setGraph_sameLaunches _ _
  · refine .trans ?_ (State.endGraph_sameLaunches _ _)
    split
    · exact (s.setGraph_sameLaunches _ _).trans (State.SameCounts.tell _ _ _).toSameLaunches
    · exact s.setGraph_sameLaunches _ _

/-! ### The end of a launch (02: R36) -/

@[simp] theorem State.launchOf_setLaunch (s : State) (key : Nat) (l : Launch) : (s.setLaunch key l).launchOf key = l :=
  Tab.get_put_same _ _ _ _

/-- Masking the entries of a launch changes its cores' entries and its own phase. -/
theorem State.maskLaunch_spec (s : State) (key : Nat) :
    (s.maskLaunch key).launchOf key = { s.launchOf key with phase := .masked, mould := [] } ∧
      (∀ r, (s.maskLaunch key).region r = s.region r) ∧ (s.maskLaunch key).queues = s.queues := by
  have hk {β : Type} (p : State → β) (hp : ∀ s k c, p (State.setCore s k c) = p s) :
      p ((s.launchOf key).entries.foldl (fun s e =>
        let h := (s.core e.1).hand e.2
        if h.valid && h.launch = key then s.setHand e.1 e.2 { h with launchMask := true } else s) s) = p s :=
    State.foldl_keeps (fun s e => by dsimp only; split <;> [exact hp _ _ _; rfl]) _ s
  exact ⟨State.launchOf_setLaunch _ _ _, fun r => hk (fun s => s.region r) fun _ _ _ => rfl, hk State.queues fun _ _ _ => rfl⟩

/-- A started launch ends well: it is reported and masked, what it keeps of itself stays, and a launch of a work record
counts for its queue. -/
theorem State.endLaunch_started {s : State} {key : Nat} {l : Launch} (hl : s.launchOf key = l) (hp : l.phase = .started)
    (hr : l.reported = false) :
    let u := s.endLaunch key 0
    u.launchOf key = { l with reported := true, phase := .masked, mould := [] } ∧
      (∀ r, (u.region r).nextLaunch = (s.region r).nextLaunch) ∧
      (l.node = 0xFFFF → (u.queue l.queue).nCompleted = (s.queue l.queue).nCompleted + 1) := by
  have hgo : s.giveUp key = s := by simp [State.giveUp, hl, hp]
  have hgoes : ¬(l.reported || l.phase == .masked) = true := by simp [hr, hp]
  unfold State.endLaunch
  simp only [hl, hgo, if_neg hgoes, if_true]
  obtain ⟨hm, hg, hq⟩ := State.maskLaunch_spec (s.setLaunch key { l with reported := true }) key
  rw [State.launchOf_setLaunch] at hm
  generalize State.maskLaunch _ key = m at hm hg hq ⊢
  have hq' : m.queue l.queue = s.queue l.queue := by rw [State.queue, hq]; rfl
  by_cases hn : l.node = 0xFFFF
  · rw [if_pos hn]
    refine ⟨?_, fun r => ?_, fun _ => ?_⟩
    · rw [(State.result_sameLaunches m _ _ _).launchOf, hm]
    · rw [(State.result_sameLaunches m _ _ _).next, hg]; rfl
    · rw [State.result_counts, hq']
  · rw [if_neg hn]
    refine ⟨?_, fun r => ?_, fun h => absurd h hn⟩
    · rw [(State.completeNode_sameLaunches m _ _ _).launchOf, hm]
    · rw [(State.completeNode_sameLaunches m _ _ _).next, hg]; rfl

/-! ### Stamping identity words and sending START (01: R28) -/

/-- A write under a mask changes bytes and marks of errors alone. -/
theorem State.writeMasked_keeps {β : Type} {p : State → β}
    (hp : ∀ (s : State) m b e, p { s with mem := m, eccBad := b, eccSoft := e } = p s) (s : State) (a : Nat) (mask v : Word) :
    p (s.writeMasked a mask v) = p s := by
  simp only [State.writeMasked]
  split
  · exact hp s _ _ _
  · exact hp s _ _ _

theorem State.writeMasked_mem (s : State) (a : Nat) (mask v : Word) : (s.writeMasked a mask v).mem =
    Mem.writeBytes s.mem a (toBytes 8 ((BitVec.ofNat 64 (Mem.readNat s.mem a 8) &&& ~~~mask) ||| (v &&& mask)).toNat) := by
  simp only [State.writeMasked]
  split <;> rfl

/-- The bytes that a run of masked writes leaves depend on the bytes before it alone. -/
theorem State.foldl_writeMasked_mem {α : Type} (a : α → Nat) (mask v : Word) (l : List α) {s t : State} (h : s.mem = t.mem) :
    (l.foldl (fun s x => s.writeMasked (a x) mask v) s).mem = (l.foldl (fun s x => s.writeMasked (a x) mask v) t).mem := by
  induction l generalizing s t with
  | nil => exact h
  | cons x l ih => exact ih (by rw [State.writeMasked_mem, State.writeMasked_mem, h])

/-- A message as an island puts it before its local port (03: R65). -/
def islandMsg (r : Nat) (m : Msg) : Msg :=
  { m with at_ := islandPos r, dir := 5, uncounted := true, w1 := header1 (islandPos r) 0 0 0xFF }

theorem State.foldl_injectIsland {α : Type} (r : Nat) (f : α → Msg) (l : List α) (s : State) :
    l.foldl (fun s x => s.injectIsland r (f x)) s = { s with net := s.net ++ l.map fun x => islandMsg r (f x) } := by
  induction l generalizing s with
  | nil => simp
  | cons x l ih => rw [List.foldl_cons, ih]; simp [State.injectIsland, islandMsg]

/-- The START word of a launch for a cluster (01: R28). -/
def Launch.startMsg (l : Launch) (key p : Nat) : Msg :=
  { vc := 0, w0 := header0 p 0 0 chStart 16 0, body := bytesOf (l.startWords key p) }

/-- The seed of a placed core (01: R28). -/
def seedMsg (e : Nat × Nat) : Msg := { vc := 5, w0 := header0 (corePos e.1) (coreNo e.1) 5 e.2 0 0 }

/-- What START sends: a word to each cluster of the launch, then the seeds. -/
def Launch.startMsgs (l : Launch) (r key : Nat) : List Msg :=
  (dedup (l.cores.map corePos)).map (fun p => islandMsg r (l.startMsg key p)) ++ l.seeds.map fun e => islandMsg r (seedMsg e)

/-- A launch has its id, and its cores have it in their identity words. -/
def State.stamped (s : State) (r key : Nat) (l : Launch) : State :=
  let g := s.region r
  l.cores.foldl (fun s k => s.writeMasked (tcmHome k + 8 * 252) 0xFFFFFFFF (BitVec.ofNat 64 g.nextLaunch))
    ((s.setRegion r { g with nextLaunch := next32 g.nextLaunch }).setLaunch key { l with id := g.nextLaunch, phase := .started })

/-- What LAUNCH_START makes of a launch, but for one that expects no signal: START and its seeds follow. -/
def State.startLaunch (s : State) (r key : Nat) (l : Launch) : State :=
  l.seeds.foldl (fun s e => s.injectIsland r (seedMsg e))
    ((dedup (l.cores.map corePos)).foldl (fun s p => s.injectIsland r (l.startMsg key p)) (s.stamped r key l))

theorem execLaunchStart_found {s : State} {q key : Nat} {l : Launch} (hw : ∀ e ∈ s.launches, e.2.phase ≠ .waiting)
    (hf : (s.launches.find? fun e => e.2.queue = q && e.2.phase == .loaded && !s.startWaits e.1 e.2 &&
      s.ctxState (s.queue q).tag = 0) = some (key, l)) :
    execLaunchStart q s = .next (if l.expect = 0 then (s.startLaunch (q / 256) key l).endLaunch key 0
      else s.startLaunch (q / 256) key l) := by
  have hr : s.resumeWaiting q = s := by
    have : (s.launches.filter fun e => e.2.queue = q && e.2.phase == .waiting) = [] :=
      List.filter_eq_nil_iff.2 fun e he => by simp [hw e he]
    simp [State.resumeWaiting, this]
  simp only [execLaunchStart, hr, hf]
  rfl

theorem State.stamped_keeps {β : Type} {p : State → β}
    (hp : ∀ (s : State) m b e, p { s with mem := m, eccBad := b, eccSoft := e } = p s) (s : State) (r key : Nat) (l : Launch) :
    p (s.stamped r key l) = p ((s.setRegion r { s.region r with nextLaunch := next32 (s.region r).nextLaunch }).setLaunch key
      { l with id := (s.region r).nextLaunch, phase := .started }) :=
  State.foldl_keeps (fun s _ => State.writeMasked_keeps hp s _ _ _) _ _

theorem State.startLaunch_eq (s : State) (r key : Nat) (l : Launch) :
    s.startLaunch r key l = { s.stamped r key l with net := s.net ++ l.startMsgs r key } := by
  have hn : (s.stamped r key l).net = s.net := State.stamped_keeps (p := State.net) (fun _ _ _ _ => rfl) s r key l
  rw [State.startLaunch, State.foldl_injectIsland, State.foldl_injectIsland, Launch.startMsgs, ← List.append_assoc, hn]

/-- A launch that starts has the region's next id; START is sent, and no core has changed. -/
theorem State.startLaunch_spec (s : State) (r key : Nat) (l : Launch) :
    let u := s.startLaunch r key l
    u.launchOf key = { l with id := (s.region r).nextLaunch, phase := .started } ∧
      (u.region r).nextLaunch = next32 (s.region r).nextLaunch ∧ u.cores = s.cores ∧ u.queues = s.queues ∧
      u.net = s.net ++ l.startMsgs r key ∧
      u.mem = (l.cores.foldl (fun t k =>
        t.writeMasked (tcmHome k + 8 * 252) 0xFFFFFFFF (BitVec.ofNat 64 (s.region r).nextLaunch)) s).mem := by
  rw [State.startLaunch_eq]
  refine ⟨?_, ?_, ?_, ?_, rfl, ?_⟩
  · exact (State.stamped_keeps (p := fun s => s.launchOf key) (fun _ _ _ _ => rfl) s r key l).trans
      (State.launchOf_setLaunch _ _ _)
  · exact (State.stamped_keeps (p := fun s => (s.region r).nextLaunch) (fun _ _ _ _ => rfl) s r key l).trans
      (congrArg Region.nextLaunch (State.region_setRegion_same s r _))
  · exact State.stamped_keeps (p := State.cores) (fun _ _ _ _ => rfl) s r key l
  · exact State.stamped_keeps (p := State.queues) (fun _ _ _ _ => rfl) s r key l
  · exact State.foldl_writeMasked_mem (fun k => tcmHome k + 8 * 252) _ _ _ rfl

theorem Launch.startMsgs_sent (l : Launch) (r key : Nat) : ((l.startMsgs r key).map fun o => (o.vc, o.w0, o.body)) =
    ((dedup (l.cores.map corePos)).map fun p => (0, header0 p 0 0 chStart 16 0, bytesOf (l.startWords key p))) ++
      l.seeds.map fun e => (5, header0 (corePos e.1) (coreNo e.1) 5 e.2 0 0, []) := by
  simp only [Launch.startMsgs, List.map_append, List.map_map]
  rfl

/-! ### Completion signals (02: R36) -/

/-- The POST word at the head of the sequencer's input is counted for its launch, up to EXPECT. -/
theorem execCompletionSignal_post {s : State} {r key n : Nat} {l : Launch} {m : Msg} {rest : List Msg}
    (hq : Tab.get [] (s.region r).inq 0 = m :: rest) (hm : bits m.w0 19 5 = chPost) (hl : s.launchOf key = l)
    (hp : l.phase = .started) (hk : bits (nth 0 (wordsOf m.body 2) 1) 0 32 = key) (hn : (nth 0 (wordsOf m.body 2) 0).toNat = n) :
    execCompletionSignal r s = .next (if l.expect ≤ l.count + n
      then ((s.setRegion r { s.region r with inq := Tab.put (s.region r).inq 0 rest }).setLaunch key
        { l with count := l.expect }).endLaunch key 0
      else (s.setRegion r { s.region r with inq := Tab.put (s.region r).inq 0 rest }).setLaunch key
        { l with count := l.count + n }) := by
  have hi : ((m :: rest).findIdx? fun m => decide (bits m.w0 19 5 = chPost)) = some 0 := by simp [List.findIdx?_cons, hm]
  have hl' : ∀ g, (s.setRegion r g).launchOf key = l := fun _ => hl
  have hs : ¬(l.phase != .started) = true := by simp [hp]
  simp only [execCompletionSignal, hq, hi, nth, dropNth, hk, hl', if_neg hs, hn]
  by_cases hle : l.expect ≤ l.count + n
  · rw [if_pos hle, if_pos hle, min_eq_right hle]
  · rw [if_neg hle, if_neg hle, min_eq_left (le_of_not_ge hle)]

/-! ### Quieting (03: R62) -/

/-- Releasing injection changes the quieting of regions alone. -/
theorem State.releaseQuiet_keeps {β : Type} {p : State → β} (hp : ∀ s r g, p (State.setRegion s r g) = p s) (s : State)
    (z : Quieting) : p (s.releaseQuiet z) = p s :=
  State.foldl_keeps (fun _ _ => hp _ _ _) _ s

theorem State.releaseQuiet_launchOf (s : State) (z : Quieting) (key : Nat) : (s.releaseQuiet z).launchOf key = s.launchOf key :=
  State.releaseQuiet_keeps (p := fun s => s.launchOf key) (fun _ _ _ => rfl) s z

theorem State.releaseQuiet_queue (s : State) (z : Quieting) (q : Nat) : (s.releaseQuiet z).queue q = s.queue q :=
  State.releaseQuiet_keeps (p := fun s => s.queue q) (fun _ _ _ => rfl) s z

theorem State.releaseQuiet_launches (s : State) (z : Quieting) : (s.releaseQuiet z).launches = s.launches :=
  State.releaseQuiet_keeps (p := State.launches) (fun _ _ _ => rfl) s z

/-- No region of the quieting is quieted any more. -/
theorem State.releaseQuiet_quiet (s : State) (z : Quieting) {x : Nat} (hx : x ∈ z.regions) :
    ((s.releaseQuiet z).region x).quiet = none := by
  have go : ∀ (l : List Nat) (s : State), x ∈ l ∨ (s.region x).quiet = none →
      ((l.foldl (fun s r => s.setRegion r { s.region r with quiet := none }) s).region x).quiet = none := by
    intro l
    induction l with
    | nil => exact fun s h => h.resolve_left (List.not_mem_nil)
    | cons r l ih =>
      refine fun s h => ih _ ?_
      by_cases hr : x = r
      · subst hr; right; rw [State.region_setRegion_same]
      · rw [State.region_setRegion_ne _ _ hr]
        exact h.imp_left fun h => (List.mem_cons.1 h).resolve_left hr
  exact go z.regions s (.inl hx)

/-- What a timeout of a repair leaves: nothing of the quieted classes is buffered in a router of the regions, and no memory
and no core has changed. -/
structure State.Dropped (s : State) (z : Quieting) (t : State) : Prop where
  net : ∀ m ∈ t.net, m.bufferedIn z.regions z.classes = false
  mem : t.mem = s.mem
  cores : t.cores = s.cores

/-- Dropping a message sends reports and replies that have not entered a router yet. -/
theorem State.Dropped.drop {s t : State} {z : Quieting} (h : s.Dropped z t) (p cause : Nat) (m : Msg) :
    s.Dropped z (t.drop p cause m) := by
  have hsend : ∀ {u : State}, s.Dropped z u → ∀ o : Msg, o.dir = 5 → s.Dropped z (u.send o) := fun hu o ho =>
    ⟨fun x hx => (List.mem_append.1 hx).elim (hu.net x) fun hx => by
      rw [List.mem_singleton.1 hx]; simp [Msg.bufferedIn, ho], hu.mem, hu.cores⟩
  unfold State.drop
  split
  · exact hsend (hsend h _ rfl) _ rfl
  · exact hsend h _ rfl

theorem State.Dropped.setInq {s t : State} {z : Quieting} (h : s.Dropped z t) (p vc : Nat) (ms : List Msg) :
    s.Dropped z (t.setInq p vc ms) := ⟨h.net, h.mem, h.cores⟩

/-- A timeout of a repair drops what the quieted classes hold (03: R62). -/
theorem execRouteQuietTimeout_repair {s : State} {r : Nat} {z : Quieting} (hz : (s.region r).quiet = some z)
    (hl : z.launch = none) (hq : s.isQuiet z = false) :
    ∃ u : State, execRouteQuietTimeout r s = .next u ∧ s.Dropped z u := by
  simp only [execRouteQuietTimeout, hz, hl, hq]
  refine ⟨_, rfl, ?_⟩
  have hnet : s.Dropped z { s with net := s.net.filter fun m => !m.bufferedIn z.regions z.classes } :=
    ⟨fun m hm => by simpa using (List.mem_filter.1 hm).2, rfl, rfl⟩
  refine List.foldlRecOn _ _ (List.foldlRecOn _ _ hnet fun t ht m _ => ht.drop _ _ m) fun t ht e _ => ?_
  refine List.foldlRecOn _ _ ht fun t ht vc _ => ?_
  exact List.foldlRecOn _ _ (ht.setInq _ _ _) fun t ht m _ => ht.drop _ _ m

/-- A launch of a work record is refused before it has loaded. -/
theorem State.refuseKept_item {s : State} {key : Nat} (h : (s.launchOf key).node = 0xFFFF) (reason : Nat) (detail : Word) :
    let l := s.launchOf key
    s.refuseKept key reason detail = State.refuseItem { s with launches := Tab.drop s.launches key } l.queue
      { hseq := l.hseq, words := [0, 0, 0, 0, l.user] } reason detail := by
  simp [State.refuseKept, h, State.refuseLaunch]

/-- The end of a started launch leaves every region's next launch id. -/
theorem State.endLaunch_next {s : State} {key : Nat} {l : Launch} (hl : s.launchOf key = l) (hp : l.phase = .started) (r : Nat) :
    ((s.endLaunch key 0).region r).nextLaunch = (s.region r).nextLaunch := by
  cases hr : l.reported with
  | true => simp [State.endLaunch, hl, hr]
  | false => exact (State.endLaunch_started hl hp hr).2.1 r

/-- ROUTE_QUIET once the classes are quiet: the launch loads, or waits again for its cores (03: R62; log 38). -/
theorem execRouteQuiet_quiet {s : State} {r key : Nat} {z : Quieting} (hz : (s.region r).quiet = some z)
    (hl : z.launch = some key) (hq : s.isQuiet z = true) :
    execRouteQuiet r s = .next (if Mould.idle (s.launchOf key).mould s then (s.releaseQuiet z).loadKept key
      else (s.releaseQuiet z).setLaunch key { s.launchOf key with phase := .waiting }) := by
  simp [execRouteQuiet, hz, hl, hq]

/-- A kept launch that is still accepted, its cores idle, loads (01: R27). -/
theorem State.loadKept_accepted {s : State} {key : Nat} {l : Launch} (hl : s.launchOf key = l) (hi : Mould.idle l.mould s = true)
    (hr : Mould.refusal l.mould s (s.queue l.queue).tag (Mould.at_ l.mould 0x10 8) = none) :
    s.loadKept key = Mould.load l.mould (s.queue l.queue).tag key (s.setLaunch key { l with phase := .loaded, mould := [] }) := by
  simp [State.loadKept, hl, hi, hr]

/-- What has changed since its dispatch may refuse it (01: R27). -/
theorem State.loadKept_refused {s : State} {key code : Nat} {detail : Word} {l : Launch} (hl : s.launchOf key = l)
    (hi : Mould.idle l.mould s = true)
    (hr : Mould.refusal l.mould s (s.queue l.queue).tag (Mould.at_ l.mould 0x10 8) = some (code, detail)) :
    s.loadKept key = s.refuseKept key code detail := by
  simp [State.loadKept, hl, hi, hr]

/-- A launch of a work record is refused with injection released (03: R62). -/
theorem State.refuseKept_released {s : State} {z : Quieting} {key : Nat} (hn : (s.launchOf key).node = 0xFFFF)
    (reason : Nat) (detail : Word) :
    let l := s.launchOf key
    (s.releaseQuiet z).refuseKept key reason detail =
      State.refuseItem { s.releaseQuiet z with launches := Tab.drop s.launches key } l.queue
        { hseq := l.hseq, words := [0, 0, 0, 0, l.user] } reason detail := by
  have h := State.refuseKept_item (s := s.releaseQuiet z) (key := key) (by rw [State.releaseQuiet_launchOf]; exact hn) reason detail
  rw [State.releaseQuiet_launchOf, State.releaseQuiet_launches] at h
  exact h

/-- ROUTE_QUIET_TIMEOUT for a launch: it is refused with reason 23 (03: R62). -/
theorem execRouteQuietTimeout_launch {s : State} {r key : Nat} {z : Quieting} (hz : (s.region r).quiet = some z)
    (hl : z.launch = some key) (hq : s.isQuiet z = false) :
    execRouteQuietTimeout r s = .next ((s.releaseQuiet z).refuseKept key 23 0) := by
  simp [execRouteQuietTimeout, hz, hl, hq]

end Sys2Proof.Machine

namespace Sys2Proof.Proofs
open Sys2Proof Sys2Proof.Machine

/-- Settles O46: LAUNCH_START numbers, stamps and sends, the last completion signal ends the launch, and quieting ends by a
load, a refusal, a new wait, or by dropping what is buffered. -/
theorem launchSteps : Obligations.LaunchSteps := by
  unfold Obligations.LaunchSteps
  intro s r q key l m rest z g
  refine ⟨fun hr hw hf => ?_, fun k => rfl, fun hq hm hl hp hk => ⟨fun hlt => ?_, fun hle hrep => ?_⟩,
    fun hz => ⟨fun hl hq hi hfree => ⟨fun href => ?_, fun code detail href hn => ?_⟩, fun hl hq hi => ?_, fun hl hq hn => ?_,
      fun hl hq => ?_, fun x hx => s.releaseQuiet_quiet z hx⟩⟩
  · subst hr
    obtain ⟨hl, hnext, hcores, hqueues, hnet, hmem⟩ := s.startLaunch_spec (q / 256) key l
    have hexec := execLaunchStart_found hw hf
    by_cases he : l.expect = 0
    · rw [if_pos he] at hexec
      refine ⟨_, l.startMsgs (q / 256) key, hexec, (State.endLaunch_next hl rfl _).trans hnext, fun h => absurd he h,
        fun _ hrep hnode => ?_⟩
      obtain ⟨hend, -, hcount⟩ := State.endLaunch_started hl rfl hrep
      refine ⟨by rw [hend], (hcount hnode).trans ?_⟩
      rw [State.queue, hqueues]; rfl
    · rw [if_neg he] at hexec
      exact ⟨_, l.startMsgs (q / 256) key, hexec, hnext,
        fun _ => ⟨hl, hcores, hnet, hmem, l.startMsgs_sent (q / 256) key⟩, fun h => absurd h he⟩
  · have hpost := execCompletionSignal_post hq hm hl hp hk rfl
    rwa [if_neg (not_le.2 hlt)] at hpost
  · have hpost := execCompletionSignal_post hq hm hl hp hk rfl
    rw [if_pos hle] at hpost
    obtain ⟨hend, -, hcount⟩ := State.endLaunch_started (State.launchOf_setLaunch _ key { l with count := l.expect }) hp hrep
    exact ⟨_, hpost, by rw [hend], by rw [hend], by rw [hend], hcount⟩
  · have hload := State.loadKept_accepted (s.releaseQuiet_launchOf z key) hfree (by rw [State.releaseQuiet_queue]; exact href)
    rw [State.releaseQuiet_queue] at hload
    exact (execRouteQuiet_quiet hz hl hq).trans (by rw [if_pos hi, hload])
  · have hload := State.loadKept_refused (s.releaseQuiet_launchOf z key) hfree (by rw [State.releaseQuiet_queue]; exact href)
    refine (execRouteQuiet_quiet hz hl hq).trans ?_
    rw [if_pos hi, hload]
    exact congrArg _ (State.refuseKept_released hn code detail)
  · exact (execRouteQuiet_quiet hz hl hq).trans (by rw [hi]; rfl)
  · exact (execRouteQuietTimeout_launch hz hl hq).trans (congrArg _ (State.refuseKept_released hn 23 0))
  · obtain ⟨u, hu, hd⟩ := execRouteQuietTimeout_repair hz hl hq
    exact ⟨u, hu, hd.net, hd.mem, hd.cores⟩

end Sys2Proof.Proofs

/-! SUPPORT. Injection at the send port (09: R170, R175), and the refutation of O44. -/

namespace Sys2Proof.Machine

/-! ### Header word 1 of a core of the wafer (09: R170) -/

/-- Five fields as a number; the shifts stay variables, as the kernel would unfold a product with a large literal. -/
theorem fields_toNat (a b c d e i j k l m : Nat) : (fields [(i, a), (j, b), (k, c), (l, d), (m, e)]).toNat =
    (a * 2 ^ i + b * 2 ^ j + c * 2 ^ k + d * 2 ^ l + e * 2 ^ m) % 2 ^ 64 := by
  simp [fields]

/-- Fields that stand side by side in a word. -/
theorem packed_mod {p c n tag : Nat} (hp : p < 16384) (hc : c < 4) (hn : n < 65536) :
    (p % 128 + p / 128 * 2 ^ 7 + c * 2 ^ 14 + n * 2 ^ 16 + tag * 2 ^ 32) % 2 ^ 64 =
      2 ^ 32 * (tag % 2 ^ 32) + (2 ^ 16 * n + (p + c * 2 ^ 14)) := by
  omega

theorem corePos_lt {k : Nat} (hk : k < 65536) : corePos k < 16384 := by rw [corePos]; omega

theorem coreNo_lt (k : Nat) : coreNo k < 4 := Nat.mod_lt k (by decide)

/-- Where the row number fits its field, the fields of header word 1 stand side by side. -/
theorem header1_toNat {k : Nat} (hk : k < 65536) (seq tag : Nat) : (header1 (corePos k) (coreNo k) seq tag).toNat =
    2 ^ 32 * (tag % 2 ^ 32) + (2 ^ 16 * (seq % 2 ^ 16) + (corePos k + coreNo k * 2 ^ 14)) := by
  rw [header1, fields_toNat, Nat.pow_zero, Nat.mul_one]
  exact packed_mod (corePos_lt hk) (coreNo_lt k) (Nat.mod_lt seq (by decide))

/-- The core reads back from its header word 1. -/
theorem srcCore_header1 {k : Nat} (hk : k < 65536) (tag : Nat) : srcCore (header1 (corePos k) (coreNo k) 0 tag) = coreNo k := by
  have hp := corePos_lt hk
  have hc := coreNo_lt k
  rw [srcCore, bits, header1_toNat hk]
  generalize corePos k = p, coreNo k = c, tag % 2 ^ 32 = t at *
  omega

/-- Bits of header word 1. -/
theorem testBit_header1 {k : Nat} (hk : k < 65536) (seq tag i : Nat) :
    (header1 (corePos k) (coreNo k) seq tag).toNat.testBit i =
      if i < 32 then if i < 16 then (corePos k + coreNo k * 2 ^ 14).testBit i else (seq % 2 ^ 16).testBit (i - 16)
      else (tag % 2 ^ 32).testBit (i - 32) := by
  have hp := corePos_lt hk
  have hc := coreNo_lt k
  rw [header1_toNat hk, Nat.testBit_two_pow_mul_add _ (by omega), Nat.testBit_two_pow_mul_add _ (by omega)]

/-- Counting SEQ into a header word 1 that holds none (09: R170). -/
theorem withSeq_header1 {k : Nat} (hk : k < 65536) (tag n : Nat) :
    withSeq (header1 (corePos k) (coreNo k) 0 tag) n = header1 (corePos k) (coreNo k) n tag := by
  refine BitVec.eq_of_getLsbD_eq fun i hi => ?_
  have hmask : (0xFFFF#64).getLsbD (i - 16) = decide (i - 16 < 16) := by
    rw [BitVec.getLsbD_ofNat, show 0xFFFF = 2 ^ 16 - 1 from rfl, Nat.testBit_two_pow_sub_one]
    simp; omega
  have hseq : (BitVec.ofNat 64 (n % 65536)).getLsbD (i - 16) = (n % 2 ^ 16).testBit (i - 16) := by
    rw [BitVec.getLsbD_ofNat]; simp; omega
  have hhigh : 32 ≤ i → (n % 2 ^ 16).testBit (i - 16) = false := fun h =>
    Nat.testBit_lt_two_pow (lt_of_lt_of_le (Nat.mod_lt n (by decide)) (Nat.pow_le_pow_right (by decide) (by omega)))
  simp only [withSeq, BitVec.getLsbD_or, BitVec.getLsbD_and, BitVec.getLsbD_not, BitVec.getLsbD_shiftLeft, hmask, hseq]
  simp only [BitVec.getLsbD, testBit_header1 hk]
  by_cases h16 : i < 16
  · simp [h16, hi, show i < 32 by omega]
  · by_cases h32 : i < 32
    · simp [h16, h32, hi]
    · rw [hhigh (by omega), if_neg h32, if_neg h32]
      simp [hi, show ¬ i - 16 < 16 by omega]

/-- What a core outside the island squares injects at once bears the core's next SEQ on its VC (09: R170). -/
theorem State.enterCore_eq {s : State} {k : Nat} (hk : k < 65536) (hi : isIsland (corePos k) = false) (m : Msg) :
    let c := s.core k
    let n := Tab.get 0 c.seqs m.vc
    let t := s.setCore k { c with seqs := Tab.put c.seqs m.vc ((n + 1) % 65536) }
    s.enterCore k m = { t with net := t.net ++ [{ m with
      at_ := corePos k, dir := 4, uncounted := false, w1 := header1 (corePos k) (coreNo k) n (s.tagFor (corePos k) m.vc) }] } := by
  have hself : 4 * corePos k + coreNo k = k := by rw [corePos, coreNo]; omega
  simp only [State.enterCore, State.enter, hi, srcCore_header1 hk, hself, withSeq_header1 hk]
  rfl

theorem lt_of_isCore {k : Nat} (h : isCore k = true) : k < 65536 ∧ isIsland (corePos k) = false := by
  simp only [isCore, isCluster, isPos, Bool.and_eq_true, decide_eq_true_eq, Bool.not_eq_true'] at h
  refine ⟨?_, h.2⟩
  have := h.1
  rw [corePos] at this
  omega

/-- The port takes the head of the queue once nothing holds it (09: R175). -/
theorem execSendInject_ready {s : State} {k : Nat} {e : SendEntry} {rest : List SendEntry} (hq : (s.core k).sendq = e :: rest)
    (hw : (s.core k).sendWaits (corePos k) e = false) (hp : s.preempted (corePos k) = false)
    (hl : s.ldfeBefore k e.seq = false) (hr : s.portRoom (corePos k) (s.sendMsg k e) = true) :
    execSendInject k s =
      .next (((s.setCore k (Core.refill { s.core k with sendq := rest })).countSend k e).enterCore k (s.sendMsg k e)) := by
  simp only [execSendInject, hq, hw, hp, hl, hr]
  rfl

/-- Where no word holds a single-bit error, the port counts none. -/
theorem State.countSend_none {s : State} (h : s.eccSoft = []) (k : Nat) (e : SendEntry) : s.countSend k e = s := by
  simp [State.countSend, State.countEcc_none h]

/-- With no send of a checkpoint waiting, the queue is refilled with nothing (log 109). -/
theorem Core.refill_sendq {c : Core} (h : c.sends = []) : c.refill.sendq = c.sendq := by
  have ht : ∀ n, takeN n ([] : List SendEntry) = [] := fun n => by cases n <;> rfl
  simp [Core.refill, h, ht]

/-- SEND_INJECT by any core that a wafer has: the head of the queue leaves with the bytes that memory holds then, as
`Obligations.MessageArrival` says it of every number `k` (09: R170, R175). -/
theorem execSendInject_head {s : State} {k : Nat} {e : SendEntry} {rest : List SendEntry} (hk : isCore k = true)
    (hq : (s.core k).sendq = e :: rest) (hw : (s.core k).sendWaits (corePos k) e = false) (hp : s.preempted (corePos k) = false)
    (hn : e.snap = none) (hc : e.pcnt = 0) (hs : (s.core k).sends = []) (he : s.eccSoft = [])
    (hl : s.ldfeBefore k e.seq = false) (hr : s.portRoom (corePos k) (s.sendMsg k e) = true) :
    ∃ (u : State) (m : Msg), execSendInject k s = .next u ∧ (u.core k).sendq = rest ∧ (u.core k).reg = (s.core k).reg ∧
      (u.core k).pc = (s.core k).pc ∧ u.net = s.net ++ [m] ∧ m.at_ = corePos k ∧ m.dir = 4 ∧
      m.w0 = e.hdr &&& ~~~(0xFFFF#64 <<< 24) ||| (BitVec.ofNat 64 e.len <<< 24) ∧ m.vc = bits m.w0 16 3 ∧
      m.body = Mem.readBytes s.mem (ownHome k e.addr) e.len ∧ m.prel = [] ∧
      m.w1 = header1 (corePos k) (coreNo k) (Tab.get 0 (s.core k).seqs m.vc) (s.tagFor (corePos k) m.vc) ∧
      u.mem = s.mem ∧ u.clusters = s.clusters := by
  obtain ⟨hlt, hi⟩ := lt_of_isCore hk
  have hexec := execSendInject_ready hq hw hp hl hr
  rw [State.countSend_none (s := s.setCore k _) he, State.enterCore_eq hlt hi] at hexec
  have hcore : ∀ (t : State) (c : Core) (ms : List Msg), ({ t.setCore k c with net := ms } : State).core k = c :=
    fun t c _ => State.core_setCore_same t k c
  refine ⟨_, _, hexec, ?_, ?_, ?_, rfl, rfl, rfl, rfl, rfl, ?_, ?_, ?_, rfl, rfl⟩
  · rw [hcore, State.core_setCore_same]; exact Core.refill_sendq hs
  · rw [hcore, State.core_setCore_same]; rfl
  · rw [hcore, State.core_setCore_same]; rfl
  · simp [State.sendMsg, hn]
  · simp [State.sendMsg, hc, preludeWords]
  · rw [State.core_setCore_same]; rfl

end Sys2Proof.Machine

namespace Sys2Proof.Proofs
open Sys2Proof Sys2Proof.Machine

/-! ### A core that no wafer has (00: R1; 09: R170)

The row number of its position does not fit the 7 bits that header word 1 gives it, and carries into the number of the core. -/

/-- Core 0 of the position in column 0 of row 128. -/
def farCore : Nat := 65536

/-- A message of no bytes on VC5. -/
def farSend : SendEntry := { hdr := 0x50000 }

/-- The core has sent one message on VC5 and has another in its send queue. -/
def farState : State := { cores := [(farCore, { sendq := [farSend], seqs := [(5, 1)] })] }

/-- VC and header word 1 of what SEND_INJECT puts into the mesh. -/
def farSent : List (Nat × Word) := match execSendInject farCore farState with
  | .next u => u.net.map fun m => (m.vc, m.w1)
  | _ => []

/-- SEQ is that of core 1, which has sent nothing. -/
theorem farSent_eq : farSent = [(5, header1 (corePos farCore) (coreNo farCore) 0 0)] := by decide +kernel

/-- Refutes O44: nothing keeps `k` to the cores of the wafer, and on core 65536 the port counts the SEQ of another core than
the statement says. -/
theorem not_messageArrival : ¬ Obligations.MessageArrival := by
  unfold Obligations.MessageArrival
  intro h
  obtain ⟨u, m, hexec, -, -, -, hnet, -, -, -, -, -, -, hw1, -⟩ := (h farState farCore 0 0).1 farSend []
    rfl (by decide +kernel) (by decide +kernel) rfl rfl rfl rfl (by decide +kernel) (by decide +kernel) (by decide +kernel)
  have hsent : [(5, header1 (corePos farCore) (coreNo farCore) 0 0)] = [(m.vc, m.w1)] := by
    rw [← farSent_eq, farSent, show execSendInject farCore farState = .next u from hexec]
    show u.net.map _ = _
    rw [hnet]
    rfl
  obtain ⟨hvc, hw⟩ := Prod.mk.inj (List.cons.inj hsent).1
  rw [← hw, ← hvc] at hw1
  exact absurd hw1 (by decide +kernel)

end Sys2Proof.Proofs

/-! SUPPORT. The host's windows and the board (02: R31; 18: R378-R381, R384-R386), and the statement O60. -/

namespace Sys2Proof.Machine

/-! ### Bytes (00: R4) -/

theorem takeN_length {α : Type} (l : List α) : takeN l.length l = l := by
  induction l with
  | nil => rfl
  | cons a l ih => rw [List.length_cons, takeN, ih]

/-- A unit of a table of equal units. -/
theorem Tab.get_span_map {α : Type} (d v : α) {lo n k : Nat} (hlo : lo ≤ k) (hk : k < lo + n) :
    Tab.get d ((span lo n).map fun i => (i, v)) k = v := by
  induction n generalizing lo with
  | zero => omega
  | succ n ih =>
    simp only [span, List.map_cons, Tab.get]
    by_cases h : lo = k
    · rw [if_pos h]
    · rw [if_neg h, if_neg (by omega), ih (by omega) (by omega)]

/-! ### The number that a write leaves (02: R31) -/

/-- Four bytes written at the place of a number of 4 bytes. -/
theorem overlay_whole (old off : Nat) {bs : List Byte} (h : bs.length = 4) : overlay old off off bs = some (ofBytes bs) := by
  obtain ⟨a, b, c, d, rfl⟩ := List.length_eq_four.1 h
  simp [overlay, span, nth, Nat.add_assoc]

/-- Bytes written outside a number of 4 bytes. -/
theorem overlay_outside (old : Nat) {off a : Nat} {bs : List Byte} (h : a + bs.length ≤ off ∨ off + 4 ≤ a) :
    overlay old off a bs = none := by
  refine if_neg fun hany => ?_
  obtain ⟨i, hi, hin⟩ := List.any_eq_true.1 hany
  have := mem_span.1 hi
  simp only [Bool.and_eq_true, decide_eq_true_eq] at hin
  omega

/-! ### HOST_WRITE and HOST_READ (18: R378-R381) -/

@[simp] theorem State.hostPort_setHostPort (s : State) (port : Nat) (h : HostPort) : (s.setHostPort port h).hostPort port = h :=
  Tab.get_put_same _ _ _ _

/-- A write to the position block of a queue that is not closed. -/
theorem execHostWrite_queue {s : State} {port q off : Nat} {bs : List Byte} (ht : (s.hostPort port).trained = true)
    (hq : q < 0x3000) (ho : off < 32) (hne : bs ≠ []) (hlen : bs.length ≤ 512) :
    execHostWrite port (.bar 0) (4096 * q + off) bs s = .next (s.writeQueue q off bs) := by
  have hmod : (4096 * q + off) % 4096 = off := by omega
  have hdiv : (4096 * q + off) / 4096 = q := by omega
  have haddr : 4096 * q + off < 0x3000000 := by omega
  have he : bs.isEmpty = false := by simpa using hne
  simp [execHostWrite, barOf, ht, he, hmod, hdiv, haddr, ho, not_lt.2 hlen]

/-- Four bytes at the place of TAIL write TAIL alone. -/
theorem State.writeQueue_tail {s : State} {q : Nat} {bs : List Byte} (hs : (s.queue q).st ≠ 0) (h : bs.length = 4) :
    s.writeQueue q 16 bs = s.writeTail q (ofBytes bs) := by
  have hc : overlay (s.queue q).chead 20 16 bs = none := overlay_outside _ (by omega)
  simp [State.writeQueue, hs, overlay_whole _ _ h, hc, h]

/-- Single-bit errors are counted for reads through an aperture alone. -/
theorem State.countAperture_of_bar {s : State} {port bar : Nat} (h : bar ≠ 4) (addr n : Nat) :
    s.countAperture port bar addr n = s := by
  unfold State.countAperture
  split
  · rw [if_neg (by simp [h])]
  · rfl

theorem State.countAperture_untrained {s : State} {port : Nat} (h : (s.hostPort port).trained = false) (bar addr n : Nat) :
    s.countAperture port bar addr n = s := by
  unfold State.countAperture
  split
  · rw [if_neg (by simp [h])]
  · rfl

/-- A read of the position block of a queue that is open or that no one has opened. -/
theorem execHostRead_block {s : State} {port q : Nat} (ht : (s.hostPort port).trained = true) (hq : q < 0x3000)
    (hs : (s.queue q).st ≠ 0 ∨ s.neverOpened q = true) :
    execHostRead port (.bar 0) (4096 * q) 32 s = .next (s.setHostPort port { s.hostPort port with
      reads := (s.hostPort port).reads ++ [bytesOf (s.queue q).block] }) := by
  have hmod : 4096 * q % 4096 = 0 := by omega
  have hdiv : 4096 * q / 4096 = q := by omega
  have haddr : 4096 * q < 0x3000000 := by omega
  have hbytes : takeN 32 (bytesOf (s.queue q).block) = bytesOf (s.queue q).block :=
    takeN_length (bytesOf (s.queue q).block)
  have hdata : s.hostData port 0 (4096 * q) 32 = bytesOf (s.queue q).block := by
    have hopen : (decide ((s.queue q).st ≠ 0) || s.neverOpened q) = true := by simpa using hs
    simp only [State.hostData, ht, hmod, hdiv, haddr, hopen, Nat.zero_add, Nat.le_refl, decide_true, Bool.and_self,
      Bool.not_true, Bool.false_eq_true, if_false, if_true, dropN, hbytes]
  simp [execHostRead, barOf, ht, hdata, State.countAperture_of_bar]

/-- A port that is not trained reads all ones (log 13; 18: R379). -/
theorem execHostRead_untrained {s : State} {port : Nat} (ht : (s.hostPort port).trained = false) (x : HostTarget) (a n : Nat) :
    execHostRead port x a n s = .next (s.setHostPort port { s.hostPort port with
      reads := (s.hostPort port).reads ++ [(span 0 n).map fun _ => 0xFF] }) := by
  have hdata : ∀ bar, s.hostData port bar a n = (span 0 n).map fun _ => 0xFF := fun bar => by simp [State.hostData, ht]
  simp only [execHostRead, ht, hdata, Bool.false_and, Bool.false_eq_true, if_false]
  exact congrArg _ (State.countAperture_untrained (by rw [State.hostPort_setHostPort]) _ _ _)

theorem execHostWrite_untrained {s : State} {port : Nat} (ht : (s.hostPort port).trained = false) (x : HostTarget) (a : Nat)
    (bs : List Byte) : execHostWrite port x a bs s = .next s := by
  simp [execHostWrite, ht]

/-- A write through an aperture (18: R381). -/
theorem execHostWrite_aperture {s : State} {port a tag : Nat} {base : Word} {bs : List Byte}
    (ht : (s.hostPort port).trained = true) (hne : bs ≠ []) (hlen : bs.length ≤ 512)
    (hap : s.aperture port a = some (tag, base)) :
    execHostWrite port (.bar 4) a bs s = .next (s.ringWrite tag (base + BitVec.ofNat 64 (a % 2 ^ 27)) bs) := by
  simp [execHostWrite, barOf, ht, hne, hap, not_lt.2 hlen]

/-- No function of the device answers such a request (18: R378). -/
theorem barOf_unused {x : HostTarget} {bar : Nat}
    (h : x ∈ [HostTarget.atomicOp, .peerToPeer, .ats, .pri, .other] ∨ x = .bar bar ∧ bar ∉ [0, 2, 4]) : barOf x = none := by
  rcases h with h | ⟨rfl, h⟩
  · simp only [List.mem_cons, List.not_mem_nil, or_false] at h
    rcases h with rfl | rfl | rfl | rfl | rfl <;> rfl
  · simp only [List.mem_cons, List.not_mem_nil, or_false, not_or] at h
    simp [barOf, h]

theorem execHostRead_refused {s : State} {port n : Nat} {x : HostTarget} (ht : (s.hostPort port).trained = true)
    (h : 4096 < n ∨ barOf x = none) (a : Nat) : execHostRead port x a n s = .next (s.unsupported port) := by
  simp [execHostRead, ht, h]

theorem execHostWrite_refused {s : State} {port : Nat} {x : HostTarget} {bs : List Byte}
    (ht : (s.hostPort port).trained = true) (h : 512 < bs.length ∨ barOf x = none) (a : Nat) :
    execHostWrite port x a bs s = .next (s.unsupported port) := by
  simp [execHostWrite, ht, h]

/-! ### Bring-up (18: R386; 03: R49-R52) -/

/-- Steps that leave the board leave it together. -/
theorem State.foldl_board {α : Type} {f : State → α → State} (hf : ∀ s x, (f s x).board = s.board) (l : List α) (s : State) :
    (l.foldl f s).board = s.board := State.foldl_keeps hf l s

theorem State.setMapEntry_board (s : State) (p v : Nat) : (s.setMapEntry p v).board = s.board := rfl

theorem State.bootLane_board (s : State) (e : Nat × Nat) : (s.bootLane e).board = s.board := by
  unfold State.bootLane
  split
  · rfl
  · split
    · rfl
    · split
      · rfl
      · rfl

theorem State.detour_board (s : State) (part : Nat) : (s.detour part).board = s.board :=
  State.foldl_board (fun s _ => State.foldl_board (fun _ _ => by rfl) (span 0 8) s) _ s

theorem State.publish_board (s : State) (r : Nat) : (s.publish r).board = s.board := by
  rw [State.publish, State.writeMem_board, State.foldl_board fun _ _ => State.writeMem_board _ _ _]

theorem State.columnCheck_board (s : State) (r : Nat) : (s.columnCheck r).2.board = s.board := by
  unfold State.columnCheck
  split
  · rfl
  · split
    · rfl
    · exact State.foldl_board (f := State.markRetired) (fun _ _ => rfl) _ s

/-- Building the maps and routes changes of the board the record of retired clusters alone. -/
theorem State.buildMaps_board {β : Type} {f : Board → β} (hf : ∀ b fl, f { b with flash := fl } = f b) (s : State) :
    f s.buildMaps.board = f s.board := by
  have hmaps : ∀ (l : List Nat) (s : State), f (l.foldl (fun s r =>
      let c := s.columnCheck r
      { c.2 with board := { c.2.board with flash := c.2.board.flash ++ c.1 } }.publish r) s).board = f s.board :=
    State.foldl_keeps (p := fun s => f s.board) fun s r => by
      dsimp only
      rw [State.publish_board, hf, State.columnCheck_board]
  simp only [State.buildMaps, hmaps, apply_ite State.board, State.detour_board, ite_self]
  rw [State.foldl_board State.bootLane_board, State.foldl_board fun s p => State.setMapEntry_board s p _]

/-- Loading the firmware changes of the board the measurements alone. -/
theorem State.loadFirmware_board {β : Type} {f : Board → β} (hf : ∀ b ms, f { b with measures := ms } = f b) (s : State)
    (slot : List Byte) : f (s.loadFirmware slot).board = f s.board := by
  rw [State.loadFirmware, State.foldl_board fun _ _ => State.setRegion_board _ _ _]
  simp only [Board.extend, hf]

/-- The maps are built on the accepted firmware (03: R49-R52). -/
def State.booted (s : State) (slot : List Byte) : State := (s.unpowered.loadFirmware slot).buildMaps

theorem State.buildMaps_loadFirmware (s : State) (slot : List Byte) :
    (s.unpowered.loadFirmware slot).buildMaps = s.booted slot := rfl

theorem State.booted_board {β : Type} {f : Board → β} (hfl : ∀ b fl, f { b with flash := fl } = f b)
    (hms : ∀ b ms, f { b with measures := ms } = f b) (s : State) (slot : List Byte) :
    f (s.booted slot).board = f s.unpowered.board :=
  (State.buildMaps_board hfl _).trans (State.loadFirmware_board hms _ _)

/-- The board is up, its stacks, links and host ports trained (18: R386). -/
def State.allTrained (s : State) : State :=
  { s.trainEdges with
    hostPorts := (span 0 4).map fun p => (p, ({ trained := true } : HostPort)), board := { s.board with up := true, i3c := [] } }

theorem State.allTrained_links (s : State) : s.allTrained.links = (span 0 96).map fun l => (l, { up := true }) := rfl

theorem State.allTrained_hostPorts (s : State) :
    s.allTrained.hostPorts = (span 0 4).map fun p => (p, { trained := true }) := rfl

theorem State.hostPort_allTrained (s : State) {p : Nat} (h : p < 4) : s.allTrained.hostPort p = { trained := true } := by
  rw [State.hostPort, State.allTrained_hostPorts]
  exact Tab.get_span_map _ _ (Nat.zero_le p) (by omega)

theorem State.link_allTrained (s : State) {l : Nat} (h : l < 96) : (Tab.get {} s.allTrained.links l : Link) = { up := true } := by
  rw [State.allTrained_links]
  exact Tab.get_span_map _ _ (Nat.zero_le l) (by omega)

/-- Step 4 of R386 fails for a stack or link, step 5 for a host port; else the board is up. -/
theorem execPowerOnReset_slot {s : State} {slot : List Byte} (hr : s.board.badRails = []) (hs : s.board.slot = some slot) :
    execPowerOnReset s = .next (
      if !(s.board.badStacks.isEmpty && s.board.badLinks.isEmpty) then
        { s.booted slot with edgeStacks := [], links := [] }.haltAt 4
      else if !s.board.badPorts.isEmpty then (s.booted slot).trainEdges.haltAt 5
      else (s.booted slot).allTrained) := by
  have hr' : s.unpowered.board.badRails.isEmpty = true := by rw [List.isEmpty_iff]; exact hr
  have hs' : s.unpowered.board.slot = some slot := hs
  have hk : (s.booted slot).board.badStacks = s.board.badStacks := s.booted_board (fun _ _ => rfl) (fun _ _ => rfl) slot
  have hl : (s.booted slot).board.badLinks = s.board.badLinks := s.booted_board (fun _ _ => rfl) (fun _ _ => rfl) slot
  have hp : (s.booted slot).board.badPorts = s.board.badPorts := s.booted_board (fun _ _ => rfl) (fun _ _ => rfl) slot
  simp only [execPowerOnReset, hr', hs', Bool.not_true, Bool.false_eq_true, if_false, State.buildMaps_loadFirmware, hk, hl, hp,
    State.allTrained]

end Sys2Proof.Machine

namespace Sys2Proof.Proofs
open Sys2Proof Sys2Proof.Machine

/-- The windows of a host port: TAIL, the position block, apertures, and what is completed with Unsupported Request. -/
theorem hostPortSteps : Parts.HostPorts := by
  unfold Parts.HostPorts
  intro s port q a n bar bs hp gives refuses
  refine ⟨fun ht hq hs => ⟨fun hlen => ?_, execHostRead_block ht hq (.inl hs)⟩, fun ht hq hnone => ?_,
    fun tag base ht hne hlen hap => execHostWrite_aperture ht hne hlen hap,
    fun ht x => ⟨execHostRead_untrained ht x a n, execHostWrite_untrained ht x a bs⟩,
    fun ht => ⟨fun h => execHostRead_refused ht (.inl h) a, fun h => execHostWrite_refused ht (.inl h) a, fun x hx => ?_⟩⟩
  · exact (execHostWrite_queue ht hq (by decide) (by rintro rfl; simp at hlen) (by omega)).trans
      (congrArg _ (State.writeQueue_tail hs hlen))
  · have hq0 : s.queue q = {} := by rw [State.queue, hnone]; rfl
    have hblock := execHostRead_block (s := s) ht hq (.inr (by simp [State.neverOpened, hnone]))
    rw [hq0] at hblock
    exact hblock
  · have hu := barOf_unused hx
    exact ⟨execHostRead_refused ht (.inr hu) a, execHostWrite_refused ht (.inr hu) a⟩

/-- Bring-up step by step, the measurements that the firmware call extends, and quotes. -/
theorem boardSteps : Parts.Board := by
  unfold Parts.Board
  intro s i d slot b halted
  refine ⟨fun hr => ?_, fun hr ha hb => ?_, fun hr hs => ?_, fun h3 h7 => ?_, fun h3 => ?_, rfl⟩
  · show execPowerOnReset s = _
    have hr' : s.unpowered.board.badRails.isEmpty = false := by simpa [State.unpowered] using hr
    simp only [execPowerOnReset, hr']
    rfl
  · have hs : s.unpowered.board.slot = none := by
      show b.slot = none
      simp [Board.slot, ha, hb]
    have hr' : s.unpowered.board.badRails.isEmpty = true := by rw [List.isEmpty_iff]; exact hr
    show execPowerOnReset s = _
    simp only [execPowerOnReset, hr', hs]
    rfl
  · have hexec := execPowerOnReset_slot hr hs
    refine ⟨fun hst hl hp => ?_, fun hbad => ?_, fun hst hl hp => ?_⟩
    · simp only [hst, hl, hp, List.isEmpty_nil, Bool.and_self, Bool.not_true, Bool.false_eq_true, if_false, b] at hexec
      exact ⟨_, hexec, rfl, rfl, fun p hp => congrArg HostPort.trained (State.hostPort_allTrained _ hp),
        fun l hl => congrArg Link.up (State.link_allTrained _ hl)⟩
    · have hne : (!(s.board.badStacks.isEmpty && s.board.badLinks.isEmpty)) = true := by
        rcases hbad with h | h <;> simp [List.isEmpty_eq_false_iff.2 h, b] 
      rw [if_pos hne] at hexec
      exact ⟨_, hexec, rfl, rfl, rfl, rfl⟩
    · have hok : ¬(!(s.board.badStacks.isEmpty && s.board.badLinks.isEmpty)) = true := by simp [hst, hl, b]
      have hne : (!s.board.badPorts.isEmpty) = true := by simpa using hp
      rw [if_neg hok, if_pos hne] at hexec
      exact ⟨_, hexec, rfl, rfl, rfl⟩
  · show execMeasurementExtend i d s = _
    rw [execMeasurementExtend, if_pos (by simp [h3, h7])]
    rfl
  · show execMeasurementExtend i d s = _
    rw [execMeasurementExtend, if_neg (by simp; omega)]

/-- Settles O60: a request of a port has the outcome of its window, and bring-up that of its first failing step, for building
the maps changes no part of the board that a later step reads. -/
theorem hostSteps : Obligations.HostSteps := ⟨hostPortSteps, boardSteps⟩

end Sys2Proof.Proofs

/-! SUPPORT. Turns of the sequencer, task graphs and their nodes (02: R34, R38-R44), and the statement O48. -/

namespace Sys2Proof.Machine

/-! ### Lists with an element replaced -/

@[simp] theorem setNth_length {α : Type} (l : List α) (i : Nat) (v : α) : (setNth l i v).length = l.length := by
  induction l generalizing i with
  | nil => rfl
  | cons a l ih => cases i <;> simp [setNth, ih]

theorem nth_setNth_same {α : Type} {d : α} {l : List α} {i : Nat} (h : i < l.length) (v : α) : nth d (setNth l i v) i = v := by
  induction l generalizing i with
  | nil => simp at h
  | cons a l ih =>
    cases i with
    | zero => rfl
    | succ i => exact ih (by simpa using h)

theorem nth_setNth_ne {α : Type} {d : α} {l : List α} {i j : Nat} (h : j ≠ i) (v : α) : nth d (setNth l i v) j = nth d l j := by
  induction l generalizing i j with
  | nil => rfl
  | cons a l ih =>
    cases i with
    | zero => cases j with
      | zero => exact absurd rfl h
      | succ j => rfl
    | succ i => cases j with
      | zero => rfl
      | succ j => exact ih (by omega)

/-! ### What counting memory errors leaves (10: R190) -/

/-- A reading of the state that no count of memory errors and no draw of free values changes. -/
structure Uncounted {β : Type} (p : State → β) : Prop where
  ecc : ∀ (s : State) (r n : Nat), p (s.setRegion r { s.region r with eccCount := n }) = p s
  free : ∀ (s : State) (n : Nat), p { s with free := n } = p s

namespace Uncounted
variable {β : Type} {p : State → β} (hp : Uncounted p)
include hp

theorem countEcc (s : State) (r a n : Nat) : p (s.countEcc r a n) = p s := by
  simp only [State.countEcc]
  split
  · rfl
  · exact hp.ecc _ _ _

theorem countRoot (s : State) (r root va : Nat) : p (s.countRoot r root va) = p s := by
  unfold State.countRoot
  split
  · rfl
  · exact State.foldl_keeps (fun s a => hp.countEcc s r a 8) _ s

theorem ctxWalks (s : State) (tag : Nat) (a : Word) (n : Nat) : p (s.ctxWalks tag a n) = p s :=
  State.foldl_keeps (fun s _ => hp.countRoot s _ _ _) _ s

theorem countCtx (s : State) (tag : Nat) (a : Word) (n : Nat) : p (s.countCtx tag a n) = p s := by
  unfold State.countCtx
  split
  · simp only [State.countHomes]
    have hcount (hs : List (Nat × Nat)) (r : Nat) (t : State) :
        p (hs.foldl (fun s h => s.countEcc r h.1 h.2) t) = p t :=
      State.foldl_keeps (fun s h => hp.countEcc s r h.1 h.2) hs t
    split
    · rw [hp.free, hcount, hp.ctxWalks]
    · rw [hcount, hp.ctxWalks]
  · rfl

end Uncounted

/-- The tenants of a sequencer are not counted with. -/
theorem uncounted_tenants (r : Nat) : Uncounted fun s => (s.region r).tenants where
  ecc s i n := by
    by_cases h : r = i
    · subst h; simp
    · simp [State.region_setRegion_ne _ _ h]
  free _ _ := rfl

/-! ### A turn of the sequencer (02: R34, R42-R44) -/

/-- A sequencer has served queue `q` of tenant `t`, which has paid a cost. -/
def State.turnTaken (s : State) (r t q cost : Nat) : State :=
  let x : Tenant := Tab.get {} (s.region r).tenants t
  s.setRegion r { s.region r with
    lastTenant := t, tenants := Tab.put (s.region r).tenants t { x with last := q, bal := x.bal - cost } }

/-- A queue with records waiting, or with a full ring, has nothing to dispatch (02: R34). -/
theorem State.pick_full {s : State} {q : Nat}
    (h : (s.queue q).pend ≠ [] ∨ 2 ^ (s.queue q).m ≤ ahead (next32 (s.queue q).cseq) (s.queue q).chead) : s.pick q = none := by
  refine if_pos ?_
  rcases h with h | h <;> simp [h]

theorem State.turn_none {s : State} {r : Nat} (h : s.turnOf r = none) : s.turn r = s := by
  rw [State.turn, h]

@[simp] theorem State.pick_setRegion (s : State) (r q : Nat) (g : Region) : (s.setRegion r g).pick q = s.pick q := rfl

/-- A turn in which a node is at the head of its queue. -/
theorem State.turn_node {s : State} {r t q k i : Nat} (h : s.turnOf r = some (t, q)) (hp : s.pick q = some (.node k i)) :
    s.turn r = ((s.turnTaken r t q 0).dispatchNode k i).getD (s.turnTaken r t q 0) := by
  simp only [State.turn, h, State.pick_setRegion, hp]
  rfl

/-- A turn in which a work record of a mould is at the head of its queue. -/
theorem State.turn_item {s : State} {r t q : Nat} {it : Item} (h : s.turnOf r = some (t, q)) (hp : s.pick q = some (.item it))
    (hk : bits (nth 0 it.words 0) 32 4 = 1) :
    s.turn r = (((s.turnTaken r t q 0).setQueue q { s.queue q with
      items := (s.queue q).items.map fun (j : Item) => if j.hseq = it.hseq then { j with dispatched := true } else j }).dispatchMould
        q it none (nth 0 it.words 1) (bits (nth 0 it.words 2) 0 32) (bits (nth 0 it.words 3) 0 32)).getD (s.turnTaken r t q 0) := by
  simp only [State.turn, h, State.pick_setRegion, hp, hk]
  rfl

/-- A tenant whose balance covers a cost pays it from there (02: R44). -/
theorem State.pay_covered {s : State} {r t cost : Nat} (h : cost ≤ (Tab.get {} (s.region r).tenants t : Tenant).bal) :
    let x : Tenant := Tab.get {} (s.region r).tenants t
    s.pay r t cost = some (s.setRegion r { s.region r with
      tenants := Tab.put (s.region r).tenants t { x with bal := x.bal - cost } }) := if_pos h

theorem State.turnTaken_pay {s : State} {r t q cost : Nat} (h : cost ≤ (Tab.get {} (s.region r).tenants t : Tenant).bal) :
    (s.turnTaken r t q 0).pay r t cost = some (s.turnTaken r t q cost) := by
  have hbal : cost ≤ (Tab.get {} ((s.turnTaken r t q 0).region r).tenants t : Tenant).bal := by
    simpa [State.turnTaken] using h
  rw [State.pay_covered hbal]
  simp [State.turnTaken]

/-- A node whose token is paid starts by its kind (02: R39, R43). -/
theorem State.dispatchNode_paid {s u : State} {k i : Nat} {g : Graph} (hg : s.graph k = g)
    (hpay : s.pay (g.queue / 256) (s.queue g.queue).tenant 1 = some u) :
    let n := g.node i
    (n.kind = 3 → s.dispatchNode k i = some (u.setGraph k (g.setNode i { n with phase := .running }))) ∧
    (n.kind = 4 ∨ n.kind = 6 → s.dispatchNode k i = some (u.setGraph k (g.setNode i { n with phase := .condition }))) ∧
    (n.kind = 5 → s.dispatchNode k i = some (u.setGraph k (if n.phase = .again then g.pass i else g.firePass i))) := by
  refine ⟨fun h => ?_, fun h => ?_, fun h => ?_⟩
  · simp [State.dispatchNode, hg, h, hpay]
  · rcases h with h | h <;> simp [State.dispatchNode, hg, h, hpay]
  · simp [State.dispatchNode, hg, h, hpay]

/-- A mould that is read, paid for and accepted becomes a launch that waits or loads (01: R27; 02: R36, R43). -/
theorem State.dispatchMould_accepted {s u v : State} {q size expect tag t : Nat} {it : Item} {addr : Word} {b : List Byte}
    (htag : (s.queue q).tag = tag) (ht : (s.queue q).tenant = t) (hread : s.ctxRead tag addr size = .ok b)
    (hu : s.countCtx tag addr size = u)
    (hcost : 1 + ((Mould.clusters b).length + 15) / 16 ≤ 3 * (Tab.get {} (u.region (q / 256)).tenants t : Tenant).refill)
    (hpay : u.pay (q / 256) t (1 + ((Mould.clusters b).length + 15) / 16) = some v) (href : Mould.refusal b u tag size = none) :
    s.dispatchMould q it none addr size expect =
      some ((State.setLaunch { v with nextKey := v.nextKey + 1 } v.nextKey (Mould.launch b q it none expect)).resumeLaunch
        v.nextKey) := by
  simp only [State.dispatchMould, htag, ht, hread, hu, if_neg (not_lt.2 hcost), hpay, href]

/-- A waiting launch whose mould has no routes loads once its cores are idle, and else waits on (log 38). -/
theorem State.resumeLaunch_waiting {s : State} {key : Nat} (hp : (s.launchOf key).phase = .waiting)
    (hr : Mould.routes (s.launchOf key).mould = []) : s.resumeLaunch key = s.loadKept key := by
  simp [State.resumeLaunch, hp, hr]

theorem State.loadKept_busy {s : State} {key : Nat} (hi : Mould.idle (s.launchOf key).mould s = false) :
    s.loadKept key = s := by
  simp [State.loadKept, hi]

/-! ### Firing (02: R38-R40) -/

@[simp] theorem Graph.node_setNode_ne (g : Graph) {i j : Nat} (h : j ≠ i) (n : Node) : (g.setNode i n).node j = g.node j :=
  nth_setNth_ne h n

theorem Graph.node_setNode_same {g : Graph} {i : Nat} (h : i < g.nodes.length) (n : Node) : (g.setNode i n).node i = n :=
  nth_setNth_same h n

@[simp] theorem Graph.length_setNode (g : Graph) (i : Nat) (n : Node) : (g.setNode i n).nodes.length = g.nodes.length :=
  setNth_length _ _ _

/-- A firing that counts. -/
theorem Graph.fire_counts {g : Graph} {i : Nat} (hi : i < g.nodes.length) (hr : (g.node i).rcv < (g.node i).ndep) :
    let n := g.node i
    g.fire i = g.setNode i { n with
      rcv := n.rcv + 1, phase := if n.rcv + 1 = n.ndep && n.phase == .idle then .ready else n.phase } :=
  if_neg (by simp [hi, hr])

theorem Graph.fire_full {g : Graph} {i : Nat} (h : (g.node i).ndep ≤ (g.node i).rcv) : g.fire i = g :=
  if_pos (by simp [h])

/-- A firing concerns its node alone. -/
theorem Graph.node_fire_ne (g : Graph) {i j : Nat} (h : j ≠ i) : (g.fire i).node j = g.node j := by
  simp only [Graph.fire]
  split
  · rfl
  · exact g.node_setNode_ne h _

/-- A further pass leaves every node of the body with RCV 0. -/
theorem Node.again_rcv (n : Node) : n.again.rcv = 0 := by
  unfold Node.again
  split <;> rfl

/-- The nodes of a list wait for their firings afresh. -/
def Graph.restart (g : Graph) (l : List Nat) : Graph := l.foldl (fun g i => g.setNode i (g.node i).again) g

theorem Graph.restart_rcv {l : List Nat} {g : Graph} {b : Nat} (hb : b < g.nodes.length)
    (h : b ∈ l ∨ (g.node b).rcv = 0) : ((g.restart l).node b).rcv = 0 := by
  induction l generalizing g with
  | nil => exact h.resolve_left List.not_mem_nil
  | cons i l ih =>
    refine ih (g := g.setNode i (g.node i).again) (by simpa using hb) ?_
    by_cases hbi : b = i
    · subst hbi
      exact .inr (by rw [Graph.node_setNode_same hb, Node.again_rcv])
    · exact h.imp (fun h => (List.mem_cons.1 h).resolve_left hbi) fun h => by rwa [g.node_setNode_ne hbi]

theorem Graph.restart_node {l : List Nat} {g : Graph} {b : Nat} (h : b ∉ l) : (g.restart l).node b = g.node b := by
  induction l generalizing g with
  | nil => rfl
  | cons i l ih =>
    obtain ⟨hi, hl⟩ := not_or.1 (mt List.mem_cons.2 h)
    exact (ih hl).trans (g.node_setNode_ne hi _)

/-- A further pass of a loop: the nodes of its body but BODY itself have RCV 0 (02: R40). -/
theorem Graph.pass_rcv {g : Graph} {i b : Nat} (hb : b ∈ g.bodyOf i) (hlt : b < g.nodes.length) (hne : b ≠ (g.node i).body) :
    ((g.pass i).node b).rcv = 0 := by
  have hout : i ∉ g.bodyOf i := fun h => by simpa using (List.mem_filter.1 h).2
  have hbi : b ≠ i := fun h => hout (h ▸ hb)
  have hbody : ((g.restart (g.bodyOf i)).node i).body = (g.node i).body := by rw [Graph.restart_node hout]
  show (((g.restart (g.bodyOf i)).firePass i).node b).rcv = 0
  rw [Graph.firePass, Graph.node_fire_ne _ (hbody ▸ hne), Graph.node_setNode_ne _ hbi]
  exact Graph.restart_rcv hlt (.inl hb)

@[simp] theorem State.graph_setGraph_same (s : State) (k : Nat) (g : Graph) : (s.setGraph k g).graph k = g :=
  Tab.get_put_same _ _ _ _

/-- A graph with a node left goes on (02: R41). -/
theorem State.endGraph_busy {s : State} {k : Nat} (h : (s.graph k).busy = true) : s.endGraph k = s := by
  simp [State.endGraph, h]

/-- A node that completes without a record, and with no loop that ends at it, fires its successors in a graph that goes on
(02: R38-R40). -/
theorem State.completeNode_fires {s : State} {k i : Nat} {g : Graph} {l : List Nat} (hg : s.graph k = g)
    (hh : g.halted = false) (hrec : bit ((g.node i).w 0) 4 = false) :
    let fired := l.foldl Graph.fire (g.setNode i (g.node i).ended)
    fired.busy = true → (∀ b ∈ fired.nodes, ¬(b.kind = 5 ∧ b.tail = i ∧ b.phase = .running)) →
      s.completeNode k i l = s.setGraph k fired := by
  intro fired hbusy hloops
  have hnodes : (fired.nodes.map fun (l : Node) =>
      if l.kind = 5 && l.tail = i && l.phase == .running then { l with phase := .condition } else l) = fired.nodes := by
    refine (List.map_congr_left fun b hb => if_neg ?_).trans (List.map_id _)
    simpa [and_assoc] using hloops b hb
  simp only [State.completeNode, hg, hh, hrec, Bool.false_eq_true, if_false]
  rw [hnodes]
  exact State.endGraph_busy (s := s.setGraph k fired) (by rw [State.graph_setGraph_same]; exact hbusy)

/-! ### Copy nodes, conditions and loops (02: R39, R40) -/

theorem execNodeComplete_barrier {s : State} {k i : Nat} (hk : ((s.graph k).node i).kind = 3)
    (hp : ((s.graph k).node i).phase = .running) :
    execNodeComplete k i s = .next (s.completeNode k i (four (((s.graph k).node i).w 1))) := by
  simp [execNodeComplete, hk, hp]

/-- A copy node writes what it has read, and completes. -/
theorem execCopyNodeDone_written {s u : State} {k i : Nat} {bs : List Byte} {n : Node} {tag : Nat} (hn : (s.graph k).node i = n)
    (ht : (s.queue (s.graph k).queue).tag = tag) (hk : n.kind = 2) (hp : n.phase = .running)
    (hr : s.ctxRead tag (n.w 2) (n.w 4).toNat = .ok bs)
    (hw : (s.countCtx tag (n.w 2) (n.w 4).toNat).ctxWrite tag (n.w 3) bs = .ok u) :
    execCopyNodeDone k i s = .next (u.completeNode k i (four (n.w 1))) := by
  simp [execCopyNodeDone, hn, ht, hk, hp, hr, hw]

section
variable {s : State} {k i : Nat} {g : Graph} {n : Node} {bs : List Byte} (hg : s.graph k = g) (hn : g.node i = n)
  (hh : g.halted = false) (hp : n.phase = .condition) (ha : (n.w 2).toNat % 8 = 0)
  (hr : s.ctxRead (s.queue g.queue).tag (n.w 2) 8 = .ok bs)
include hg hn hh hp ha hr

/-- A condition fires its first pair where its word is not zero, and else the second (02: R39). -/
theorem execConditionRead_pair (hk : n.kind = 4) :
    execConditionRead k i s = .next ((s.countCtx (s.queue g.queue).tag (n.w 2) 8).completeNode k i
      (if ofBytes bs ≠ 0 then takeN 2 (four (n.w 1)) else dropN 2 (four (n.w 1)))) := by
  simp [execConditionRead, hg, hn, hh, hp, ha, hr, hk]

/-- A case fires the successor that its word names (02: R39). -/
theorem execConditionRead_case (hk : n.kind = 6) :
    let c := nth 0xFFFF (four (n.w 1) ++ four (n.w 3)) (ofBytes bs)
    execConditionRead k i s = .next ((s.countCtx (s.queue g.queue).tag (n.w 2) 8).completeNode k i
      [if ofBytes bs < 8 ∧ c ≠ 0xFFFF then c else bits (n.w 4) 0 16]) := by
  simp [execConditionRead, hg, hn, hh, hp, ha, hr, hk]

/-- A loop ends at a word of zero or at its last pass (02: R40). -/
theorem execConditionRead_loopEnds (hk : n.kind = 5) (hw : ofBytes bs = 0 ∨ n.maxIter ≤ n.passes) :
    execConditionRead k i s = .next ((s.countCtx (s.queue g.queue).tag (n.w 2) 8).completeNode k i (four (n.w 1))) := by
  rcases hw with hw | hw
  · simp [execConditionRead, hg, hn, hh, hp, ha, hr, hk, hw]
  · simp [execConditionRead, hg, hn, hh, hp, ha, hr, hk, not_lt.2 hw]

/-- Any other loop of a graph that has not failed goes on for a further pass, at once where it has the turn (02: R40, R44). -/
theorem execConditionRead_loopAgain (hk : n.kind = 5) (hw : ofBytes bs ≠ 0) (hm : n.passes < n.maxIter)
    (hf : g.failed = none) :
    let again := (s.countCtx (s.queue g.queue).tag (n.w 2) 8).setGraph k (g.setNode i { n with phase := .again })
    execConditionRead k i s = .next (
      if (again.turnOf (g.queue / 256)).map Prod.snd = some g.queue && again.pick g.queue = some (.node k i) then
        again.turn (g.queue / 256)
      else again) := by
  subst hn hg
  simp [execConditionRead, hh, hp, ha, hr, hk, hw, hm, hf]

end

end Sys2Proof.Machine

namespace Sys2Proof.Proofs
open Sys2Proof Sys2Proof.Machine

/-- Settles O48: a turn pays and starts what is at the head of the queue that has it; a node that completes changes its own
graph alone, and a further pass leaves RCV 0 in the body of its loop. -/
theorem graphSteps : Obligations.GraphSteps := by
  unfold Obligations.GraphSteps
  intro s k i q t g r y x n fired turn
  refine ⟨State.pick_full, fun h => congrArg _ (State.turn_none h), fun hturn ht => ⟨fun hp hg hq hbal => ?_,
    fun it b hp hkind => ?_⟩, ?_, fun hg => ⟨fun hk hp => ?_, fun hk hp bs u hr hw => ?_, fun hh hp ha bs hr => ?_,
      fun l hh hrec hbusy hloops => State.completeNode_fires hg hh hrec hbusy hloops, fun h => ?_,
      fun b hb hlt hne => Graph.pass_rcv hb hlt hne, fun hi hlt => ?_, Graph.fire_full⟩⟩
  · subst hq
    have hpay : (s.turnTaken r t g.queue 0).pay r y.tenant 1 = some (s.turnTaken r t g.queue 1) := by
      rw [ht]; exact State.turnTaken_pay hbal
    obtain ⟨h3, h46, h5⟩ := State.dispatchNode_paid (s := s.turnTaken r t g.queue 0) (i := i) hg hpay
    have hexec := State.turn_node hturn hp
    exact ⟨fun hk => congrArg _ (hexec.trans (congrArg (Option.getD · _) (h3 hk))),
      fun hk => congrArg _ (hexec.trans (congrArg (Option.getD · _) (h46 hk))),
      fun hk => congrArg _ (hexec.trans (congrArg (Option.getD · _) (h5 hk)))⟩
  · intro size cost taken u v hread hcost hmax href
    have htag : (taken.queue q).tag = y.tag := by rw [State.queue_setQueue, if_pos rfl]
    have htenant : (taken.queue q).tenant = t := by rw [State.queue_setQueue, if_pos rfl]; exact ht
    have hpaid : (Tab.get {} (u.region r).tenants t : Tenant) = { x with last := q } := by
      rw [(uncounted_tenants r).countCtx, State.setQueue_region, State.region_setRegion_same]
      exact Tab.get_put_same _ _ _ _
    have hpay : u.pay r t cost = some v := by
      rw [State.pay_covered (by rw [hpaid]; exact hcost), hpaid]
    have hexec := State.dispatchMould_accepted (it := it) (expect := bits (nth 0 it.words 3) 0 32) htag htenant hread rfl
      (by rw [hpaid]; exact hmax) hpay href
    exact congrArg _ ((State.turn_item hturn hp hkind).trans (congrArg (Option.getD · _) hexec))
  · intro l tag hp hr
    have hkept := State.resumeLaunch_waiting hp hr
    exact ⟨fun hi href => hkept.trans (State.loadKept_accepted rfl hi href),
      fun hi => hkept.trans (State.loadKept_busy hi)⟩
  · subst hg; exact execNodeComplete_barrier hk hp
  · subst hg; exact execCopyNodeDone_written rfl rfl hk hp hr hw
  · intro w exits arm v again
    refine ⟨execConditionRead_pair hg rfl hh hp ha hr, execConditionRead_case hg rfl hh hp ha hr, 
      execConditionRead_loopEnds hg rfl hh hp ha hr, fun hk hw hm hf => ⟨fun h => ?_, fun h h' => ?_⟩⟩
    · exact (execConditionRead_loopAgain hg rfl hh hp ha hr hk hw hm hf).trans (congrArg _
        (if_neg fun hc => h (of_decide_eq_true (Bool.and_eq_true_iff.1 hc).1)))
    · exact (execConditionRead_loopAgain hg rfl hh hp ha hr hk hw hm hf).trans (congrArg _
        (if_pos (Bool.and_eq_true_iff.2 ⟨decide_eq_true h, decide_eq_true h'⟩)))
  · simp [Node.ended, h]
  · rw [Graph.fire_counts hi hlt]
    refine ⟨?_, fun hidle => ?_, fun j hj => g.node_setNode_ne hj _⟩
    · rw [Graph.node_setNode_same hi]
    · rw [Graph.node_setNode_same hi]
      simp [n, hidle]

end Sys2Proof.Proofs

/-! SUPPORT. Queues: work records, the drain of a queue, its end, and ABORT (02: R31-R35, R42, R45-R47), and the statement
O47. -/

namespace Sys2Proof.Machine

/-! ### What a report leaves (02: R34, R37; 18: R380) -/

/-- A reading of the state that no write through a context changes. -/
structure Unwritten {β : Type} (p : State → β) : Prop extends Uncounted p where
  write : ∀ (s : State) a bs, p (s.writeMem a bs) = p s
  clean : ∀ (s : State) a n, p (s.clean a n) = p s
  away : ∀ (s : State) h bs, p (s.storeAway h bs) = p s

/-- A reading of the state that no report of a record changes. -/
structure Unreported {β : Type} (p : State → β) : Prop extends Unwritten p where
  queues : ∀ (s : State) qs, p { s with queues := qs } = p s
  ports : ∀ (s : State) hs, p { s with hostPorts := hs } = p s

namespace Unwritten
variable {β : Type} {p : State → β} (hp : Unwritten p)
include hp

theorem lay (hs : List (Nat × Nat)) : ∀ (s : State) (bs : List Byte), p (s.lay hs bs) = p s := by
  induction hs with
  | nil => exact fun _ _ => rfl
  | cons x hs ih =>
    intro s bs
    refine (ih _ _).trans ?_
    split
    · exact hp.away s _ _
    · exact (hp.write _ _ _).trans (hp.clean s _ _)

theorem ringWrite (s : State) (tag : Nat) (a : Word) (bs : List Byte) : p (s.ringWrite tag a bs) = p s := by
  unfold State.ringWrite State.ctxWrite
  cases s.ctxHomes tag .write (pieces a.toNat bs.length (bs.length / 4096 + 2)) with
  | error x => rfl
  | ok hs => exact (hp.lay hs _ bs).trans (hp.ctxWalks s tag a bs.length)

end Unwritten

namespace Unreported
variable {β : Type} {p : State → β} (hp : Unreported p)
include hp

theorem setQueue (s : State) (q : Nat) (x : Queue) : p (s.setQueue q x) = p s := by
  unfold State.setQueue
  cases x.place with
  | none => exact hp.queues s _
  | some o => exact (hp.write _ _ _).trans (hp.queues s _)

theorem queueVector (s : State) (q : Nat) : p (s.queueVector q) = p s := by
  have hi : p (s.interrupt (s.queue q).vector (s.queue q).cseq (s.queue q).sent).2 = p s := by
    unfold State.interrupt
    split
    · rfl
    · dsimp only
      split
      · rfl
      · exact hp.ports s _
  simp only [State.queueVector]
  split
  · exact (hp.setQueue _ q _).trans hi
  · exact hi

theorem flush (q n : Nat) : ∀ s : State, p (s.flush q n) = p s := by
  induction n with
  | zero => exact fun _ => rfl
  | succ n ih =>
    intro s
    simp only [State.flush]
    split
    · rfl
    · split
      · rw [ih, hp.queueVector, hp.setQueue, State.compSlot, hp.ringWrite]
      · rfl

theorem tell (s : State) (q : Nat) (ws : List Word) : p (s.tell q ws) = p s :=
  (hp.flush q _ _).trans (hp.setQueue s q _)

end Unreported

theorem unreported_cores : Unreported State.cores :=
  ⟨⟨⟨fun _ _ _ => rfl, fun _ _ => rfl⟩, fun _ _ _ => rfl, fun _ _ _ => rfl, fun _ _ _ => rfl⟩, fun _ _ => rfl, fun _ _ => rfl⟩

theorem unreported_launches : Unreported State.launches :=
  ⟨⟨⟨fun _ _ _ => rfl, fun _ _ => rfl⟩, fun _ _ _ => rfl, fun _ _ _ => rfl, fun _ _ _ => rfl⟩, fun _ _ => rfl, fun _ _ => rfl⟩

theorem unreported_graphs : Unreported State.graphs :=
  ⟨⟨⟨fun _ _ _ => rfl, fun _ _ => rfl⟩, fun _ _ _ => rfl, fun _ _ _ => rfl, fun _ _ _ => rfl⟩, fun _ _ => rfl, fun _ _ => rfl⟩

theorem unreported_parts : Unreported State.parts :=
  ⟨⟨⟨fun _ _ _ => rfl, fun _ _ => rfl⟩, fun _ _ _ => rfl, fun _ _ _ => rfl, fun _ _ _ => rfl⟩, fun _ _ => rfl, fun _ _ => rfl⟩

@[simp] theorem State.queue_setQueue_same (s : State) (q : Nat) (x : Queue) : (s.setQueue q x).queue q = x := by
  rw [State.queue_setQueue, if_pos rfl]

/-- Reporting a record changes of its queue what waits, what is kept, CSEQ and the vector's word alone. -/
theorem State.queueVector_queue {β : Type} {f : Queue → β} (hf : ∀ (x : Queue) n, f { x with sent := n } = f x) (s : State)
    (q : Nat) : f ((s.queueVector q).queue q) = f (s.queue q) := by
  have hi : (s.interrupt (s.queue q).vector (s.queue q).cseq (s.queue q).sent).2.queue q = s.queue q := by
    unfold State.interrupt
    split
    · rfl
    · dsimp only
      split <;> rfl
  simp only [State.queueVector]
  split
  · rw [State.queue_setQueue_same, hf]
  · rw [hi]

theorem State.flush_queue {β : Type} {f : Queue → β}
    (hf : ∀ (x : Queue) pend cseq kept sent, f { x with pend := pend, cseq := cseq, kept := kept, sent := sent } = f x)
    (q n : Nat) : ∀ s : State, f ((s.flush q n).queue q) = f (s.queue q) := by
  induction n with
  | zero => exact fun _ => rfl
  | succ n ih =>
    intro s
    simp only [State.flush]
    split
    · rfl
    · split
      · rw [ih, State.queueVector_queue fun x n => hf x x.pend x.cseq x.kept n, State.queue_setQueue_same]
        exact hf (s.queue q) _ _ _ _
      · rfl

theorem State.tell_queue {β : Type} {f : Queue → β}
    (hf : ∀ (x : Queue) pend cseq kept sent, f { x with pend := pend, cseq := cseq, kept := kept, sent := sent } = f x)
    (s : State) (q : Nat) (ws : List Word) : f ((s.tell q ws).queue q) = f (s.queue q) := by
  rw [State.tell, State.flush_queue hf, State.queue_setQueue_same]
  exact hf (s.queue q) _ _ _ _

/-! ### Doorbells and work records (02: R31, R33, R35) -/

theorem State.writeTail_open {s : State} {q : Nat} (h : (s.queue q).st ≠ 0) (n : Nat) :
    s.writeTail q n = (s.setQueue q { s.queue q with tail := n % 2 ^ 32 }).setRegion (q / 256)
      { s.region (q / 256) with doorbell := 1 } := by
  simp only [State.writeTail, if_neg h, State.setQueue_region]

/-- CHEAD of a queue with no record waiting, in a partition with no retirement to report. -/
theorem State.writeChead_idle {s : State} {q : Nat} (h : (s.queue q).st ≠ 0) (hp : (s.queue q).pend = [])
    (hr : (s.part (s.queue q).tag).retiring = []) (n : Nat) :
    s.writeChead q n = s.setQueue q { s.queue q with chead := n % 2 ^ 32 } := by
  have hpart (x : Queue) : (s.setQueue q x).part (s.queue q).tag = s.part (s.queue q).tag := by
    rw [State.part, unreported_parts.setQueue]; rfl
  rw [State.writeChead, if_neg h, hp]
  exact if_pos (by simp [State.flush, hpart, hr])

theorem State.serveBells_keeps {β : Type} {p : State → β} (hp : ∀ s r g, p (State.setRegion s r g) = p s) (s : State)
    (r : Nat) : p (s.serveBells r) = p s := by
  unfold State.serveBells
  dsimp only
  split
  · rfl
  · exact hp _ _ _

/-- A queue whose record is reported before the doorbells are served. -/
theorem State.queue_serveBells_tell {β : Type} {f : Queue → β}
    (hf : ∀ (x : Queue) pend cseq kept sent, f { x with pend := pend, cseq := cseq, kept := kept, sent := sent } = f x)
    (s : State) (q r : Nat) (x : Queue) (ws : List Word) : f ((((s.setQueue q x).tell q ws).serveBells r).queue q) = f x := by
  rw [State.serveBells_keeps (p := fun s => f (s.queue q)) (fun _ _ _ => rfl), State.tell_queue hf, State.queue_setQueue_same]

section
variable {s : State} {q : Nat} {bs : List Byte} (hl : s.led q = true) (hs : (s.queue q).st = 1)
  (ht : (s.queue q).consumed ≠ (s.queue q).tail)
  (hr : s.ctxRead (s.queue q).tag ((s.queue q).work +
    BitVec.ofNat 64 (64 * (next32 (s.queue q).consumed % 2 ^ (s.queue q).n))) 64 = .ok bs)
include hl hs ht hr

/-- A record with the next HSEQ and a known format becomes an item. -/
theorem execWorkRecordRead_item (hh : bits (nth 0 (wordsOf bs 8) 0) 0 32 = next32 (s.queue q).consumed)
    (hf : workFormat (wordsOf bs 8) = true) :
    let x := s.queue q
    let h := next32 x.consumed
    execWorkRecordRead q s = .next (((s.countCtx x.tag (x.work + BitVec.ofNat 64 (64 * (h % 2 ^ x.n))) 64).setQueue q { x with
      consumed := h, items := x.items ++ [{ hseq := h, words := wordsOf bs 8 }],
      nDispatched := x.nDispatched + 1 }).serveBells (q / 256)) := by
  simp only [execWorkRecordRead, hl, hs, hr, ht, hh, hf, ne_eq, not_true_eq_false, decide_false, Bool.not_true, Bool.or_self,
    Bool.false_eq_true, if_false, if_true]

/-- A gap in the numbers stops the queue, and CONSUMED stays (02: R33). -/
theorem execWorkRecordRead_gap (hh : bits (nth 0 (wordsOf bs 8) 0) 0 32 ≠ next32 (s.queue q).consumed) :
    ∃ u : State, execWorkRecordRead q s = .next u ∧ (u.queue q).st = 2 ∧ (u.queue q).consumed = (s.queue q).consumed ∧
      (u.queue q).items = (s.queue q).items ∧ u.cores = s.cores := by
  simp only [execWorkRecordRead, hl, hs, hr, ne_eq, not_true_eq_false, decide_false, ht, Bool.not_true, Bool.or_self,
    Bool.false_eq_true, if_false, hh, not_false_eq_true, if_true]
  have hcores : Uncounted State.cores := unreported_cores.toUncounted
  refine ⟨_, rfl, State.queue_serveBells_tell (f := Queue.st) (fun _ _ _ _ _ => rfl) _ _ _ _ _,
    State.queue_serveBells_tell (f := Queue.consumed) (fun _ _ _ _ _ => rfl) _ _ _ _ _,
    State.queue_serveBells_tell (f := Queue.items) (fun _ _ _ _ _ => rfl) _ _ _ _ _, ?_⟩
  rw [State.serveBells_keeps (p := State.cores) (fun _ _ _ => rfl), unreported_cores.tell, unreported_cores.setQueue,
      hcores.countCtx]

end

/-! ### The launches of a draining queue (02: R45) -/

theorem Tab.keys_put {α : Type} {t : Tab α} {k j : Nat} {v : α} (h : j ∈ Tab.keys (Tab.put t k v)) :
    j = k ∨ j ∈ Tab.keys t := by
  induction t with
  | nil => simpa [Tab.put, Tab.keys] using h
  | cons e t ih =>
    simp only [Tab.put] at h
    split at h
    · simp_all [Tab.keys]
    · split at h
      · simpa [Tab.keys] using h
      · rcases List.mem_cons.1 h with h | h
        · exact .inr (h ▸ List.mem_cons_self)
        · exact (ih h).imp_right (List.mem_cons_of_mem _)

theorem Tab.keys_drop {α : Type} {t : Tab α} {k j : Nat} (h : j ∈ Tab.keys (Tab.drop t k)) : j ≠ k ∧ j ∈ Tab.keys t := by
  obtain ⟨e, he, rfl⟩ := List.mem_map.1 h
  obtain ⟨hmem, hne⟩ := List.mem_filter.1 he
  exact ⟨by simpa using hne, List.mem_map_of_mem hmem⟩

/-- Another unit of a table, of which one is taken away, stays unless it has the default. -/
theorem Tab.get_drop {α : Type} {d : α} {t : Tab α} {k j : Nat} (h : j ≠ k) (hd : Tab.get d t j ≠ d) :
    Tab.get d (Tab.drop t k) j = Tab.get d t j := by
  induction t with
  | nil => rfl
  | cons e t ih =>
    obtain ⟨i, a⟩ := e
    simp only [Tab.get] at hd ⊢
    by_cases hik : i = k
    · subst hik
      rw [Tab.drop, List.filter_cons_of_neg (by simp)]
      rw [if_neg (Ne.symm h)] at hd ⊢
      by_cases hlt : j < i
      · rw [if_pos hlt] at hd; exact absurd rfl hd
      · rw [if_neg hlt] at hd ⊢; exact ih hd
    · rw [Tab.drop, List.filter_cons_of_pos (by simpa using hik), Tab.get]
      split
      · rfl
      · split
        · rfl
        · rename_i h1 h2
          rw [if_neg h1, if_neg h2] at hd
          exact ih hd

/-- A launch has been given up: it is masked or no longer there. -/
def State.launchGone (s : State) (key : Nat) : Prop := key ∉ Tab.keys s.launches ∨ (s.launchOf key).phase = .masked

theorem State.launchGone_congr {s t : State} (h : t.launches = s.launches) (key : Nat) :
    t.launchGone key ↔ s.launchGone key := by
  rw [State.launchGone, State.launchGone, State.launchOf, State.launchOf, h]

theorem State.launchGone_drop {s t : State} {key j : Nat} (h : t.launches = Tab.drop s.launches key)
    (hj : j = key ∨ s.launchGone j) : t.launchGone j := by
  by_cases hjk : j = key
  · exact .inl fun hmem => (Tab.keys_drop (h ▸ hmem)).1 hjk
  · rcases hj.resolve_left hjk with hj | hj
    · exact .inl fun hmem => hj (Tab.keys_drop (h ▸ hmem)).2
    · refine .inr ?_
      rw [State.launchOf, h, Tab.get_drop hjk]
      · exact hj
      · intro hd
        rw [State.launchOf, hd] at hj
        exact absurd hj (by decide)

theorem State.launchGone_put {s t : State} {key j : Nat} {l : Launch} (h : t.launches = Tab.put s.launches key l)
    (hl : l.phase = .masked) (hj : j = key ∨ s.launchGone j) : t.launchGone j := by
  by_cases hjk : j = key
  · subst hjk
    exact .inr (by rw [State.launchOf, h, Tab.get_put_same, hl])
  · rcases hj.resolve_left hjk with hj | hj
    · exact .inl fun hmem => hj ((Tab.keys_put (h ▸ hmem)).resolve_left hjk)
    · exact .inr (by rw [State.launchOf, h, Tab.get_put_ne _ _ _ hjk]; exact hj)

/-- A reading of the state that no launch changes when it is stopped. -/
structure Unstopped {β : Type} (p : State → β) : Prop where
  region : ∀ s r g, p (State.setRegion s r g) = p s
  launches : ∀ (s : State) ls, p { s with launches := ls } = p s
  started : ∀ (s : State) k l, p (s.setCore k ((s.core k).started l)) = p s
  hand : ∀ (s : State) k ch h, p (s.setHand k ch h) = p s

namespace Unstopped
variable {β : Type} {p : State → β} (hp : Unstopped p)
include hp

theorem unquiet (s : State) (key : Nat) : p (s.unquiet key) = p s := by
  unfold State.unquiet
  split
  · exact State.releaseQuiet_keeps hp.region s _
  · rfl

theorem giveUp (s : State) (key : Nat) : p (s.giveUp key) = p s := by
  simp only [State.giveUp]
  split
  · exact hp.unquiet s key
  · exact State.foldl_keeps (fun s k => hp.started s k key) _ s
  · rfl

theorem maskLaunch (s : State) (key : Nat) : p (s.maskLaunch key) = p s := by
  refine (hp.launches _ _).trans (State.foldl_keeps (fun s e => ?_) _ s)
  dsimp only
  split
  · exact hp.hand _ _ _ _
  · rfl

theorem stopLaunch (s : State) (key : Nat) : p (s.stopLaunch key) = p s := by
  simp only [State.stopLaunch]
  split
  · rfl
  · exact hp.launches _ _
  · exact (hp.launches (s.unquiet key) _).trans (hp.unquiet s key)
  · exact (hp.maskLaunch _ key).trans ((hp.launches (s.giveUp key) _).trans (hp.giveUp s key))

theorem stopLaunches (l : List Nat) (s : State) : p (l.foldl State.stopLaunch s) = p s :=
  State.foldl_keeps hp.stopLaunch l s

theorem markExit (s : State) (tag : Nat) : p (s.markExit tag) = p s :=
  State.foldl_keeps (fun s r => hp.region s r _) _ s

end Unstopped

theorem unstopped_queues : Unstopped State.queues := ⟨fun _ _ _ => rfl, fun _ _ => rfl, fun _ _ _ => rfl, fun _ _ _ _ => rfl⟩

theorem unstopped_mem : Unstopped State.mem := ⟨fun _ _ _ => rfl, fun _ _ => rfl, fun _ _ _ => rfl, fun _ _ _ _ => rfl⟩

/-- A core replaced by one with the same register space. -/
theorem State.reg_setCore {s : State} {k : Nat} {c : Core} (h : c.reg = (s.core k).reg) (j : Nat) :
    ((s.setCore k c).core j).reg = (s.core j).reg := by
  by_cases hj : j = k
  · subst hj; rw [State.core_setCore_same, h]
  · rw [State.core_setCore_ne _ _ hj]

theorem State.reg_setHand (s : State) (k ch : Nat) (h : Handler) (j : Nat) :
    ((s.setHand k ch h).core j).reg = (s.core j).reg := State.reg_setCore (by rfl) j

theorem unstopped_reg (k : Nat) : Unstopped fun s => (s.core k).reg :=
  ⟨fun _ _ _ => rfl, fun _ _ => rfl, fun _ _ _ => State.reg_setCore (by rfl) k, fun s i ch h => s.reg_setHand i ch h k⟩

/-- Masking a launch leaves the others. -/
theorem State.maskLaunch_setLaunch_launches (s : State) (key : Nat) (l : Launch) :
    ((s.setLaunch key l).maskLaunch key).launches = Tab.put s.launches key { l with phase := .masked, mould := [] } := by
  have hl : (s.setLaunch key l).launchOf key = l := State.launchOf_setLaunch s key l
  rw [State.maskLaunch, hl]
  exact (congrArg (Tab.put · key _) (State.foldl_keeps (p := State.launches) (fun s e => by
    dsimp only; split <;> rfl) _ _)).trans (Tab.put_put _ _ _ _)

theorem State.giveUp_launches (s : State) (key : Nat) : (s.giveUp key).launches = s.launches := by
  simp only [State.giveUp]
  split
  · unfold State.unquiet
    split
    · exact State.releaseQuiet_launches _ _
    · rfl
  · exact State.foldl_keeps (p := State.launches) (fun _ _ => by rfl) _ s
  · rfl

/-- A launch of a draining queue that is stopped is given up, and no other one comes back. -/
theorem State.stopLaunch_gone {s : State} {key j : Nat} (hj : j = key ∨ s.launchGone j) : (s.stopLaunch key).launchGone j := by
  simp only [State.stopLaunch]
  split
  · next h => exact hj.elim (fun hj => hj ▸ .inr h) id
  · exact State.launchGone_drop rfl hj
  · exact State.launchGone_drop rfl hj
  · exact State.launchGone_put ((State.maskLaunch_setLaunch_launches _ _ _).trans
      (congrArg (Tab.put · key _) (s.giveUp_launches key))) rfl hj

theorem State.stopLaunches_gone {l : List Nat} {s : State} {j : Nat} (hj : j ∈ l ∨ s.launchGone j) :
    (l.foldl State.stopLaunch s).launchGone j := by
  induction l generalizing s with
  | nil => exact hj.resolve_left List.not_mem_nil
  | cons key l ih =>
    refine ih ?_
    by_cases hjk : j = key
    · exact .inr (State.stopLaunch_gone (.inl hjk))
    · exact hj.imp (fun h => (List.mem_cons.1 h).resolve_left hjk) fun h => State.stopLaunch_gone (.inr h)

/-! ### TEARDOWN and RESET (02: R45) -/

/-- Ending items changes of a queue its items and its finished numbers alone. -/
theorem Queue.foldl_finish {β : Type} {f : Queue → β}
    (hf : ∀ (x : Queue) i d e, f { x with items := i, doneh := d, ended := e } = f x) (l : List Nat) (x : Queue) :
    f (l.foldl Queue.finish x) = f x :=
  List.foldlRecOn l Queue.finish (motive := fun y => f y = f x) rfl fun y hy _ _ => (hf y _ _ _).trans hy

/-- The queue that TEARDOWN or RESET leaves draining. -/
def State.draining (s : State) (q cmd : Nat) : Queue :=
  let x := s.queue q
  { (s.unstarted q).foldl Queue.finish x with
    st := 3, cmd := cmd, nDiscarded := x.nDiscarded + (s.unstarted q).length
    nSuppressed := x.nSuppressed + (x.items.length - (s.unstarted q).length) }

/-- The queue drains and its launches are stopped; its graphs are not halted yet. -/
def State.stopped (s : State) (q cmd : Nat) : State :=
  ((s.launches.filter fun e => e.2.queue = q).map Prod.fst).foldl State.stopLaunch (s.setQueue q (s.draining q cmd))

theorem State.drain_open {s : State} {q : Nat} (h : (s.queue q).st = 1 ∨ (s.queue q).st = 2) (cmd : Nat) :
    s.drain q cmd = ({ s.stopped q cmd with graphs := (s.stopped q cmd).graphs.map fun e =>
      if e.2.queue = q then (e.1, { e.2 with halted := true }) else e } : State).markExit (s.queue q).tag := by
  have hopen : ¬((s.queue q).st ≠ 1 && (s.queue q).st ≠ 2) = true := by rcases h with h | h <;> simp [h]
  simp only [State.drain, if_neg hopen, State.stopped, State.draining, State.setQueue_launches]

/-- What stopping launches leaves, and the writing of the queue, TEARDOWN and RESET leave. -/
theorem Unstopped.drain {β : Type} {p : State → β} (hp : Unstopped p) (hg : ∀ (s : State) gs, p { s with graphs := gs } = p s)
    {s : State} {q : Nat} (h : (s.queue q).st = 1 ∨ (s.queue q).st = 2) (cmd : Nat) :
    p (s.drain q cmd) = p (s.setQueue q (s.draining q cmd)) := by
  rw [State.drain_open h, hp.markExit, hg]
  exact hp.stopLaunches _ _

theorem State.drain_queue {s : State} {q : Nat} (h : (s.queue q).st = 1 ∨ (s.queue q).st = 2) (cmd : Nat) :
    (s.drain q cmd).queue q = s.draining q cmd := by
  rw [State.queue, unstopped_queues.drain (fun _ _ => rfl) h]
  exact State.queue_setQueue_same s q _

theorem State.drain_halts {s : State} {q : Nat} (h : (s.queue q).st = 1 ∨ (s.queue q).st = 2) (cmd : Nat) :
    ∀ e ∈ (s.drain q cmd).graphs, e.2.queue = q → e.2.halted = true := by
  rw [State.drain_open h, State.markExit, State.foldl_keeps (p := State.graphs) (fun _ _ => by rfl)]
  intro e he hq
  obtain ⟨e', -, rfl⟩ := List.mem_map.1 he
  by_cases h' : e'.2.queue = q
  · rw [if_pos h']
  · rw [if_neg h'] at hq; exact absurd hq h'

/-- The launches of the queue are masked or gone. -/
theorem State.drain_gone {s : State} {q : Nat} (h : (s.queue q).st = 1 ∨ (s.queue q).st = 2) (cmd : Nat)
    {e : Nat × Launch} (he : e ∈ s.launches) (hq : e.2.queue = q) : (s.drain q cmd).launchGone e.1 := by
  have hl : (s.drain q cmd).launches = (s.stopped q cmd).launches := by
    rw [State.drain_open h, State.markExit, State.foldl_keeps (p := State.launches) (fun _ _ => by rfl)]
  rw [State.launchGone_congr hl]
  exact State.stopLaunches_gone (.inl (List.mem_map_of_mem (List.mem_filter.2 ⟨he, by simpa using hq⟩)))

/-- Without launches no core changes. -/
theorem State.drain_cores {s : State} {q : Nat} (h : (s.queue q).st = 1 ∨ (s.queue q).st = 2) (cmd : Nat)
    (hl : s.launches = []) : (s.drain q cmd).cores = s.cores := by
  have hstop : s.stopped q cmd = s.setQueue q (s.draining q cmd) := by simp [State.stopped, hl]
  rw [State.drain_open h, State.markExit, State.foldl_keeps (p := State.cores) (fun _ _ => by rfl), hstop]
  exact unreported_cores.setQueue s q _

theorem State.drain_mem {s : State} {q : Nat} (h : (s.queue q).st = 1 ∨ (s.queue q).st = 2) (cmd : Nat)
    (hp : (s.queue q).place = none) : (s.drain q cmd).mem = s.mem := by
  have hplace : (s.draining q cmd).place = none :=
    (Queue.foldl_finish (f := Queue.place) (fun _ _ _ _ => rfl) _ _).trans hp
  rw [unstopped_mem.drain (fun _ _ => rfl) h, State.setQueue, hplace]

theorem State.drain_reg {s : State} {q : Nat} (h : (s.queue q).st = 1 ∨ (s.queue q).st = 2) (cmd k : Nat) :
    ((s.drain q cmd).core k).reg = (s.core k).reg := by
  rw [(unstopped_reg k).drain (fun _ _ => rfl) h, State.core, unreported_cores.setQueue]
  rfl

/-! ### REPLAY (02: R47) -/

/-- Where every record after CHEAD is kept, REPLAY writes the kept records again. -/
theorem State.replay_kept {s : State} {q : Nat} (h0 : (s.queue q).st ≠ 0) (h3 : (s.queue q).st ≠ 3)
    (hk : ∀ w ∈ (s.queue q).kept, before (s.queue q).chead (bits (nth 0 w 0) 0 32) = true)
    (hb : before (s.queue q).chead (s.queue q).cseq = true)
    (hn : ahead (s.queue q).cseq (s.queue q).chead ≤ (s.queue q).kept.length) :
    s.replay q = (s.queue q).kept.foldl (fun s w => s.compSlot q (bits (nth 0 w 0) 0 32) w) s := by
  have hruns : ¬((s.queue q).st = 3 || (s.queue q).st = 0) = true := by simp [h0, h3]
  simp only [State.replay, if_neg hruns, hb, if_true, List.filter_eq_self.2 hk, if_neg (not_lt.2 hn)]

/-! ### The end of a drain (02: R45, R46) -/

/-- A queue whose drain ends: TORN, or OPEN and counting from TAIL. -/
def Queue.afterDrain (x : Queue) : Queue :=
  if x.cmd = 1 then { x with st := 4, items := [] }
  else { x with
    st := 1, items := [], ended := [], consumed := x.tail, doneh := x.tail, nDispatched := 0, nCompleted := 0, nSuppressed := 0,
    nDiscarded := 0 }

theorem Queue.afterDrain_items (x : Queue) : x.afterDrain.items = [] := by
  unfold Queue.afterDrain; split <;> rfl

theorem Queue.afterDrain_torn {x : Queue} (h : x.cmd = 1) : x.afterDrain = { x with st := 4, items := [] } := if_pos h

theorem Queue.afterDrain_reset {x : Queue} (h : x.cmd ≠ 1) : x.afterDrain = { x with
    st := 1, items := [], ended := [], consumed := x.tail, doneh := x.tail, nDispatched := 0, nCompleted := 0, nSuppressed := 0,
    nDiscarded := 0 } := if_neg h

/-- The graphs of a queue are gone. -/
def State.withoutGraphs (s : State) (q : Nat) : State := { s with graphs := s.graphs.filter fun e => e.2.queue ≠ q }

theorem State.drained_eq (s : State) (q : Nat) : ∃ ws, s.drained q =
    ((s.tell q ws).withoutGraphs q).setQueue q ((s.tell q ws).queue q).afterDrain :=
  ⟨_, (apply_ite (State.setQueue _ q) _ _ _).symm⟩

/-- What is left when a queue has drained: none of its graphs and items, every core and launch, and the queue TORN, or OPEN
and counting from TAIL. -/
theorem State.drained_spec (s : State) (q : Nat) :
    let u := s.drained q
    (∀ e ∈ u.graphs, e.2.queue ≠ q) ∧ u.cores = s.cores ∧ u.launches = s.launches ∧ (u.queue q).items = [] ∧
      ((s.queue q).cmd = 1 → (u.queue q).st = 4) ∧
      ((s.queue q).cmd ≠ 1 → (u.queue q).st = 1 ∧ (u.queue q).consumed = (s.queue q).tail ∧
        (u.queue q).doneh = (s.queue q).tail ∧ (u.queue q).nDispatched = 0 ∧ (u.queue q).nCompleted = 0) := by
  obtain ⟨ws, hu⟩ := s.drained_eq q
  have hcmd : ((s.tell q ws).queue q).cmd = (s.queue q).cmd := State.tell_queue (f := Queue.cmd) (fun _ _ _ _ _ => rfl) s q ws
  have htail : ((s.tell q ws).queue q).tail = (s.queue q).tail :=
    State.tell_queue (f := Queue.tail) (fun _ _ _ _ _ => rfl) s q ws
  have hcores := unreported_cores.tell s q ws
  have hlaunches := unreported_launches.tell s q ws
  simp only [hu, State.queue_setQueue_same]
  refine ⟨?_, (unreported_cores.setQueue _ q _).trans hcores, (unreported_launches.setQueue _ q _).trans hlaunches,
    Queue.afterDrain_items _, fun h => ?_, fun h => ?_⟩
  · rw [unreported_graphs.setQueue]
    exact fun e he => by simpa using (List.mem_filter.1 he).2
  · rw [Queue.afterDrain_torn (hcmd.trans h)]
  · rw [Queue.afterDrain_reset (hcmd.trans_ne h), ← htail]
    exact ⟨rfl, rfl, rfl, rfl, rfl⟩

/-! ### ABORT (02: R45) -/

/-- The cores on which activations of a queue's launches run. -/
def State.runningCores (s : State) (q : Nat) : List Nat :=
  (s.launches.filter fun e => e.2.queue = q).flatMap fun e => e.2.cores.filter fun k =>
    (s.core k).ch.any fun ch => ((s.core k).hand ch).launch = e.1

theorem State.abort_draining {s : State} {q : Nat} (h : (s.queue q).st = 3) :
    s.abort q = ((dedup (s.runningCores q)).foldl (fun s k => (s.endNow k).invalidateOn k) s).drained q :=
  if_neg (by simp [h])

theorem State.runningCores_idle {s : State} {q : Nat} (hr : s.queueRuns q = false) : s.runningCores q = [] := by
  refine List.flatMap_eq_nil_iff.2 fun e he => List.filter_eq_nil_iff.2 fun k hk hrun => ?_
  obtain ⟨he, hq⟩ := List.mem_filter.1 he
  have hruns : s.queueRuns q = true := List.any_eq_true.2 ⟨e, he, by
    rw [Bool.and_eq_true]; exact ⟨hq, List.any_eq_true.2 ⟨k, hk, hrun⟩⟩⟩
  rw [hr] at hruns
  exact absurd hruns (by decide)

/-- Where no activation of the queue runs, ABORT ends the drain and nothing else. -/
theorem State.abort_idle {s : State} {q : Nat} (h : (s.queue q).st = 3) (hr : s.queueRuns q = false) :
    s.abort q = s.drained q := by
  rw [State.abort_draining h, State.runningCores_idle hr]
  rfl

theorem execDrainComplete_idle {s : State} {q : Nat} (h : (s.queue q).st = 3) (hr : s.queueRuns q = false) :
    execDrainComplete q s = .next (s.drained q) := by
  simp [execDrainComplete, h, hr]

/-- Two states whose units hold the same, with the same launches and queues. -/
structure State.SameUnits (s t : State) : Prop where
  core : ∀ k, t.core k = s.core k
  cluster : ∀ p, t.cluster p = s.cluster p
  launches : t.launches = s.launches
  queues : t.queues = s.queues

namespace State.SameUnits

theorem refl (s : State) : s.SameUnits s := ⟨fun _ => rfl, fun _ => rfl, rfl, rfl⟩

theorem trans {s t u : State} (h : s.SameUnits t) (g : t.SameUnits u) : s.SameUnits u :=
  ⟨fun k => (g.core k).trans (h.core k), fun p => (g.cluster p).trans (h.cluster p), g.launches.trans h.launches,
    g.queues.trans h.queues⟩

/-- A core replaced by itself. -/
theorem setCore {s : State} {k : Nat} {c : Core} (h : c = s.core k) : s.SameUnits (s.setCore k c) := by
  refine ⟨fun j => ?_, fun _ => rfl, rfl, rfl⟩
  by_cases hj : j = k
  · subst hj; rw [State.core_setCore_same, h]
  · rw [State.core_setCore_ne _ _ hj]

/-- A cluster replaced by itself. -/
theorem setCluster {s : State} {p : Nat} {c : Cluster} (h : c = s.cluster p) : s.SameUnits (s.setCluster p c) := by
  refine ⟨fun _ => rfl, fun j => ?_, rfl, rfl⟩
  by_cases hj : j = p
  · subst hj; rw [State.cluster_setCluster_same, h]
  · rw [State.cluster_setCluster_ne _ _ hj]

end State.SameUnits

/-- A core has no operation: none queued, none in the bay, none stopped by a fault. -/
structure State.NoOps (s : State) (k : Nat) : Prop where
  dispq : (s.core k).dispq = []
  inflight : (s.cluster (corePos k)).inflightOf (coreNo k) = []
  stuck : (s.core k).stuck = []

theorem State.noOps_of_opsOf {s : State} {k : Nat} (h : s.opsOf k = []) : s.NoOps k := by
  simp only [State.opsOf, List.append_eq_nil_iff, List.map_eq_nil_iff] at h
  obtain ⟨⟨hd, hi⟩, hs⟩ := h
  exact ⟨hd, hi, hs⟩

theorem State.NoOps.opsOf {s : State} {k : Nat} (h : s.NoOps k) : s.opsOf k = [] := by
  simp [State.opsOf, h.dispq, h.inflight, h.stuck]

theorem State.NoOps.same {s t : State} {k : Nat} (h : s.NoOps k) (g : s.SameUnits t) : t.NoOps k :=
  ⟨by rw [g.core]; exact h.dispq, by rw [g.cluster]; exact h.inflight, by rw [g.core]; exact h.stuck⟩

theorem insertOp_ne_nil (o : EngOp) (l : List EngOp) : insertOp o l ≠ [] := by
  cases l with
  | nil => simp [insertOp]
  | cons p l => simp only [insertOp]; split <;> simp

/-- A core with nothing in the bay has no operation on any engine. -/
theorem Cluster.not_mem_of_inflightOf {cl : Cluster} {c : Nat} (h : cl.inflightOf c = []) {x : Nat × List (Nat × EngOp)}
    (hx : x ∈ cl.inflight) {o : Nat × EngOp} (ho : o ∈ x.2) : o.1 ≠ c := by
  intro hc
  unfold Cluster.inflightOf at h
  generalize hl : (cl.inflight.flatMap fun x => (x.2.filter fun o => o.1 = c).map Prod.snd) = l at h
  have hmem : o.2 ∈ l := by
    rw [← hl]
    exact List.mem_flatMap.2 ⟨x, hx, List.mem_map_of_mem (List.mem_filter.2 ⟨ho, by simpa using hc⟩)⟩
  cases l with
  | nil => simp at hmem
  | cons p l => exact insertOp_ne_nil p _ h

theorem Cluster.without_of_inflightOf {cl : Cluster} {c : Nat} (h : cl.inflightOf c = []) (e : Nat) : cl.without c e = cl := by
  have hmap : (cl.inflight.map fun x => (x.1, x.2.filter fun o => !(o.1 = c && o.2.engs.contains e))) = cl.inflight := by
    refine (List.map_congr_left fun x hx => ?_).trans (List.map_id _)
    have hf : (x.2.filter fun o => !(o.1 = c && o.2.engs.contains e)) = x.2 :=
      List.filter_eq_self.2 fun o ho => by simp [Cluster.not_mem_of_inflightOf h hx ho]
    rw [hf]; rfl
  rw [Cluster.without, hmap]

/-- A unit of a table is listed, or has the default. -/
theorem Tab.get_mem {α : Type} (d : α) (t : Tab α) (k : Nat) : Tab.get d t k = d ∨ ∃ x ∈ t, x.2 = Tab.get d t k := by
  induction t with
  | nil => exact .inl rfl
  | cons e t ih =>
    simp only [Tab.get]
    split
    · exact .inr ⟨e, List.mem_cons_self, rfl⟩
    · split
      · exact .inl rfl
      · exact ih.imp_right fun ⟨x, hx, h⟩ => ⟨x, List.mem_cons_of_mem _ hx, h⟩

/-- The head operation of an engine is not one of a core without operations. -/
theorem State.NoOps.running {s : State} {k : Nat} (h : s.NoOps k) {e : Nat} {o : Nat × EngOp}
    (ho : s.running (corePos k) e = some o) : o.1 ≠ k := by
  intro hk
  unfold State.running at ho
  split at ho
  · cases ho
  · next c op rest hq =>
    dsimp only at ho
    split at ho
    · cases ho
    · cases ho
      have hc : c = coreNo k := by simp only [corePos, coreNo] at hk ⊢; omega
      rcases Tab.get_mem [] (s.cluster (corePos k)).inflight e with h0 | ⟨x, hx, hxe⟩
      · rw [hq] at h0; cases h0
      · exact Cluster.not_mem_of_inflightOf h.inflight hx (by rw [hxe, hq]; exact List.mem_cons_self) hc

/-- A fold of steps that leave the start leaves it. -/
theorem foldl_fixed {α β : Type} {f : β → α → β} {b : β} (hf : ∀ a, f b a = b) (l : List α) : l.foldl f b = b :=
  List.foldlRecOn l f (motive := fun c => c = b) rfl fun c hc a _ => by rw [hc, hf]

/-- No operation of the core is there to run to its end. -/
theorem State.NoOps.finishOps {s : State} {k : Nat} (h : s.NoOps k) (n : Nat) : s.finishOps k n = s := by
  cases n with
  | zero => rfl
  | succ n =>
    have hrun : ∀ f : State → Nat → State, (∀ e, f s e = s) → (span 0 8).foldl f s = s := fun f hf =>
      foldl_fixed hf _
    simp only [State.finishOps]
    rw [hrun _ fun e => ?_, h.opsOf]
    · rfl
    · split
      · next j op hr => exact if_neg (h.running hr)
      · rfl

theorem State.syncOps_nil (s : State) (k : Nat) : s.syncOps k [] = s := rfl

theorem State.NoOps.dropQueued {s : State} {k : Nat} (h : s.NoOps k) (e : Nat) : s.SameUnits (s.dropQueued k e) := by
  simp only [State.dropQueued, h.dispq, List.filter_nil, List.foldl_nil, State.syncOps_nil]
  exact .setCore (by rw [← h.dispq])

/-- Stopping an engine for a core without operations changes nothing. -/
theorem State.NoOps.stopEngine {s : State} {k : Nat} (h : s.NoOps k) (e : Nat) (go : State → EngOp → OpEnd) :
    s.SameUnits (s.stopEngine k e go).2 := by
  have hcl : s.SameUnits (s.setCluster (corePos k) ((s.cluster (corePos k)).without (coreNo k) e)) :=
    .setCluster (Cluster.without_of_inflightOf h.inflight e)
  simp only [State.stopEngine, h.inflight, h.stuck, List.filter_nil, List.map_nil, Tab.get, List.foldl_nil, State.syncOps_nil]
  generalize s.setCluster _ _ = t at hcl ⊢
  have ht := h.same hcl
  have hst : t.SameUnits (t.setCore k { t.core k with stuck := [] }) := .setCore (by rw [← ht.stuck])
  exact (hcl.trans hst).trans ((ht.same hst).dropQueued e)

theorem Core.slotsFree.map {c : Core} (h : c.slotsFree) (f : Slot → Slot) : (c.slots.map fun l => l.map f) = c.slots := by
  rw [show c.slots = List.replicate 8 none from h]; rfl

theorem Core.slotsFree.inUse {c : Core} (h : c.slotsFree) : c.inUse = [] := by
  rw [Core.inUse, show c.slots = List.replicate 8 none from h]; rfl

/-- A core without operations and loads has nothing left to abandon. -/
theorem State.NoOps.abandonRest {s : State} {k : Nat} (h : s.NoOps k) (hs : (s.core k).slotsFree) :
    s.SameUnits (s.abandonRest k) := by
  have hstop : s.SameUnits ((span 0 8).foldl (fun s e => (s.stopEngine k e (State.cutOp k 0)).2) s) :=
    List.foldlRecOn _ _ (motive := s.SameUnits) (.refl s) fun t ht e _ => ht.trans ((h.same ht).stopEngine e _)
  simp only [State.abandonRest]
  generalize (span 0 8).foldl _ s = t at hstop ⊢
  have htfree : (t.core k).slotsFree := by rw [hstop.core]; exact hs
  have hfill : t.SameUnits (t.fillWords k []) := .setCore rfl
  simp only [htfree.inUse, List.filter_nil, List.map_nil]
  generalize t.fillWords k [] = v at hfill ⊢
  have hvfree : (v.core k).slotsFree := by rw [hfill.core]; exact htfree
  exact (hstop.trans hfill).trans (.setCore (by rw [hvfree.map]))

/-- An activation that has met no trap has nothing to discard. -/
theorem State.discard_idle {s : State} {k : Nat} (hd : (s.core k).due = []) (hs : (s.core k).stuck = []) :
    s.discard k none = s.setCore k { s.core k with due := [], sbHeld := none } := by
  simp only [State.discard, hd, hs, List.filter_nil, List.map_nil, List.foldl_nil]
  rfl

/-! ### The end of an activation, and what it leaves of the rest (01: R19) -/

theorem State.uncountBufs_launches (s : State) (k : Nat) (h : Handler) (which : Nat → Bool) :
    (s.uncountBufs k h which).launches = s.launches :=
  State.foldl_keeps (p := State.launches) (fun s _ => (rfl : (s.uncount _ _).launches = s.launches)) _ s

theorem State.uncountBufs_queues (s : State) (k : Nat) (h : Handler) (which : Nat → Bool) :
    (s.uncountBufs k h which).queues = s.queues :=
  State.foldl_keeps (p := State.queues) (fun s _ => (rfl : (s.uncount _ _).queues = s.queues)) _ s

/-- The end of an activation leaves the leases' states. -/
theorem Core.leave_lease (c : Core) (e : Nat) : (c.leave.lease e).st = (c.lease e).st := by
  rw [Core.lease, Core.leave, Tab.get_map (d := ({} : Lease)) (f := fun l => { l with yieldDone := none }) rfl]
  rfl

/-- The end of the activation of a core outside a pair, with no message waiting, leaves the register space of every core, the
leases, launches and queues (01: R19; 07: R135). -/
theorem State.endActivation_keeps {s : State} {k ch : Nat} (hch : (s.core k).ch = some ch) (hp : (s.core k).pair = .alone)
    (ht : (s.cluster (corePos k)).traceOn = false) (hi : ∀ vc, s.inq (corePos k) vc = []) (kind : Nat) :
    let u := s.endActivation k kind
    (∀ j, (u.core j).reg = (s.core j).reg) ∧ (∀ e, ((u.core k).lease e).st = ((s.core k).lease e).st) ∧
      u.launches = s.launches ∧ u.queues = s.queues := by
  obtain ⟨es, he, -⟩ := State.endEntry_noHeld hi ch
  simp only [State.endActivation, hch, State.trace_off ht, he]
  generalize hv : State.setHand _ k ch _ = v
  have hcore := fun {α : Type} (f : Core → α) hf j =>
    State.uncountBufs_core (f := f) hf v k ((s.core k).hand ch) (fun _ => true) j
  have hk : v.core k = { s.core k with
      hands := Tab.put (s.core k).hands ch { ((s.core k).hand ch).clear with life := .filling } } := by
    rw [← hv]; exact State.core_setHand_same _ _ _ _
  have hreg (j : Nat) : (v.core j).reg = (s.core j).reg := by
    rw [← hv]; exact State.reg_setHand _ k ch _ j
  have hpair := hcore Core.pair (fun _ _ _ => rfl) k
  rw [State.mirror_alone (by simpa [Core.leave, hk, hp] using hpair)]
  refine ⟨fun j => ?_, fun e => ?_, ?_, ?_⟩
  · exact (State.reg_setCore (by rfl) j).trans ((hcore Core.reg (fun _ _ _ => rfl) j).trans (hreg j))
  · rw [State.core_setCore_same]
    refine (Core.leave_lease _ e).trans ((hcore (fun c => (c.lease e).st) (fun _ _ _ => rfl) k).trans ?_)
    rw [hk]; rfl
  · rw [State.setCore_launches, State.uncountBufs_launches, ← hv]; rfl
  · rw [State.setCore_queues, State.uncountBufs_queues, ← hv]; rfl

/-- What lets the island end the activation of core `k` on channel `ch` without meeting anything of it under way. -/
structure State.RunsAlone (s : State) (k ch : Nat) : Prop where
  ch : (s.core k).ch = some ch
  pair : (s.core k).pair = .alone
  trapped : (s.core k).trapped = none
  due : (s.core k).due = []
  slots : (s.core k).slotsFree
  ops : s.opsOf k = []
  trace : (s.cluster (corePos k)).traceOn = false
  inq : ∀ vc, s.inq (corePos k) vc = []

/-- What the island finds when it ends such an activation: every unit as it was, but that no cause is due and no store held. -/
structure State.Quieted (s : State) (k : Nat) (t : State) : Prop where
  core : t.core k = { s.core k with due := [], sbHeld := none }
  reg : ∀ j, (t.core j).reg = (s.core j).reg
  cluster : ∀ p, t.cluster p = s.cluster p
  launches : t.launches = s.launches
  queues : t.queues = s.queues

theorem State.RunsAlone.quieted {s : State} {k ch : Nat} (h : s.RunsAlone k ch) :
    s.Quieted k (((s.discard k none).finishOps k 16).abandonRest k) := by
  have hno := State.noOps_of_opsOf h.ops
  rw [State.discard_idle h.due hno.stuck]
  generalize hd : s.setCore k { s.core k with due := [], sbHeld := none } = d
  have hdk : d.core k = { s.core k with due := [], sbHeld := none } := by rw [← hd, State.core_setCore_same]
  have hdno : d.NoOps k := ⟨by rw [hdk]; exact hno.dispq, by rw [← hd]; exact hno.inflight, by rw [hdk]; exact hno.stuck⟩
  have hsame : d.SameUnits ((d.finishOps k 16).abandonRest k) := by
    rw [hdno.finishOps]
    exact hdno.abandonRest (by rw [hdk]; exact h.slots)
  refine ⟨(hsame.core k).trans hdk, fun j => ?_, fun p => ?_, ?_, ?_⟩
  · rw [hsame.core, ← hd]; exact State.reg_setCore (by rfl) j
  · rw [hsame.cluster, ← hd]; rfl
  · rw [hsame.launches, ← hd]; rfl
  · rw [hsame.queues, ← hd]; rfl

theorem State.RunsAlone.endNow_eq {s : State} {k ch : Nat} (h : s.RunsAlone k ch) :
    s.endNow k = (((s.discard k none).finishOps k 16).abandonRest k).endActivation k 3 := by
  have hruns : ¬((s.core k).ch.isNone || (s.core k).pair == .second) = true := by simp [h.ch, h.pair]
  rw [State.endNow, if_neg hruns, h.trapped]
  rfl

/-- Such an activation ends with its entry FILLING; register spaces, leases, launches and queues stay (01: R19; 02: R45). -/
theorem State.RunsAlone.endNow {s : State} {k ch : Nat} (h : s.RunsAlone k ch) :
    let u := s.endNow k
    (u.core k).ch = none ∧ (u.core k).hand ch = { ((s.core k).hand ch).clear with life := .filling } ∧
      (∀ j, (u.core j).reg = (s.core j).reg) ∧ (∀ e, ((u.core k).lease e).st = ((s.core k).lease e).st) ∧
      u.launches = s.launches ∧ u.queues = s.queues := by
  have hq := h.quieted
  rw [h.endNow_eq]
  generalize ((s.discard k none).finishOps k 16).abandonRest k = t at hq ⊢
  obtain ⟨hcore, hreg, hcluster, hlaunches, hqueues⟩ := hq
  have htch : (t.core k).ch = some ch := by rw [hcore]; exact h.ch
  have htpair : (t.core k).pair = .alone := by rw [hcore]; exact h.pair
  have httrace : (t.cluster (corePos k)).traceOn = false := by rw [hcluster]; exact h.trace
  have htinq (vc : Nat) : t.inq (corePos k) vc = [] := by rw [State.inq, hcluster]; exact h.inq vc
  obtain ⟨hch, hhand, -⟩ := State.endActivation_noHeld htch htpair httrace htinq 3
  obtain ⟨hureg, hulease, hulaunches, huqueues⟩ := State.endActivation_keeps htch htpair httrace htinq 3
  rw [hcore] at hhand hulease
  exact ⟨hch, hhand, fun j => (hureg j).trans (hreg j), hulease, hulaunches.trans hlaunches, huqueues.trans hqueues⟩

/-! ### The entries of an aborted launch (02: R36, R45) -/

theorem State.dropHeld_keeps {β : Type} {p : State → β} (hp : ∀ s q c, p (State.setCluster s q c) = p s) (s : State)
    (k ch : Nat) : p (s.dropHeld k ch) = p s :=
  State.foldl_keeps (fun s _ => hp s _ _) _ s

/-- The only launch, masked, with its only entry on a core: its messages go where it has not been reported, the entry is
invalid, and the launch is gone. -/
theorem State.invalidateOn_only {s : State} {k ch key : Nat} {l : Launch} (hl : s.launches = [(key, l)])
    (hph : l.phase = .masked) (hcs : l.cores = [k]) (hes : l.entries = [(k, ch)])
    (hv : ((s.core k).hand ch).valid = true) (hk : ((s.core k).hand ch).launch = key)
    (he : ∀ e, ((s.core k).lease e).st = .none) :
    s.invalidateOn k = State.setHand { (if l.reported then s else s.dropHeld k ch) with launches := [] } k ch {} := by
  generalize hd : (if l.reported then s else s.dropHeld k ch) = d
  have hcores : d.cores = s.cores := by
    rw [← hd]; split
    · rfl
    · exact State.dropHeld_keeps (p := State.cores) (fun _ _ _ => rfl) s k ch
  have hlaunches : d.launches = [(key, l)] := by
    rw [← hd, ← hl]; split
    · rfl
    · exact State.dropHeld_keeps (p := State.launches) (fun _ _ _ => rfl) s k ch
  have hfree := State.freeEngines_none (s := d.setHand k ch {}) (k := k) fun e => by
    rw [State.core_setHand_same, State.core, hcores]; exact he e
  have hdrop : Tab.drop (d.setHand k ch {}).launches key = [] := by simp [State.setHand, hlaunches, Tab.drop]
  have hmask : (s.launches.filter fun e => e.2.phase == .masked && e.2.cores.contains k) = [(key, l)] := by
    simp [hl, hph, hcs]
  simp only [State.invalidateOn, hmask, List.foldl_cons, List.foldl_nil, hes, hcs, hv, hk, State.invalidate, if_true,
    List.filter_cons, List.filter_nil, decide_true, Bool.and_self, hd, hfree, hdrop, ne_eq, not_true_eq_false, decide_false,
    Bool.false_eq_true, if_false, List.isEmpty_nil]
  rfl

/-- ABORT of a queue whose one launch, masked, has one activation that meets nothing of it under way: the activation ends, its
entry is invalid, and the launch is gone; register spaces stay (02: R45). -/
theorem State.abort_running {s : State} {q k ch key : Nat} {l : Launch} (hs : (s.queue q).st = 3)
    (hl : s.launches = [(key, l)]) (hq : l.queue = q) (hph : l.phase = .masked) (hcs : l.cores = [k])
    (hes : l.entries = [(k, ch)]) (hv : ((s.core k).hand ch).valid = true) (hk : ((s.core k).hand ch).launch = key)
    (hrun : s.RunsAlone k ch) (he : ∀ e, ((s.core k).lease e).st = .none) :
    let u := s.abort q
    (u.core k).ch = none ∧ (u.core k).hand ch = {} ∧ u.launches = [] ∧ (∀ j, (u.core j).reg = (s.core j).reg) ∧
      ((s.queue q).cmd = 1 → (u.queue q).st = 4) ∧ ((s.queue q).cmd ≠ 1 → (u.queue q).st = 1) := by
  obtain ⟨hch, hhand, hreg, hlease, hlaunches, hqueues⟩ := hrun.endNow
  have hks : s.runningCores q = [k] := by simp [State.runningCores, hl, hq, hcs, hrun.ch, hk]
  have hinv := State.invalidateOn_only (s := s.endNow k) (hlaunches.trans hl) hph hcs hes (by rw [hhand]; exact hv)
    (by rw [hhand]; exact hk) fun e => (hlease e).trans (he e)
  have habort : s.abort q = ((s.endNow k).invalidateOn k).drained q := by
    rw [State.abort_draining hs, hks]
    rfl
  rw [habort, hinv]
  generalize hd : (if l.reported then s.endNow k else (s.endNow k).dropHeld k ch) = d
  have hdkeeps {β : Type} (p : State → β) (hp : ∀ s q c, p (State.setCluster s q c) = p s) : p d = p (s.endNow k) := by
    rw [← hd]; split
    · rfl
    · exact State.dropHeld_keeps hp _ k ch
  have hcores : d.cores = (s.endNow k).cores := hdkeeps _ fun _ _ _ => rfl
  have hdq : d.queue q = s.queue q := by rw [State.queue, hdkeeps State.queues fun _ _ _ => rfl, hqueues]; rfl
  generalize hw : State.setHand { d with launches := [] } k ch {} = w
  obtain ⟨-, hucores, hulaunches, -, htorn, hreset⟩ := w.drained_spec q
  have hucore (j : Nat) : (w.drained q).core j = w.core j := by rw [State.core, hucores]; rfl
  have hwk : w.core k = { (s.endNow k).core k with hands := Tab.put ((s.endNow k).core k).hands ch {} } := by
    rw [← hw, State.core_setHand_same, State.core, hcores]; rfl
  have hwq : w.queue q = s.queue q := by rw [← hw]; exact hdq
  rw [hwq] at htorn hreset
  refine ⟨?_, ?_, ?_, fun j => ?_, htorn, fun h => (hreset h).1⟩
  · rw [hucore, hwk]; exact hch
  · rw [hucore, hwk]; exact Core.hand_put_same _ _ _
  · rw [hulaunches, ← hw]; rfl
  · rw [hucore, ← hw, State.reg_setHand, State.core, hcores]
    exact hreg j

end Sys2Proof.Machine

namespace Sys2Proof.Proofs
open Sys2Proof Sys2Proof.Machine

/-- Settles O47: each word of the host and each read of the sequencer changes its queue as its rule says; a drain stops every
launch of the queue, and ABORT, with its one activation ended and the entry invalid, leaves the queue as the drain's end does. -/
theorem queueSteps : Obligations.QueueSteps := by
  unfold Obligations.QueueSteps
  intro s q n x r h
  refine ⟨fun hst => ⟨congrArg _ (State.writeTail_open hst n), fun hp hr => congrArg _ (State.writeChead_idle hst hp hr n)⟩,
    fun bs hl hst ht hr => ⟨execWorkRecordRead_item hl hst ht hr, execWorkRecordRead_gap hl hst ht hr⟩, rfl,
    fun hst p hp => ?_, fun h0 h3 hk hb hn => congrArg _ (State.replay_kept h0 h3 hk hb hn), fun hst hr => ?_,
    fun hst => congrArg _ (if_pos hst), ?_⟩
  · have hexec : exec p.1 s = .next (s.drain q p.2) := by
      simp only [List.mem_cons, List.not_mem_nil, or_false] at hp
      rcases hp with rfl | rfl <;> rfl
    have hqueue := State.drain_queue hst p.2
    refine ⟨_, hexec, by rw [hqueue]; rfl, by rw [hqueue]; rfl, ?_, by rw [hqueue]; rfl, State.drain_mem hst p.2,
      State.drain_reg hst p.2, State.drain_halts hst p.2, fun e he hq => State.drain_gone hst p.2 he hq,
      fun hl => ⟨State.drain_cores hst p.2 hl, ?_⟩⟩
    · rw [hqueue]
      exact Queue.foldl_finish (f := Queue.tail) (fun _ _ _ _ => rfl) _ _
    · rw [hqueue]
      simp [State.draining, State.unstarted, hl, x]
  · obtain ⟨hg, hcores, -, hitems, htorn, hreset⟩ := s.drained_spec q
    exact ⟨_, execDrainComplete_idle hst hr, congrArg _ (State.abort_idle hst hr), hg, hcores, hitems, htorn, hreset⟩
  · intro k ch key l c hst hl hq hph hcs hes hch hv hk hp ht hstuck hdue hslots hops he htr hi
    obtain ⟨hend, hhand, hgone, hreg, htorn, hreset⟩ := State.abort_running hst hl hq hph hcs hes hv hk
      ⟨hch, hp, ht, hdue, hslots, hops, htr, hi⟩ he
    exact ⟨_, rfl, hend, hhand, hgone, congrArg RegSpace.words (hreg k), htorn, hreset, fun j _ => hreg j⟩

end Sys2Proof.Proofs

/-! SUPPORT. The map instructions (03: R56, R57; 08: R168), and the statement O34. -/

namespace Sys2Proof.Machine

/-! ### Results without sources (06: R104) -/

/-- Writing a result and retiring on a tile core. -/
theorem State.finish_tile {s : State} {k : Nat} (h : s.cur = .tile k) (len rd : Nat) (v : Word) (cs : Nat) :
    s.finish len rd v cs = s.setCore k ((s.core k).done .a [] rd v cs len) := by
  unfold State.finish State.setReg Core.done Core.wrote
  split
  · exact State.retire_tile h len
  · rw [h, State.retire_tile (k := k) (by simpa using h)]
    simp

/-- An instruction without sources whose result is a reading of its cluster. -/
theorem State.onTile_finish {s : State} {k rd : Nat} (h : s.tileReady k [] rd) (v : Nat → State → Word) :
    (s.onTile fun k => s.destination rd fun s => s.finish 4 rd (v k s) 0) =
      s.setCore k ((s.core k).done .a [] rd (v k s) 0 4) := by
  obtain ⟨hc, -, hw⟩ := h
  simp only [State.onTile, hc, State.destination_tile hc hw, State.finish_tile hc]

/-! ### A request through a reply slot (09: R182, R184) -/

theorem RegSpace.isEmpty_owe (g : RegSpace) {w : Nat} (h : w ≠ 0) : (g.owe w).isEmpty w = true := by
  simp [RegSpace.owe, RegSpace.isEmpty, h]

theorem wordsCovering_word (r : Nat) : wordsCovering (8 * r) 8 = (r, 1) := by
  simp only [wordsCovering, if_neg (show ¬ 8 = 0 by decide), Prod.mk.injEq]
  omega

/-- With the slots free, a request for a register takes slot 0, owes the register and waits before the local port. -/
theorem State.request_retire_free {s : State} {k : Nat} (hc : s.cur = .tile k) (hf : (s.core k).slotsFree) {l : Slot} {rd : Nat}
    (hd : l.dst = 8 * rd) (hl : l.len = 8) (t : Target) :
    ∃ (u : State) (m : Msg), (s.request k 0 l t).retire 4 = u ∧
      (u.core k).slots = some { l with seq := (s.core k).nextSeq } :: List.replicate 7 none ∧ (u.core k).pc = (s.core k).pc + 4 ∧
      u.net = s.net ++ [m] ∧ m.vc = 2 ∧ m.at_ = corePos k ∧ u.mem = s.mem ∧ (rd ≠ 0 → (u.core k).reg.isEmpty rd = true) := by
  have hslots : (s.core k).slots = List.replicate 8 none := hf
  have hcore : (s.request k 0 l t).core k = { s.core k with
      slots := some { l with seq := (s.core k).nextSeq } :: List.replicate 7 none, nextSeq := (s.core k).nextSeq + 1
      reg := (s.core k).reg.owe rd } := by
    refine (State.core_setCore_same s k _).trans ?_
    rw [hd, hl, wordsCovering_word, hslots]
    rfl
  refine ⟨_, ?m, State.retire_tile (s := s.request k 0 l t) hc 4, ?_, ?_, ?net, ?_⟩
  case net => rfl
  · rw [State.core_setCore_same, hcore]; rfl
  · rw [State.core_setCore_same, hcore]; rfl
  · rw [State.core_setCore_same, hcore]
    exact ⟨rfl, rfl, rfl, RegSpace.isEmpty_owe _⟩

/-- QTILE with its sources full, a destination to write and the slots free sends its request through slot 0. -/
theorem execQtile_free {s : State} {k : Nat} {rb ra rd : Reg} (hr : s.tileReady k [ra.toNat, rb.toNat] rd.toNat)
    (hf : (s.core k).slotsFree) : ∃ l : Slot, l.dst = 8 * rd.toNat ∧ l.len = 8 ∧
      execQtile rb ra rd s = .next (((s.setCore k (s.core k)).request k 0 l (.virt 0)).retire 4) := by
  obtain ⟨hc, hsrc, hw⟩ := hr
  have hw' : (s.setCore k (s.core k)).writeWaits k rd.toNat = false := by
    rw [← State.writeWaits_readIn s k rd.toNat .a [], Core.readIn_a] at hw; exact hw
  have hslot : ((s.setCore k (s.core k)).core k).freeSlot = some 0 := by
    rw [State.core_setCore_same]; exact Core.freeSlot_free hf
  refine ⟨?l, ?dst, ?len, ?eq⟩
  case eq =>
    simp only [execQtile, State.onTile, hc, State.sources_tile hc hsrc, Core.readIn_a,
      State.destination_tile (k := k) (s := s.setCore k (s.core k)) hc hw', hslot]
    rfl
  all_goals rfl

end Sys2Proof.Machine

namespace Sys2Proof.Proofs
open Sys2Proof Sys2Proof.Machine

/-- Settles O34: QCAP and QPWR read the copies of their cluster; QTILE takes slot 0 and sends its request to the island. -/
theorem mapResults : Obligations.MapResults := by
  unfold Obligations.MapResults
  intro s k rb ra rd c cl
  refine ⟨fun hr => ⟨congrArg _ (State.onTile_finish hr fun k s => (s.cluster (corePos k)).qcap),
    congrArg _ (State.onTile_finish hr fun k s => (s.cluster (corePos k)).qpwr |||
      fields [(26, nth 0 (s.cluster (corePos k)).qopp (coreNo k))])⟩, fun hr hfree => ?_⟩
  obtain ⟨l, hd, hl, hexec⟩ := execQtile_free hr hfree
  have hk : (s.setCore k (s.core k)).core k = c := State.core_setCore_same _ _ _
  obtain ⟨u, m, hu, hslots, hpc, hnet, hvc, hat, hmem, hempty⟩ := State.request_retire_free (s := s.setCore k (s.core k)) (k := k)
    hr.1 (by rw [hk]; exact hfree) hd hl (.virt 0)
  rw [hk] at hpc
  exact ⟨u, _, m, hexec.trans (congrArg _ hu), hslots, hd, hpc, hnet, hvc, hat, hmem, fun h => hempty fun h0 => h (BitVec.eq_of_toNat_eq h0)⟩

end Sys2Proof.Proofs

/-! SUPPORT. The mesh: forwarding a message and writing the routers' counters (03: R48, R58, R66; 09: R170, R173; 17: R372),
and the statement O40. -/

namespace Sys2Proof.Machine

/-! ### SEQ in header word 1 (09: R170) -/

theorem bit_eq_getLsbD (x : Word) (i : Nat) : bit x i = x.getLsbD i := by
  rw [bit, bits, BitVec.getLsbD, Nat.pow_one, Nat.testBit_eq_decide_div_mod_eq]

theorem bits_eq_extractLsb' (x : Word) (lo n : Nat) : bits x lo n = (x.extractLsb' lo n).toNat := by
  rw [bits, BitVec.extractLsb'_toNat, Nat.shiftRight_eq_div_pow]

/-- A bit of a header word 1 after a count. -/
theorem getLsbD_withSeq (w : Word) (n : Nat) {i : Nat} (hi : i < 64) :
    (withSeq w n).getLsbD i = if i < 16 ∨ 32 ≤ i then w.getLsbD i else n.testBit (i - 16) := by
  have hmask : (0xFFFF#64).getLsbD (i - 16) = decide (i - 16 < 16) := by
    rw [BitVec.getLsbD_ofNat, show 0xFFFF = 2 ^ 16 - 1 from rfl, Nat.testBit_two_pow_sub_one]
    simp; omega
  have hseq : (BitVec.ofNat 64 (n % 65536)).getLsbD (i - 16) = (decide (i - 16 < 16) && n.testBit (i - 16)) := by
    rw [BitVec.getLsbD_ofNat, show 65536 = 2 ^ 16 from rfl, Nat.testBit_mod_two_pow]
    simp; omega
  simp only [withSeq, BitVec.getLsbD_or, BitVec.getLsbD_and, BitVec.getLsbD_not, BitVec.getLsbD_shiftLeft, hmask, hseq, hi]
  by_cases h16 : i < 16
  · simp [h16]
  · by_cases h32 : 32 ≤ i
    · simp [h16, h32, show ¬ i - 16 < 16 by omega]
    · simp [h16, h32, show i - 16 < 16 by omega]

theorem bit_withSeq (w : Word) (n : Nat) {b : Nat} (hb : b < 64) (h : b < 16 ∨ 32 ≤ b) : bit (withSeq w n) b = bit w b := by
  rw [bit_eq_getLsbD, bit_eq_getLsbD, getLsbD_withSeq w n hb, if_pos h]

theorem bits_withSeq (w : Word) (n : Nat) : bits (withSeq w n) 16 16 = n % 65536 := by
  rw [bits_eq_extractLsb', ← BitVec.toNat_ofNat n 16]
  refine congrArg BitVec.toNat (BitVec.eq_of_getLsbD_eq fun i hi => ?_)
  rw [BitVec.getLsbD_extractLsb', getLsbD_withSeq w n (by omega), if_neg (by omega), BitVec.getLsbD_ofNat, Nat.add_sub_cancel_left]

/-! ### The local port (03: R48; 09: R170) -/

theorem State.enter_counted {s : State} {m : Msg} (h : m.uncounted = false) :
    s.enter m = { s with net := s.net ++ [{ m with dir := 4 }] } := by
  simp [State.enter, h]

/-- A message of an island takes the next SEQ of the region on its VC. -/
theorem State.enter_island {s : State} {m : Msg} (h : m.uncounted = true) (hi : isIsland m.at_ = true) :
    let g := s.region (regionOf m.at_)
    let n := Tab.get 0 g.seqs m.vc
    s.enter m = { s.setRegion (regionOf m.at_) { g with seqs := Tab.put g.seqs m.vc ((n + 1) % 65536) } with
      net := s.net ++ [{ m with dir := 4, uncounted := false, w1 := withSeq m.w1 n }] } := by
  simp [State.enter, h, hi]

/-- A message of a cluster takes the next SEQ of its source core on its VC. -/
theorem State.enter_cluster {s : State} {m : Msg} (h : m.uncounted = true) (hi : isIsland m.at_ = false) :
    let k := 4 * m.at_ + srcCore m.w1
    let c := s.core k
    let n := Tab.get 0 c.seqs m.vc
    s.enter m = { s.setCore k { c with seqs := Tab.put c.seqs m.vc ((n + 1) % 65536) } with
      net := s.net ++ [{ m with dir := 4, uncounted := false, w1 := withSeq m.w1 n }] } := by
  simp [State.enter, h, hi]

/-! ### Counting and serving a link (09: R173; 17: R372) -/

theorem State.sent_countSent (s : State) (p port vc n j : Nat) : Tab.get 0 ((s.countSent p port vc n).router p).sent j =
    if j = 8 * port + vc then (Tab.get 0 (s.router p).sent j + n) % 2 ^ 32 else Tab.get 0 (s.router p).sent j := by
  rw [State.countSent, State.router_setRouter_same, Tab.get_put]
  split
  · next h => rw [h]
  · rfl

theorem State.sent_served (s : State) (p dir vc : Nat) : ((s.served p dir vc).router p).sent = (s.router p).sent := by
  unfold State.served
  split
  · rfl
  · rw [State.router_setRouter_same]

/-- Message number `i` has left its place over the link of a direction: the link has counted it and served its VC. -/
def State.crossed (s : State) (i dir : Nat) : State :=
  let m : Msg := nth {} s.net i
  (({ s with net := dropNth s.net i } : State).countSent m.at_ dir m.vc m.flits).served m.at_ dir m.vc

/-- Crossing a link changes the mesh and the router alone. -/
theorem State.crossed_keeps {β : Type} {f : State → β} (hf : ∀ s p r, f (State.setRouter s p r) = f s) (s : State) (i dir : Nat) :
    f (s.crossed i dir) = f { s with net := dropNth s.net i } := by
  simp only [State.crossed, State.served, State.countSent]
  split
  · exact hf _ _ _
  · exact (hf _ _ _).trans (hf _ _ _)

/-- The flits of the message are counted on the link, and nothing else of its router. -/
theorem State.sent_crossed (s : State) (i dir j : Nat) : let m : Msg := nth {} s.net i
    Tab.get 0 ((s.crossed i dir).router m.at_).sent j =
      if j = 8 * dir + m.vc then (Tab.get 0 (s.router m.at_).sent j + m.flits) % 2 ^ 32 else Tab.get 0 (s.router m.at_).sent j := by
  simp only [State.crossed, State.sent_served]
  exact State.sent_countSent _ _ _ _ _ _

/-! ### Drops (09: R187) -/

/-- The report of a router at `p` that drops a message. -/
def dropReportMsg (p cause : Nat) (m : Msg) : Msg :=
  { at_ := p, vc := 0, w0 := header0 (islandPos (regionOf (srcPos m.w1))) 0 0 0 32 0, w1 := header1 p 0 0 0xFF
    body := bytesOf [fields [(0, cause), (7, posX p), (14, posY p)], m.w0, m.w1, 0] }

/-- What is no request is dropped with a report alone. -/
theorem State.drop_report {m : Msg} (h : m.vc ≠ 2) (s : State) (p cause : Nat) :
    s.drop p cause m = s.send (dropReportMsg p cause m) := if_neg h

/-! ### A message that may leave its place (03: R48, R66; 09: R173) -/

section
variable {s : State} {i : Nat} (hr : s.ripe i (nth {} s.net i) = true)
include hr

/-- Before the local port it enters where the buffer has room. -/
theorem State.forward_local (hd : (nth {} s.net i : Msg).dir = 5) : s.forward i =
    if s.portRoom (nth {} s.net i : Msg).at_ (nth {} s.net i) then ({ s with net := dropNth s.net i } : State).enter (nth {} s.net i)
    else s := by
  simp only [State.forward, hr, hd, Bool.not_true, Bool.false_eq_true, if_false, if_true]

variable (hd : (nth {} s.net i : Msg).dir ≠ 5)
include hd

/-- At its destination it is delivered, or it stays. -/
theorem State.forward_deliver (h : destPos (nth {} s.net i : Msg).w0 = (nth {} s.net i : Msg).at_) : s.forward i =
    (({ s with net := dropNth s.net i } : State).deliver (nth {} s.net i : Msg).at_ (nth {} s.net i)).getD s := by
  simp only [State.forward, hr, hd, h, Bool.not_true, Bool.false_eq_true, if_false, if_true]

variable (h : destPos (nth {} s.net i : Msg).w0 ≠ (nth {} s.net i : Msg).at_)
include h

/-- Where its way leads nowhere, or over a broken link, it is dropped. -/
theorem State.forward_lost (hl : let m : Msg := nth {} s.net i
      nextPos m.at_ (s.portTo m.vc m.at_ (destPos m.w0)) = none ∨
        (s.router m.at_).broken.contains (s.portTo m.vc m.at_ (destPos m.w0)) = true) :
    s.forward i = ({ s with net := dropNth s.net i } : State).drop (nth {} s.net i : Msg).at_ cLINK_LOST (nth {} s.net i) := by
  simp only [State.forward, hr, hd, h, Bool.not_true, Bool.false_eq_true, if_false]
  split
  · rfl
  · next q hq => rw [if_pos (hl.resolve_left (by rw [hq]; exact Option.some_ne_none q))]

/-- With a credit and the link's turn it passes the link, and the router behind it takes or drops it. -/
theorem State.forward_hop {q : Nat} (hl : let m : Msg := nth {} s.net i
      let dir := s.portTo m.vc m.at_ (destPos m.w0)
      nextPos m.at_ dir = some q ∧ (s.router m.at_).broken.contains dir = false ∧ s.credit m.at_ dir m = true ∧
        s.linkTurn m.at_ dir = some m.vc) :
    let m : Msg := nth {} s.net i
    let dir := s.portTo m.vc m.at_ (destPos m.w0)
    s.forward i = if regionOf q ≠ regionOf m.at_ ∧ s.admits q m = false then (s.crossed i dir).drop q cPROTECT_DROP m
      else (s.crossed i dir).send { m with at_ := q, dir := opposite dir, ran := false } := by
  obtain ⟨hq, hb, hc, ht⟩ := hl
  simp only [State.forward, hr, hd, h, hq, hb, hc, ht, Bool.not_true, Bool.false_eq_true, if_false, ne_eq, not_true_eq_false,
    decide_false, Bool.or_false]
  exact if_congr (by simp) rfl rfl

end

/-! ### Delivery (03: R48; 09: R177) -/

/-- A message for a core joins the input queue of its cluster where that has room. -/
theorem State.deliver_unit {s : State} {p : Nat} {m : Msg} (hi : isIsland p = false) (hr : s.isRetired p = false) (hv : 5 ≤ m.vc) :
    s.deliver p m = if roomFor (s.inq p m.vc) m then
      some ((s.countSent p 4 m.vc m.flits).setCluster p { s.cluster p with
        inq := Tab.put (s.cluster p).inq m.vc (s.inq p m.vc ++ [{ m with ran := false, no := (s.cluster p).came }])
        came := (s.cluster p).came + 1 }) else none := by
  obtain ⟨_, vc⟩ := m
  obtain ⟨n, rfl⟩ : ∃ n, vc = n + 5 := Nat.exists_eq_add_of_le' hv
  simp only [State.deliver, hi, hr, Bool.false_eq_true, if_false]
  rfl

/-! ### Counters in memory (17: R372) -/

/-- A word written reads as written. -/
theorem State.readWord_writeWord {s : State} (hs : s.Inv) (a : Nat) (v : Word) : (s.writeWord a v).readWord a = v := by
  have hb := State.readBytes_writeMem hs a (toBytes 8 v.toNat)
  rw [toBytes_length] at hb
  rw [State.readWord, State.readMem, Mem.readNat, State.writeWord, hb, ofBytes_toBytes]
  exact BitVec.eq_of_toNat_eq (by rw [BitVec.toNat_ofNat]; omega)

/-- Words written one after another, each with its home. -/
def State.writeWords (s : State) (l : List (Nat × Word)) : State := l.foldl (fun s e => s.writeWord e.1 e.2) s

theorem State.writeWords_keeps {β : Type} {f : State → β} (hf : ∀ s a bs, f (State.writeMem s a bs) = f s) (s : State)
    (l : List (Nat × Word)) : f (s.writeWords l) = f s := 
  State.foldl_keeps (f := fun s e => State.writeWord s e.1 e.2) (fun s e => hf s e.1 _) l s

/-- Words written within a block leave the bytes outside it, and memory its canonical form. -/
theorem State.writeWords_within {lo hi : Nat} {l : List (Nat × Word)} (hl : ∀ e ∈ l, lo ≤ e.1 ∧ e.1 + 8 ≤ hi) {s : State}
    (hs : s.Inv) : (s.writeWords l).Inv ∧ ∀ x, (x < lo ∨ hi ≤ x) → Mem.read (s.writeWords l).mem x = Mem.read s.mem x := by
  induction l generalizing s with
  | nil => exact ⟨hs, fun _ _ => rfl⟩
  | cons e l ih =>
    obtain ⟨hlo, hhi⟩ := hl e List.mem_cons_self
    obtain ⟨hinv, hout⟩ := ih (fun e' he => hl e' (List.mem_cons_of_mem e he)) (State.writeWord_inv hs e.1 e.2)
    refine ⟨hinv, fun x hx => (hout x hx).trans (State.writeMem_outside hs ?_)⟩
    rw [toBytes_length]
    omega

/-- ROUTER_COUNTER_WRITE steps the interval, and writes 42 words of the router's block, the last one the interval. -/
theorem execRouterCounterWrite_eq (s : State) (pos : Nat) :
    let b := sramHome (regionOf pos) + 0xFA0000 + 512 * localIndex pos
    let n := ((s.router pos).interval + 1) % 2 ^ 32
    ∃ (r : Router) (l : List (Nat × Word)), r.interval = n ∧ r.sent = (s.router pos).sent ∧
      (∀ e ∈ l, b ≤ e.1 ∧ e.1 + 8 ≤ b + 512) ∧ execRouterCounterWrite pos s =
        .next (((({ s with free := s.free + 1 } : State).setRouter pos r).writeWords l).writeWord (b + 504) (BitVec.ofNat 64 n)) := by
  intro b n
  let r : Router := { s.router pos with
    stall := (span 0 40).foldl (fun t i => Tab.put t i ((Tab.get 0 t i + (Config.freeWord 29 (64 * s.free + i)).toNat) % 2 ^ 32))
      (s.router pos).stall
    interval := n }
  refine ⟨r, (b, BitVec.ofNat 64 n) :: (span 0 40).map fun i =>
    (b + 8 * (1 + i), fields [(0, Tab.get 0 r.sent i), (32, Tab.get 0 r.stall i)]), rfl, rfl, fun e he => ?_, ?_⟩
  · rcases List.mem_cons.1 he with rfl | he
    · exact ⟨le_refl b, by omega⟩
    · obtain ⟨i, hi, rfl⟩ := List.mem_map.1 he
      have := mem_span.1 hi
      dsimp only
      omega
  · rw [State.writeWords, List.foldl_cons, List.foldl_map]
    rfl

/-- ROUTER_COUNTER_WRITE steps the interval and writes the router's block of counters alone. -/
theorem execRouterCounterWrite_spec (s : State) (pos : Nat) :
    let b := sramHome (regionOf pos) + 0xFA0000 + 512 * localIndex pos
    let n := ((s.router pos).interval + 1) % 2 ^ 32
    ∃ u : State, execRouterCounterWrite pos s = .next u ∧ (u.router pos).interval = n ∧
      (u.router pos).sent = (s.router pos).sent ∧ u.net = s.net ∧ u.cores = s.cores ∧ u.clusters = s.clusters ∧
      (s.Inv → u.readWord (b + 504) = BitVec.ofNat 64 n ∧
        ∀ x, (x < b ∨ b + 512 ≤ x) → Mem.read u.mem x = Mem.read s.mem x) := by
  obtain ⟨r, l, hint, hsent, hl, hexec⟩ := execRouterCounterWrite_eq s pos
  generalize hu : ({ s with free := s.free + 1 } : State).setRouter pos r = u at hexec
  have keeps {β : Type} (f : State → β) (h : ∀ s a bs, f (State.writeMem s a bs) = f s) (x : Nat) (v : Word) :
      f ((u.writeWords l).writeWord x v) = f u := (h _ _ _).trans (State.writeWords_keeps h u l)
  have hr : u.router pos = r := by rw [← hu]; exact State.router_setRouter_same _ _ _
  refine ⟨_, hexec, ?_, ?_, ?_, ?_, ?_, fun hs => ?_⟩
  · rw [keeps (State.router · pos) fun _ _ _ => rfl, hr, hint]
  · rw [keeps (State.router · pos) fun _ _ _ => rfl, hr, hsent]
  · rw [keeps State.net fun _ _ _ => rfl, ← hu]; rfl
  · rw [keeps State.cores fun _ _ _ => rfl, ← hu]; rfl
  · rw [keeps State.clusters fun _ _ _ => rfl, ← hu]; rfl
  · have hmem : u.mem = s.mem := by rw [← hu]; rfl
    obtain ⟨hinv, hout⟩ := State.writeWords_within hl (State.inv_of_mem hmem hs)
    refine ⟨State.readWord_writeWord hinv _ _, fun x hx => ?_⟩
    rw [State.writeWord, State.writeMem_outside hinv (by rw [toBytes_length]; omega), hout x hx, hmem]

end Sys2Proof.Machine

namespace Sys2Proof.Proofs
open Sys2Proof Sys2Proof.Machine

/-- Settles O40: a message that may leave its place enters the local port, moves one hop, is delivered or dropped, and the
counters of a router stay within its block. -/
theorem meshForwarding : Obligations.MeshForwarding := by
  unfold Obligations.MeshForwarding
  intro s i pos m p d dir rest sent
  have ripe (hi : i < s.net.length) (hb : s.behind i m = false) (hl : s.loadHeld m = false)
      (hp : m.vc = 4 → m.dir ≠ 5 → s.pattern p m = none ∨ m.ran = true) : s.ripe i m = true := by
    by_cases h : m.vc = 4 ∧ m.dir ≠ 5
    · rcases hp h.1 h.2 with hp | hp <;> simp [State.ripe, hi, hb, hl, h, hp, p]
    · simp [State.ripe, hi, hb, hl]; tauto
  have steps {u : State} (h : s.forward i = u) : exec (.routerForward i) s = .next u := congrArg _ h
  refine ⟨fun hi hb hl hd => ?_, fun x => ⟨State.enter_counted, fun hx => ?_⟩, fun hi hb hd hp => ?_, ?_⟩
  · have hf := State.forward_local (ripe hi hb hl fun _ h => absurd hd h) hd
    exact ⟨fun hr => steps (hf.trans (if_pos hr)), fun hr => steps (hf.trans (if_neg (Bool.eq_false_iff.1 hr)))⟩
  · cases hi : isIsland x.at_ with
    | true =>
      rw [State.enter_island hx hi]
      refine ⟨_, rfl, rfl, rfl, rfl, rfl, rfl, rfl, rfl, fun b hb h => bit_withSeq _ _ hb h, rfl, nofun, fun _ => ⟨bits_withSeq _ _, ?_⟩⟩
      refine (congrArg (fun g => Tab.get 0 (Region.seqs g) x.vc) (State.region_setRegion_same s _ _)).trans ?_
      exact Tab.get_put_same _ _ _ _
    | false =>
      rw [State.enter_cluster hx hi]
      refine ⟨_, rfl, rfl, rfl, rfl, rfl, rfl, rfl, rfl, fun b hb h => bit_withSeq _ _ hb h, rfl, fun _ => ⟨bits_withSeq _ _, ?_⟩, nofun⟩
      refine (congrArg (fun c => Tab.get 0 (Core.seqs c) x.vc) (State.core_setCore_same s _ _)).trans ?_
      exact Tab.get_put_same _ _ _ _
  · have hl : s.loadHeld m = false := by simp [State.loadHeld, hd]
    have hr := ripe hi hb hl fun hv _ => hp hv
    refine ⟨fun hne hlost hv => ?_, fun hne q hq hbr hc ht => ?_, fun he hi hret hv => ?_⟩
    · exact ⟨_, _, steps ((State.forward_lost hr hd hne hlost).trans (State.drop_report hv _ _ _)), rfl, rfl, rfl, rfl, rfl, rfl,
        rfl, rfl, rfl⟩
    · have hf := State.forward_hop hr hd hne ⟨hq, hbr, hc, ht⟩
      have keeps {β : Type} (f : State → β) (h : ∀ s p r, f (State.setRouter s p r) = f s) :
          f (s.crossed i dir) = f { s with net := rest } := State.crossed_keeps h s i dir
      have hnet : (s.crossed i dir).net = rest := keeps State.net fun _ _ _ => rfl
      have hmem : (s.crossed i dir).mem = s.mem := keeps State.mem fun _ _ _ => rfl
      have hcores : (s.crossed i dir).cores = s.cores := keeps State.cores fun _ _ _ => rfl
      have hclusters : (s.crossed i dir).clusters = s.clusters := keeps State.clusters fun _ _ _ => rfl
      have hsent : sent (s.crossed i dir) dir := State.sent_crossed s i dir
      refine ⟨fun had => ⟨_, steps (hf.trans (if_neg ?_)), congrArg (· ++ _) hnet, hsent, hmem, hcores, hclusters⟩,
        fun hreg had hv => ⟨_, _, steps (hf.trans ((if_pos ⟨hreg, had⟩).trans (State.drop_report hv _ _ _))),
          congrArg (· ++ _) hnet, rfl, rfl, rfl, rfl, hsent, hmem, hcores, hclusters⟩⟩
      rintro ⟨hreg, hadm⟩
      rcases had with had | had
      · exact hreg had
      · exact Bool.false_ne_true (hadm.symm.trans had)
    · have hf := State.forward_deliver hr hd he
      rw [State.deliver_unit (s := { s with net := rest }) hi hret hv] at hf
      refine ⟨fun hroom => ⟨_, steps (hf.trans (congrArg (Option.getD · s) (if_pos hroom))), rfl, ?_, ?_, rfl, rfl⟩, fun hroom => ?_⟩
      · refine (congrArg (fun c => Tab.get [] (Cluster.inq c) m.vc) (State.cluster_setCluster_same _ p _)).trans ?_
        exact Tab.get_put_same _ _ _ _
      · exact State.sent_countSent { s with net := rest } p 4 m.vc m.flits
      · exact steps (hf.trans (congrArg (Option.getD · s) (if_neg (Bool.eq_false_iff.1 hroom))))
  · exact execRouterCounterWrite_spec s pos

end Sys2Proof.Proofs

/-! SUPPORT. What leaves every message of the mesh in it: the steps by which a cluster is retired (03: R53; 17: R376). -/

namespace Sys2Proof.Machine

/-- The mesh of the second state holds that of the first, and what has been put into it since. -/
structure State.Carries (s t : State) : Prop where
  net : s.net <+: t.net

theorem unwritten_net : Unwritten State.net :=
  ⟨⟨fun _ _ _ => rfl, fun _ _ => rfl⟩, fun _ _ _ => rfl, fun _ _ _ => rfl, fun _ _ _ => rfl⟩

theorem unreported_net : Unreported State.net := ⟨unwritten_net, fun _ _ => rfl, fun _ _ => rfl⟩

theorem unstopped_net : Unstopped State.net :=
  ⟨fun _ _ _ => rfl, fun _ _ => rfl, fun _ _ _ => rfl, fun _ _ _ _ => rfl⟩

/-- What a unit of an operation leaves holds the mesh of a state. -/
def UnitEnd.Carried (s : State) : UnitEnd → Prop
  | .ok t _ => s.Carries t
  | .fault t _ _ _ => s.Carries t
  | .wait => True

/-- What a block of a ZD job leaves does. -/
def ZdStep.Carried (s : State) : ZdStep → Prop
  | .fault _ _ => True
  | .ended t _ _ _ => s.Carries t
  | .next t _ => s.Carries t

namespace State.Carries

theorem refl (s : State) : s.Carries s := ⟨⟨[], List.append_nil _⟩⟩

variable {s t : State}

theorem mem (h : s.Carries t) {m : Msg} (hm : m ∈ s.net) : m ∈ t.net := h.net.subset hm

theorem foldl {α : Type} {f : State → α → State} (hf : ∀ (t : State) x, s.Carries t → s.Carries (f t x)) {l : List α}
    (h : s.Carries t) : s.Carries (l.foldl f t) :=
  List.foldlRecOn l f (motive := s.Carries) h fun _ ht x _ => hf _ x ht

section
variable (h : s.Carries t)
include h

theorem trans {u : State} (hu : t.Carries u) : s.Carries u := ⟨h.net.trans hu.net⟩

/-- A state with the same mesh. -/
theorem same {u : State} (hu : u.net = t.net) : s.Carries u := ⟨by rw [hu]; exact h.net⟩

/-- A message put into the mesh. -/
theorem append {u : State} {ms : List Msg} (hu : u.net = t.net ++ ms) : s.Carries u :=
  ⟨h.net.trans ⟨ms, hu.symm⟩⟩

/-! ### Updates of other parts of the state -/

theorem setCore {k : Nat} {c : Core} : s.Carries (t.setCore k c) := h.same rfl
theorem setHand {k ch : Nat} {x : Handler} : s.Carries (t.setHand k ch x) := h.same rfl
theorem setCluster {p : Nat} {c : Cluster} : s.Carries (t.setCluster p c) := h.same rfl
theorem setRouter {p : Nat} {r : Router} : s.Carries (t.setRouter p r) := h.same rfl
theorem setRegion {r : Nat} {g : Region} : s.Carries (t.setRegion r g) := h.same rfl
theorem setPart {tag : Nat} {x : Partition} : s.Carries (t.setPart tag x) := h.same rfl
theorem setLaunch {key : Nat} {l : Launch} : s.Carries (t.setLaunch key l) := h.same rfl
theorem setGraph {g : Nat} {x : Graph} : s.Carries (t.setGraph g x) := h.same rfl
theorem writeMem {a : Nat} {bs : List Byte} : s.Carries (t.writeMem a bs) := h.same rfl
theorem clean {a n : Nat} : s.Carries (t.clean a n) := h.same rfl
theorem free {n : Nat} : s.Carries { t with free := n } := h.same rfl
theorem graphs {gs : Tab Graph} : s.Carries { t with graphs := gs } := h.same rfl
theorem launches {ls : Tab Launch} : s.Carries { t with launches := ls } := h.same rfl
theorem board {b : Board} : s.Carries { t with board := b } := h.same rfl
theorem setRail {r : Nat} {x : Rail} : s.Carries (t.setRail r x) := h.same rfl
theorem setMemFull {a : Nat} : s.Carries (t.setMemFull a) := h.same rfl
theorem emptyBuf {k : Nat} {d : Word} : s.Carries (t.emptyBuf k d) := h.same rfl
theorem uncount {lo n : Nat} : s.Carries (t.uncount lo n) := h.same rfl
theorem dropBytes {p : Nat} : s.Carries (t.dropBytes p) := h.same rfl

/-! ### Messages -/

theorem send {m : Msg} : s.Carries (t.send m) := h.append rfl

theorem toIsland {k r ch : Nat} {ws : List Word} : s.Carries (t.toIsland k r ch ws) := h.append rfl

theorem enter {m : Msg} : s.Carries (t.enter m) := by
  simp only [State.enter]
  split
  · exact h.append rfl
  · split <;> exact h.append rfl

theorem enterCore {k : Nat} {m : Msg} : s.Carries (t.enterCore k m) := by
  unfold State.enterCore
  exact h.enter

theorem trace {k kind : Nat} {w : Option Word} : s.Carries (t.trace k kind w) := by
  simp only [State.trace]
  split
  · exact h
  · split
    · exact h.setCore
    · exact h.append rfl

theorem post {k launch n : Nat} : s.Carries (t.post k launch n) := by
  unfold State.post
  split
  · exact h
  · exact h.toIsland

theorem drop {p cause : Nat} {m : Msg} : s.Carries (t.drop p cause m) := by
  simp only [State.drop, State.dropReport]
  split
  · exact h.send.send
  · exact h.send

/-! ### Cores -/

theorem mirror {k : Nat} : s.Carries (t.mirror k) := by
  simp only [State.mirror]
  split
  · exact h
  · exact h.setCore

theorem settle {k ch : Nat} {w : Word} : s.Carries (t.settle k ch w) := by
  simp only [State.settle]
  split
  · exact h.setHand
  · exact h

theorem putWords {k w : Nat} {ws : List Word} : s.Carries (t.putWords k w ws) := by
  induction ws generalizing t w with
  | nil => exact h
  | cons v ws ih => exact ih h.setCore

/-! ### Counts of accesses (10: R190; 17: R370, R372) -/

theorem countEcc {r a n : Nat} : s.Carries (t.countEcc r a n) := h.same (unwritten_net.countEcc t r a n)

theorem countHomes {r : Nat} {hs : List (Nat × Nat)} : s.Carries (t.countHomes r hs) := by
  have hc : s.Carries (hs.foldl (fun s x => s.countEcc r x.1 x.2) t) := h.foldl fun _ _ ht => ht.countEcc
  simp only [State.countHomes]
  split
  · exact hc.free
  · exact hc

theorem hit {p wp kind : Nat} {src addr value : Word} {core : Option Nat} : s.Carries (t.hit p wp kind src addr value core) := by
  simp only [State.hit, State.hitRecord]
  split
  · split
    · exact h.setCluster.writeMem.writeMem.setCore
    · exact h.setCluster.writeMem.writeMem
  · exact h.setCluster.writeMem.writeMem

theorem watch {p space own home off n : Nat} {kinds : List Nat} {kind : Nat} {src addr : Word} {core : Option Nat} :
    s.Carries (t.watch p space own home off n kinds kind src addr core) :=
  h.foldl fun _ _ ht => ht.hit

theorem watchLocal {k : Nat} {x : Target} {n kind : Nat} {addr : Word} : s.Carries (t.watchLocal k x n kind addr) := by
  cases x with
  | tcm o =>
    simp only [State.watchLocal]
    generalize (if kind = 4 then 58 else 55 + kind) = kb
    split
    · exact h.watch.watch
    · exact h.watch
  | spad o => exact h.watch
  | _ => exact h

theorem pass {vc tag n p d : Nat} : s.Carries (t.pass vc tag n p d).2 := h.foldl fun _ _ ht => ht.setRouter

theorem sentTo {p : Nat} {x : Target} : s.Carries (t.sentTo p x) := by
  simp only [State.sentTo]
  split
  · exact h
  · split
    · exact h.free.pass
    · exact h.free.pass.pass

theorem asked {k : Nat} {a : Word} : s.Carries (t.asked k a) := by
  simp only [State.asked]
  split
  · exact h
  · split
    · exact h.sentTo.same (unwritten_net.countRoot ..)
    · exact h.sentTo

theorem accessed {k : Nat} {w : Want} {a : Word} {n : Nat} : s.Carries (t.accessed k w a n) := by
  simp only [State.accessed]
  split
  · exact h.asked.watch
  · exact h.asked.watch
  · exact h.asked.watchLocal
  · exact h.asked

theorem performed {k : Nat} {w : Want} {a : Word} {n : Nat} : s.Carries (t.performed k w a n) :=
  h.foldl fun _ _ ht => ht.accessed

theorem countRead {k : Nat} {a : Word} {n : Nat} : s.Carries (t.countRead k a n) := by
  refine performed ?_
  split
  · exact h
  · split
    · exact h.countHomes
    · exact h

theorem countElems {k : Nat} {m : TMap} {q : List Int} {e0 n : Nat} : s.Carries (t.countElems k m q e0 n) := by
  refine h.foldl fun t e ht => ?_
  split
  · exact ht
  · exact ht.countRead

theorem countTaken {k : Nat} {r : Runs} {out : List (Nat × Bool)} {i : Nat} : s.Carries (t.countTaken k r out i) := by
  simp only [State.countTaken]
  split
  · exact h
  · split <;> exact h.countRead

theorem binRead {k : Nat} {a : Word} {x n : Nat} : s.Carries (t.binRead k a x n) := h.countEcc.accessed

/-! ### Writes and arrivals (12: R230) -/

theorem countRun {k space off n : Nat} {w : Nat → Word} : s.Carries (t.countRun k space off n w) := by
  refine h.foldl fun t ch ht => ?_
  dsimp only
  split
  · exact ht
  · split
    · exact ht
    · exact ht.setHand.settle

theorem countAt {a n : Nat} {w : Nat → Nat → Word} : s.Carries (t.countAt a n w) := by
  unfold State.countAt
  split
  · exact h.countRun
  · exact h.foldl fun _ _ ht => ht.countRun
  · exact h

theorem fillRun {a n : Nat} : s.Carries (t.fillRun a n) := by
  simp only [State.fillRun]
  split
  · exact h
  · exact h.same rfl

theorem engineWrite {a : Nat} {bs : List Byte} {w : Nat → Nat → Word} : s.Carries (t.engineWrite a bs w) := by
  simp only [State.engineWrite]
  split
  · exact h.clean.writeMem.fillRun.countAt
  · exact h.clean.writeMem

theorem opWrite {hits : List (Nat × Nat)} {a : Nat} {bs : List Byte} : s.Carries (t.opWrite hits a bs).1 := by
  simp only [State.opWrite]
  split
  · exact h.same rfl
  · split
    · exact h.clean.writeMem
    · exact h.clean.writeMem.fillRun.foldl fun _ _ ht => ht.countAt

theorem engineLay {hs hits : List (Nat × Nat)} {bs : List Byte} : s.Carries (t.engineLay hits hs bs).1 := by
  induction hs generalizing t hits bs with
  | nil => exact h
  | cons x hs ih => exact ih h.opWrite

theorem engineStore {hits : List (Nat × Nat)} {k : Nat} {a : Word} {bs : List Byte} {r : State × List (Nat × Nat)}
    (hr : t.engineStore hits k a bs = .ok r) : s.Carries r.1 := by
  unfold State.engineStore at hr
  split at hr
  · cases hr; exact h.engineLay.performed
  · cases hr

theorem outWrite {hits : List (Nat × Nat)} {k : Nat} {a : Word} {bs : List Byte} {r : State × List (Nat × Nat)}
    (hr : t.outWrite hits k a bs = .ok r) : s.Carries r.1 := by
  unfold State.outWrite at hr
  split at hr
  · split at hr
    · cases hr; exact h.opWrite
    · cases hr
  · cases hr
  · cases hr

theorem layPieces {hits : List (Nat × Nat)} {k : Nat} {ps : List Piece} {r : Option (Nat × Word) × List (Nat × Nat) × State}
    (hr : t.layPieces hits k ps = r) : s.Carries r.2.2 := by
  subst hr
  induction ps generalizing t hits with
  | nil => exact h
  | cons x ps ih =>
    simp only [State.layPieces]
    split
    · exact h
    · exact ih h.opWrite.accessed

theorem atomicAt {a : Nat} {x : Access} : s.Carries (t.atomicAt a x).2 := by
  simp only [State.atomicAt]
  split
  · exact h.writeMem
  · exact h

theorem bump {k : Nat} {a : Word} {x n : Nat} : s.Carries (t.bump k a x n).2 := h.countEcc.clean.atomicAt.accessed

theorem absmax {k : Nat} {a : Word} {m : Nat} {u : State} (hu : t.absmax k a m = .ok u) : s.Carries u := by
  unfold State.absmax at hu
  split at hu
  · cases hu
  · dsimp only at hu
    split at hu
    · cases hu
    · split at hu
      · cases hu
      · cases hu; exact h.countEcc.clean.atomicAt.accessed

theorem copyRow {hits : List (Nat × Nat)} {k : Nat} {a b : Word} {n : Nat} {r : State × List (Nat × Nat)}
    (hr : t.copyRow hits k a b n = .ok r) : s.Carries r.1 := by
  unfold State.copyRow at hr
  split at hr
  · cases hr
  · exact h.countRead.engineStore hr

end

/-! ### How an operation runs (05: R94; 14: R285) -/

/-- Units that leave the mesh what it holds, one after another. -/
theorem runUnits {f : State → EngOp → Nat → UnitEnd} (hf : ∀ t op i, s.Carries t → (f t op i).Carried s) {limit : Option Nat}
    {n i : Nat} {op : EngOp} (h : s.Carries t) : s.Carries (Machine.runUnits f limit n i t op).s := by
  induction n generalizing t op i with
  | zero => exact h
  | succ n ih =>
    have hu := hf t op i h
    simp only [Machine.runUnits]
    split
    · exact h
    · split
      · next he => rw [he] at hu; exact ih hu
      · next he => rw [he] at hu; exact hu
      · exact h

/-- A whole operation in one step. -/
theorem runWhole {f : State → UnitEnd} {op : EngOp} (hf : (f t).Carried s) {limit : Option Nat} (h : s.Carries t) :
    s.Carries (Machine.runWhole limit t op f).s := by
  unfold Machine.runWhole
  split
  · exact h
  · split
    · next he => rw [he] at hf; exact hf
    · next he =>
      rw [he] at hf
      split
      · exact h
      · exact hf
    · exact h

/-- The merge after the last row (13: R278). -/
theorem finalMerge {r : OpEnd} (h : s.Carries r.s) {k : Nat} {a : Word} {limit : Option Nat} :
    s.Carries (State.finalMerge r k a limit).s := by
  unfold State.finalMerge
  split
  · split
    · exact h
    · split
      · exact h
      · split
        · next hm => exact h.absmax hm
        · exact h
  · exact h

section
variable (h : s.Carries t)
include h

/-! ### The matrix engines (13: R266-R279) -/

theorem runMldw {k code wb : Nat} {op : EngOp} {limit : Option Nat} : s.Carries (t.runMldw k op code wb limit).s := by
  refine runWhole ?_ h.setCluster
  split
  · exact h.setCluster
  · exact (h.setCluster.foldl fun _ _ ht => ht.countElems).setCluster

theorem runMmul {k code bank acc : Nat} {op : EngOp} {set : Bool} {limit : Option Nat} :
    s.Carries (t.runMmul k op set code bank acc limit).s := by
  simp only [State.runMmul]
  split
  · exact h
  · refine runUnits (fun t op i ht => ?_) h
    split
    · exact ht
    · exact ht.countElems.putWords

theorem runMream {k q cb : Nat} {op : EngOp} {limit : Option Nat} : s.Carries (t.runMream k op q cb limit).s := by
  simp only [State.runMream]
  split
  · exact h
  · refine runUnits (fun t op i ht => ?_) ?_
    · split
      · exact ht
      · exact ht.countElems.setCluster
    · split
      · exact h
      · exact h.setCluster

theorem runMrmrg {k src dst : Nat} {op : EngOp} {limit : Option Nat} : s.Carries (t.runMrmrg k op src dst limit).s := by
  refine runWhole ?_ h
  split
  · exact h
  · split
    · exact h
    · exact h.setCluster.setCluster

theorem runMdrain {k acc cb : Nat} {op : EngOp} {set : Bool} {limit : Option Nat} :
    s.Carries (t.runMdrain k op set acc cb limit).s := by
  refine finalMerge ?_
  split
  · refine setCluster (runUnits (fun t op i ht => ?_) h)
    exact ht.putWords
  · refine runUnits (fun t op i ht => ?_) h
    exact ht.putWords

theorem runMstore {k code acc : Nat} {op : EngOp} {limit : Option Nat} : s.Carries (t.runMstore k op code acc limit).s := by
  refine finalMerge ?_
  refine runUnits (fun t op i ht => ?_) h
  dsimp only
  split
  · next hp => exact ht.layPieces hp
  · next hp => exact ht.layPieces hp

theorem runMclr {k tgt : Nat} {op : EngOp} {limit : Option Nat} : s.Carries (t.runMclr k op tgt limit).s := by
  refine runWhole ?_ h
  have hw : s.Carries (op.writes.foldl (fun s w => s.putWords k w.1 (List.replicate w.2 0)) t) := h.foldl fun _ _ ht => ht.putWords
  dsimp only
  split <;> split
  · exact hw.setCore.setCluster.setCluster
  · exact hw.setCore.setCluster
  · exact hw.setCore.setCluster
  · exact hw.setCore

/-! ### The vector engines (14: R285-R300) -/

theorem runRegs {k : Nat} {op : EngOp} {limit : Option Nat} : s.Carries (t.runRegs k op limit).s := by
  refine runWhole ?_ h
  split
  · exact h.setCore
  · have hw {l : List (Nat × List Word)} : s.Carries (l.foldl (fun s p => s.putWords k p.1 p.2) t) := h.foldl fun _ _ ht => ht.putWords
    dsimp only
    split
    · exact hw.setCluster
    · exact hw
  · exact h

theorem landLane {k byte w m i v : Nat} : s.Carries (t.landLane k byte w m i v) := by
  simp only [State.landLane]
  split <;> exact h.setCore

theorem runLoad {k ty vd : Nat} {op : EngOp} {limit : Option Nat} : s.Carries (t.runLoad k op ty vd limit).s := by
  refine runUnits (fun t op i ht => ?_) h
  split
  · exact ht.landLane
  · split
    · exact ht
    · split
      · exact ht
      · exact ht.countEcc.landLane

theorem runStore {k ty vd : Nat} {op : EngOp} {limit : Option Nat} : s.Carries (t.runStore k op ty vd limit).s := by
  refine runUnits (fun t op i ht => ?_) h
  split
  · exact ht
  · split
    · exact ht
    · exact ht.opWrite

theorem runLdfe {k va vd : Nat} {op : EngOp} {limit : Option Nat} : s.Carries (t.runLdfe k op va vd limit).s := by
  refine runUnits (fun t op i ht => ?_) h
  dsimp only
  split
  · exact ht
  · split
    · exact ht
    · split
      · exact trivial
      · exact ht.countEcc.putWords

theorem runSmpath {k : Nat} {op : EngOp} {ty : BitVec 3} {vb vd : BitVec 5} {limit : Option Nat} :
    s.Carries (t.runSmpath k op ty vb vd limit).s := by
  refine runWhole ?_ h
  split
  · exact h
  · dsimp only
    split
    · exact h
    · have hc {l : List Nat} {r : Runs} {out : List (Nat × Bool)} : s.Carries (l.foldl (fun s i => s.countTaken k r out i) t) :=
        h.foldl fun _ _ ht => ht.countTaken
      split
      · split <;> exact hc.putWords
      · exact hc
      · exact hc

theorem runMerge {k : Nat} {op : EngOp} {r : Runs} {ctl out : Word} {limit : Option Nat} :
    s.Carries (t.runMerge k op r ctl out limit).s := by
  unfold State.runMerge
  split
  · exact h
  · refine runUnits (fun t op i ht => ?_) h
    split
    · split <;> exact ht
    · dsimp only
      split
      · exact ht
      · split
        · next hw => exact ht.countTaken.outWrite hw
        · exact ht

/-! ### GX (12: R254-R259) -/

theorem runRows {k : Nat} {op : EngOp} {ty : BitVec 3} {vb va : BitVec 5} {gather : Bool} {limit : Option Nat} :
    s.Carries (t.runRows k op ty vb va gather limit).s := by
  refine runUnits (fun t op i ht => ?_) h
  dsimp only
  split
  · exact ht
  · split
    · exact ht
    · split
      · next hc => exact ht.copyRow hc
      · exact ht

theorem bumps {k nb : Nat} {x : Word} {b : Int} {r : Nat × Nat × State} (hr : t.bumps k x nb b = .ok r) : s.Carries r.2.2 := by
  unfold State.bumps at hr
  split at hr
  · cases hr; exact h
  · split at hr
    · cases hr
    · cases hr
    · dsimp only at hr
      split at hr
      · cases hr; exact h.binRead.bump
      · split at hr
        · cases hr
        · split at hr
          · cases hr; exact h.binRead.binRead.bump
          · split at hr
            · split at hr
              · cases hr
              · split at hr
                · cases hr; exact h.binRead.binRead.bump.binRead.bump
                · cases hr; exact h.binRead.binRead.bump.binRead.bump.bump
            · cases hr; exact h.binRead.binRead.bump.bump

theorem runBins {k : Nat} {op : EngOp} {ty : BitVec 3} {vb va vd : BitVec 5} {limit : Option Nat} :
    s.Carries (t.runBins k op ty vb va vd limit).s := by
  unfold State.runBins
  extract_lets ctl row x byte r
  have hr : s.Carries r.s := by
    simp only [r]
    split
    · exact h
    · refine runUnits (fun t op u ht => ?_) h
      split
      · split
        · exact ht
        · next hb => exact (ht.bumps hb).landLane
      · split
        · exact ht
        · split
          · exact ht
          · split
            · next hc => exact ht.binRead.copyRow hc
            · exact ht
  clear_value r
  split
  · exact hr.setCluster
  · exact hr

theorem runGxstat {k : Nat} {op : EngOp} {vd : BitVec 5} {limit : Option Nat} : s.Carries (t.runGxstat k op vd limit).s := by
  refine runWhole ?_ h
  exact h.putWords

/-! ### ZD and RD (14: R302-R308) -/

theorem zdStep {k : Nat} {op : EngOp} {vb : BitVec 5} : (t.zdStep k op vb).Carried s := by
  simp only [State.zdStep]
  split
  · trivial
  · split
    · exact h
    · split
      · trivial
      · split
        · exact h
        · split
          · trivial
          · split
            · exact h.countRead
            · split
              · trivial
              · next u hits hw =>
                have ho : s.Carries u := by
                  split at hw
                  · cases hw; exact h.countRead
                  · exact h.countRead.outWrite hw
                split
                · exact ho.setCluster
                · exact ho.setCluster

theorem zdBlocks {k n i : Nat} {op : EngOp} {vb : BitVec 5} {limit : Option Nat} : s.Carries (t.zdBlocks k op vb limit n i).s := by
  induction n generalizing t op i with
  | zero => exact h
  | succ n ih =>
    have hz := h.zdStep (k := k) (op := op) (vb := vb)
    simp only [State.zdBlocks]
    split
    · exact h
    · split
      · split
        · exact h
        · exact h.setCluster
      · next he => rw [he] at hz; exact ih hz
      · next he => rw [he] at hz; exact setCluster hz

theorem runZdwait {k : Nat} {op : EngOp} {vd : BitVec 5} {limit : Option Nat} : s.Carries (t.runZdwait k op vd limit).s := by
  refine runWhole ?_ h
  exact h.putWords

theorem runRdjoin {k : Nat} {op : EngOp} {vb : BitVec 5} {limit : Option Nat} : s.Carries (t.runRdjoin k op vb limit).s := by
  refine runWhole ?_ h
  dsimp only
  split
  · exact h
  · split
    · exact h
    · exact h.setCluster

theorem runRdsend {k : Nat} {op : EngOp} {ty : BitVec 3} {isMax : Bool} {vb va : BitVec 5} {limit : Option Nat} :
    s.Carries (t.runRdsend k op ty isMax vb va limit).s := by
  refine runWhole ?_ h
  dsimp only
  split
  · exact h
  · split
    · trivial
    · exact h.enterCore

/-! ### The ends of operations (05: R94; 07: R157) -/

theorem runAt {k : Nat} {op : EngOp} {limit : Option Nat} : s.Carries (t.runAt k op limit).s := by
  unfold State.runAt
  split
  exacts [h.runMldw, h.runMmul, h.runMream, h.runMrmrg, h.runMdrain, h.runMstore, h.runMclr, h.runLoad, h.runLoad, h.runLoad,
    h.runStore, h.runStore, h.runStore, h.runLdfe, h.runSmpath, h.runMerge, h.runMerge, h.runRows, h.runRows, h.runBins,
    h.runGxstat, h.zdBlocks, h.runZdwait, h.runRdjoin, h.runRdsend, h.runRdsend, h.runRegs]

theorem runOp {k : Nat} {op : EngOp} {limit : Option Nat} : s.Carries (t.runOp k op limit).s := by
  simp only [State.runOp]
  split
  · exact h.runAt.free
  · exact h.runAt

theorem fillWords {k : Nat} {rs : List (Nat × Nat)} : s.Carries (t.fillWords k rs) := h.setCore

theorem endOp {p e : Nat} {job : Bool} : s.Carries (t.endOp p e job) := by
  unfold State.endOp
  split
  · exact h
  · split
    · exact h
    · dsimp only
      split
      · exact h.runOp.setCluster.setCluster.setCore.setCore.mirror
      · exact h.runOp.setCluster
      · exact h

theorem syncBanks {k e : Nat} : s.Carries (t.syncBanks k e) := by
  simp only [State.syncBanks]
  split
  · exact h.setCore
  · split
    · exact h.setCore
    · exact h

theorem syncOps {k : Nat} {ops : List EngOp} : s.Carries (t.syncOps k ops) := by
  simp only [State.syncOps]
  split
  · exact h
  · exact h.syncBanks.syncBanks.setCore

theorem dropQueued {k e : Nat} : s.Carries (t.dropQueued k e) := (h.setCore.foldl fun _ _ ht => ht.fillWords).syncOps

theorem dropOps {k e : Nat} : s.Carries (t.dropOps k e) :=
  (h.setCluster.foldl fun _ _ ht => ht.fillWords).syncOps.dropQueued

theorem stopEngine {k e : Nat} {go : State → EngOp → OpEnd} (hgo : ∀ t op, s.Carries t → s.Carries (go t op).s) :
    s.Carries (t.stopEngine k e go).2 := by
  unfold State.stopEngine
  extract_lets p cl c mine held t1 c1 t2 r t3 queued t4 c4 t5
  have h2 : s.Carries t2 := h.setCluster.setCore
  have hr : s.Carries r.2 := by
    clear_value t2 held mine
    simp only [r]
    split
    · exact h2.fillWords
    · exact (hgo _ _ h2).fillWords
    · exact h2
  clear_value r
  have h4 : s.Carries t4 := (hr.foldl fun _ _ ht => ht.fillWords).syncOps.dropQueued
  clear_value t4
  simp only [t5]
  split
  · exact h4.setCore
  · exact h4

/-! ### The end of an activation (01: R19; 07: R135) -/

theorem abandonOp {k e : Nat} : s.Carries (t.abandonOp k e) := by
  simp only [State.abandonOp]
  split
  · exact h
  · exact h.setCore.fillWords.syncBanks

theorem abandonSlot {k : Nat} {l : Slot} : s.Carries (t.abandonSlot k l) := by
  unfold State.abandonSlot
  split
  · exact h.setCore
  · exact h.fillWords

theorem discard {k : Nat} {x : Option Trapped} : s.Carries (t.discard k x) := by
  unfold State.discard
  extract_lets t1 ds gs t2 c t3
  have h1 : s.Carries t1 := by
    simp only [t1]
    split
    · split
      · exact h.abandonSlot
      · exact h
    · exact h
  clear_value t1
  have h2 : s.Carries t2 := h1.foldl fun _ _ ht => ht.abandonSlot
  clear_value t2
  exact foldl (fun _ _ ht => ht.abandonOp.dropOps.setCore) h2.setCore

theorem finishOps {k n : Nat} : s.Carries (t.finishOps k n) := by
  induction n generalizing t with
  | zero => exact h
  | succ n ih =>
    have hf : s.Carries ((span 0 8).foldl (fun s e => match s.running (corePos k) e with
        | some (j, op) => if j = k then s.endOp (corePos k) e (isZdgo op.instr) else s
        | none => s) t) := by
      refine h.foldl fun t e ht => ?_
      split
      · split
        · exact ht.endOp
        · exact ht
      · exact ht
    simp only [State.finishOps]
    split
    · exact hf
    · exact ih hf

theorem abandonRest {k : Nat} : s.Carries (t.abandonRest k) :=
  (h.foldl fun _ _ ht => ht.stopEngine fun _ _ hu => hu.runOp).fillWords.setCore

theorem takeMessage {k : Nat} : s.Carries (t.takeMessage k) := by
  simp only [State.takeMessage]
  split
  · exact h.setRegion
  · exact h

theorem continueHere {k : Nat} : s.Carries (t.continueHere k) := h.setCore.takeMessage.mirror

theorem preludeReport {p cause : Nat} {m : Msg} : s.Carries (t.preludeReport p cause m) := h.toIsland

theorem deposit {k ch : Nat} {m : Msg} {u : State} (hu : t.deposit k ch m = some u) : s.Carries u := by
  simp only [State.deposit] at hu
  split at hu
  · cases hu; exact h.toIsland
  · split at hu
    · cases hu
    · split at hu
      · cases hu; exact h.setHand
      · split at hu
        · cases hu
        · split at hu
          · cases hu; exact h
          · split at hu
            · cases hu; exact h.toIsland
            · cases hu; exact h.engineWrite

theorem runPrelude {k ch : Nat} {m : Msg} {r : Ran} {ws : List (BitVec 32)} : s.Carries (t.runPrelude k ch m r ws).2 := by
  induction ws generalizing t r with
  | nil => exact h
  | cons w ws ih =>
    unfold State.runPrelude
    split
    · exact h
    · exact h
    · exact ih h.engineWrite
    · exact ih h.setHand.settle
    · exact ih h.setMemFull
    · dsimp only
      split
      · exact ih h.setCluster
      · exact h.setCluster.toIsland
    · exact ih h.post

theorem front {p vc : Nat} : s.Carries (t.front p vc) := by
  unfold State.front
  split
  · exact h
  · next m rest hq =>
    extract_lets k ch fault r
    have hr : s.Carries r.2 := by
      simp only [r]
      split
      · exact h
      · exact h.runPrelude
    clear_value r fault
    split
    · exact h
    · split
      · exact h.setCluster.preludeReport
      · split
        · split
          · next hd => exact (hr.deposit hd).setCluster
          · exact hr.setCluster
        · exact hr.setCluster

theorem depositHeld {k ch vc n : Nat} : s.Carries (t.depositHeld k ch vc n) := by
  induction n generalizing t with
  | zero => exact h
  | succ n ih =>
    simp only [State.depositHeld]
    split
    · exact h
    · split
      · exact ih h.front
      · exact h

theorem endEntry {k ch : Nat} : s.Carries (t.endEntry k ch) := by
  refine foldl (fun _ _ ht => ht.depositHeld) (foldl (fun _ _ ht => ht.uncount) (setHand ?_))
  exact h.foldl fun _ _ ht => ht.emptyBuf

theorem endActivation {k kind : Nat} : s.Carries (t.endActivation k kind) := by
  unfold State.endActivation
  split
  · exact h
  · exact h.trace.endEntry.setCore.mirror

theorem endNow {k : Nat} : s.Carries (t.endNow k) := by
  simp only [State.endNow]
  split
  · exact h
  · refine endActivation ?_
    split
    · exact h.discard.finishOps.abandonRest.continueHere
    · exact h.discard.finishOps.abandonRest

/-! ### The end of a launch (02: R36) -/

theorem result {q hseq : Nat} {ws : List Word} : s.Carries (t.result q hseq ws) :=
  h.same ((unreported_net.tell ..).trans (unreported_net.setQueue ..))

theorem endGraph {k : Nat} : s.Carries (t.endGraph k) := by
  simp only [State.endGraph]
  split
  · exact h
  · split
    · exact h.graphs.result
    · exact h.graphs.result

theorem completeNode {k i : Nat} {chosen : List Nat} : s.Carries (t.completeNode k i chosen) := by
  simp only [State.completeNode]
  split
  · exact h.setGraph
  · refine endGraph ?_
    split
    · exact h.setGraph.same (unreported_net.tell ..)
    · exact h.setGraph

theorem failNode {k i reason : Nat} {detail : Word} : s.Carries (t.failNode k i reason detail) := h.setGraph.endGraph

theorem endLaunch {key reason : Nat} : s.Carries (t.endLaunch key reason) := by
  simp only [State.endLaunch]
  split
  · exact h
  · have hm : s.Carries (((t.giveUp key).setLaunch key { t.launchOf key with reported := true }).maskLaunch key) :=
      (setLaunch (h.same (unstopped_net.giveUp ..))).same (unstopped_net.maskLaunch ..)
    split
    · exact hm.result
    · split
      · exact hm.completeNode
      · exact hm.failNode

/-! ### Retirement (17: R376, R377; 18: R375) -/

theorem revote {r : Nat} : s.Carries (t.revote r) := by
  simp only [State.revote]
  split
  · exact h.setRegion.setRegion.setRail
  · exact h.setRegion.setRegion

theorem retire_ {ps : List Nat} : s.Carries (t.retire_ ps) := by
  refine foldl (fun t p ht => ?_) h.board
  have hend : s.Carries ((span (4 * p) 4).foldl (fun s k => s.endNow k) t) := ht.foldl fun _ _ hu => hu.endNow
  have hfail : s.Carries (((span (4 * p) 4).foldl (fun s k => s.endNow k) t).failPlaced p) := hend.foldl fun _ _ hu => hu.endLaunch
  exact (hfail.foldl fun _ _ hu => hu.setCore).setCluster.dropBytes.launches.revote

theorem eventVector {tag : Nat} : s.Carries (t.eventVector tag) := by
  have hi {vec : Option (Nat × Nat)} {word sent : Nat} : s.Carries (t.interrupt vec word sent).2 := by
    unfold State.interrupt
    split
    · exact h
    · dsimp only
      split
      · exact h
      · exact h.same rfl
  simp only [State.eventVector]
  split
  · exact hi.setPart
  · exact hi

theorem ringWrite {tag : Nat} {a : Word} {bs : List Byte} : s.Carries (t.ringWrite tag a bs) :=
  h.same (unwritten_net.ringWrite t tag a bs)

theorem postEvent {tag kind : Nat} {w1 w2 w3 : Word} : s.Carries (t.postEvent tag kind w1 w2 w3) := by
  simp only [State.postEvent]
  refine setRegion ?_
  split
  · exact h.setPart.ringWrite.setPart.eventVector
  · exact h.setPart

theorem postRetired {tag : Nat} : s.Carries (t.postRetired tag) := by
  unfold State.postRetired
  split
  · exact h
  · refine h.setPart.foldl fun t e ht => postEvent ?_
    exact ht.foldl fun _ _ hu => hu.foldl fun _ _ hv => hv.setCluster

theorem columnCheck {r : Nat} : s.Carries (t.columnCheck r).2 := by
  unfold State.columnCheck
  split
  · exact h.setRegion
  · split
    · exact h
    · exact setRegion (h.foldl fun _ _ ht => ht.writeMem)

theorem publish {r : Nat} : s.Carries (t.publish r) := writeMem (h.foldl fun _ _ ht => ht.writeMem)

theorem reportRetired {tag cleared cause : Nat} {ps rs : List Nat} : s.Carries (t.reportRetired tag ps rs cleared cause) := by
  unfold State.reportRetired
  extract_lets r all t1
  have hr : s.Carries r.2 :=
    List.foldlRecOn rs _ (motive := fun b : List Nat × State => s.Carries b.2) h fun b hb r _ => hb.columnCheck.publish
  clear_value r
  split
  · exact hr.retire_
  · exact hr.retire_.setPart.setPart.postRetired

theorem settleMap {r : Nat} : s.Carries (t.settleMap r) := by
  simp only [State.settleMap]
  split
  · exact h.columnCheck.publish
  · exact h.reportRetired

end
end State.Carries
end Sys2Proof.Machine

/-! SUPPORT. Links that fail and their repair (03: R48, R63, R64), the lockstep steps (16: R349, R351), and the statement O49. -/

namespace Sys2Proof.Machine

/-! ### Messages dropped from the mesh (03: R63) -/

theorem exists_nth_of_mem {α : Type} {d a : α} {l : List α} (h : a ∈ l) : ∃ i, i < l.length ∧ nth d l i = a := by
  induction l with
  | nil => cases h
  | cons b l ih =>
    rcases List.mem_cons.1 h with rfl | h
    · exact ⟨0, by simp, rfl⟩
    · obtain ⟨i, hi, ha⟩ := ih h
      exact ⟨i + 1, by simpa using hi, ha⟩

theorem State.drop_keeps {β : Type} {f : State → β} (hf : ∀ s m, f (State.send s m) = f s) (s : State) (p cause : Nat) (m : Msg) :
    f (s.drop p cause m) = f s := by
  simp only [State.drop, State.dropReport]
  split
  · exact (hf _ _).trans (hf _ _)
  · exact hf _ _

/-- Only what has left its local port at a router is stranded on a link of that router. -/
theorem State.stranded_here {s : State} {p dir i : Nat} {w : Word} (h : s.stranded p dir w i = true) :
    (nth {} s.net i : Msg).at_ = p ∧ (nth {} s.net i : Msg).dir ≠ 5 := by
  simp only [State.stranded, Bool.and_eq_true, decide_eq_true_eq, ne_eq] at h
  tauto

/-- The messages that a fault of a direction leaves in the mesh. -/
def State.unstranded (s : State) (p dir : Nat) (w : Word) : List Msg :=
  let gone := (span 0 s.net.length).filter fun i => s.stranded p dir w i
  ((span 0 s.net.length).filter fun i => !gone.contains i).map fun i => nth {} s.net i

theorem State.mem_unstranded {s : State} {p dir : Nat} {w : Word} {m : Msg} (hm : m ∈ s.net) (h : m.dir = 5 ∨ m.at_ ≠ p) :
    m ∈ s.unstranded p dir w := by
  obtain ⟨i, hi, rfl⟩ := exists_nth_of_mem (d := {}) hm
  refine List.mem_map.2 ⟨i, List.mem_filter.2 ⟨mem_span.2 (by omega), ?_⟩, rfl⟩
  have hs : s.stranded p dir w i ≠ true := fun hs => by
    obtain ⟨hat, hdir⟩ := State.stranded_here hs
    exact h.elim hdir fun h => h hat
  simp [hs]

/-! ### LINK_FAULT (03: R63) -/

/-- What the fault of a direction leaves before its partition is quieted: the direction is broken, and what stood elsewhere, or
before a local port, is in the mesh as it was. -/
structure State.Struck (s : State) (p dir : Nat) (t : State) : Prop where
  net : ∀ m ∈ s.net, m.dir = 5 ∨ m.at_ ≠ p → m ∈ t.net
  broken : (t.router p).broken = (s.router p).broken ++ [dir]
  mem : t.mem = s.mem
  cores : t.cores = s.cores
  regions : t.regions = s.regions
  parts : t.parts = s.parts

/-- What follows the fault of a direction to `q`: within a partition a quieting for the repair, else the spare lane or the maps. -/
def State.afterFault (t : State) (p dir q : Nat) : State :=
  let a := (t.region (regionOf p)).tag
  if a ≠ 0 && a = (t.region (regionOf q)).tag then
    (t.setPart a { t.part a with broken := (t.part a).broken ++ [(p, dir)] }).quietAll a
  else (dedup [regionOf p, regionOf q]).foldl State.settleMap
    (if t.spareFree p dir then t.moveToSpare p dir q else t.markBroken p dir q)

theorem execLinkFault_struck {s : State} {p dir q : Nat} (hq : nextPos p dir = some q)
    (hb : (s.router p).broken.contains dir = false) :
    ∃ t : State, s.Struck p dir t ∧ execLinkFault p dir s = .next (t.afterFault p dir q) := by
  simp only [execLinkFault, hq, hb, Bool.false_eq_true, if_false]
  refine ⟨_, ?_, rfl⟩
  have keeps {β : Type} (f : State → β) (hf : ∀ s m, f (State.send s m) = f s) (l : List Msg) (u : State) :
      f (l.foldl (fun s m => s.drop p cLINK_LOST m) u) = f u := State.foldl_keeps (fun s m => State.drop_keeps hf s p _ m) l u
  refine ⟨fun m hm hs => ?_, ?_, keeps State.mem (fun _ _ => rfl) _ _, keeps State.cores (fun _ _ => rfl) _ _,
    keeps State.regions (fun _ _ => rfl) _ _, keeps State.parts (fun _ _ => rfl) _ _⟩
  · exact (State.Carries.foldl (fun _ _ ht => ht.drop) (.refl _)).mem
      (State.mem_unstranded (s := s.setRouter p { s.router p with broken := (s.router p).broken ++ [dir] }) hm hs)
  · refine (keeps (fun s => (s.router p).broken) (fun _ _ => rfl) _ _).trans ?_
    exact congrArg Router.broken (State.router_setRouter_same s p _)

/-! ### Quieting a partition for a repair (03: R62, R63) -/

theorem State.quietAll_keeps {β : Type} {f : State → β} (hr : ∀ s r g, f (State.setRegion s r g) = f s)
    (hl : ∀ s key l, f (State.setLaunch s key l) = f s) (s : State) (tag : Nat) : f (s.quietAll tag) = f s :=
  (State.foldl_keeps (fun s _ => hr s _ _) _ _).trans (State.foldl_keeps (fun s _ => hl s _ _) _ s)

/-- Every region of a list is given one quieting. -/
theorem State.foldl_quiet (z : Option Quieting) {r : Nat} {l : List Nat} {s : State} (h : r ∈ l ∨ (s.region r).quiet = z) :
    ((l.foldl (fun s r => s.setRegion r { s.region r with quiet := z }) s).region r).quiet = z := by
  induction l generalizing s with
  | nil => exact h.resolve_left List.not_mem_nil
  | cons x l ih =>
    refine ih ?_
    by_cases hx : r = x
    · subst hx; right; rw [State.region_setRegion_same]
    · rw [State.region_setRegion_ne _ _ hx]
      exact h.imp_left fun h => (List.mem_cons.1 h).resolve_left hx

theorem State.quietAll_quiet (s : State) (tag : Nat) {r : Nat} (hr : r ∈ maskRegions (s.part tag).regions) :
    ((s.quietAll tag).region r).quiet =
      some { classes := span 0 8, regions := maskRegions (s.part tag).regions, repair := some tag } :=
  State.foldl_quiet _ (.inl hr)

/-- Neither the quieting nor a retirement takes a message out of the mesh. -/
theorem State.afterFault_carries (t : State) (p dir q : Nat) : t.Carries (t.afterFault p dir q) := by
  have ht : t.Carries t := .refl t
  simp only [State.afterFault]
  split
  · exact ht.same (State.quietAll_keeps (f := State.net) (fun _ _ _ => rfl) (fun _ _ _ => rfl) _ _)
  · refine State.Carries.foldl (fun _ _ hu => hu.settleMap) ?_
    split
    · exact ht.setRouter.writeMem.writeMem
    · exact ht.writeMem.writeMem

/-- Within a partition the direction waits for its repair, every class is quieted, and nothing else changes. -/
theorem State.afterFault_inside {t : State} {p dir q tag : Nat} (hp : (t.region (regionOf p)).tag = tag)
    (hq : (t.region (regionOf q)).tag = tag) (h0 : tag ≠ 0) :
    let u := t.afterFault p dir q
    u.routers = t.routers ∧ u.mem = t.mem ∧ u.cores = t.cores ∧ (u.part tag).broken = (t.part tag).broken ++ [(p, dir)] ∧
      ∀ r ∈ maskRegions (t.part tag).regions, (u.region r).quiet =
        some { classes := span 0 8, regions := maskRegions (t.part tag).regions, repair := some tag } := by
  intro u
  generalize hv : t.setPart tag { t.part tag with broken := (t.part tag).broken ++ [(p, dir)] } = v
  have hu : u = v.quietAll tag := by simp [u, State.afterFault, hp, hq, h0, hv]
  have hpart : v.part tag = { t.part tag with broken := (t.part tag).broken ++ [(p, dir)] } := by
    rw [← hv]; exact Tab.get_put_same _ _ _ _
  have keeps {β : Type} (f : State → β) (hr : ∀ s r g, f (State.setRegion s r g) = f s)
      (hl : ∀ s key l, f (State.setLaunch s key l) = f s) : f u = f v := by rw [hu]; exact State.quietAll_keeps hr hl v tag
  refine ⟨?_, ?_, ?_, ?_, fun r hr => ?_⟩
  · rw [keeps State.routers (fun _ _ _ => rfl) fun _ _ _ => rfl, ← hv]; rfl
  · rw [keeps State.mem (fun _ _ _ => rfl) fun _ _ _ => rfl, ← hv]; rfl
  · rw [keeps State.cores (fun _ _ _ => rfl) fun _ _ _ => rfl, ← hv]; rfl
  · rw [keeps (State.part · tag) (fun _ _ _ => rfl) fun _ _ _ => rfl, hpart]
  · have hquiet := v.quietAll_quiet tag (r := r) (by rw [hpart]; exact hr)
    rw [hpart] at hquiet
    rw [hu]
    exact hquiet

/-! ### ROUTE_REPAIR (03: R64) -/

section
variable {β : Type} {f : State → β} (hf : ∀ s a bs, f (State.writeMem s a bs) = f s)
include hf

theorem State.markMap_keeps (s : State) (p mask : Nat) : f (s.markMap p mask) = f s := hf _ _ _

theorem State.publish_keeps (s : State) (r : Nat) : f (s.publish r) = f s :=
  (hf _ _ _).trans (State.foldl_keeps (fun s _ => hf s _ _) _ s)

/-- A repair onto a free spare lane changes the router, and maps in memory. -/
theorem State.repairLink_spare {s : State} {tag p dir q : Nat} (hq : nextPos p dir = some q) (hs : s.spareFree p dir = true) :
    f (s.repairLink tag p dir) = f (s.setRouter p { s.router p with
      spare := (s.router p).spare ++ [dir], broken := (s.router p).broken.filter (· ≠ dir) }) := by
  have hm : f ((s.moveToSpare p dir q).publish (regionOf p)) = f (s.setRouter p { s.router p with
      spare := (s.router p).spare ++ [dir], broken := (s.router p).broken.filter (· ≠ dir) }) :=
    (State.publish_keeps hf _ _).trans ((State.markMap_keeps hf _ _ _).trans (State.markMap_keeps hf _ _ _))
  simp only [State.repairLink, hq, hs, if_true]
  split
  · exact hm
  · exact (State.publish_keeps hf _ _).trans hm

end

theorem execRouteRepair_begins {s : State} {tag : Nat} {e : Nat × Nat} {rest : List (Nat × Nat)}
    (hb : (s.part tag).broken = e :: rest) (hz : (s.region (s.part tag).lead).quiet = none) :
    execRouteRepair tag s = .next (s.quietAll tag) := by
  simp only [execRouteRepair, hb, hz]

/-- With the partition quiet, its last fault is repaired and the injection released. -/
theorem execRouteRepair_last {s : State} {tag p dir : Nat} {z : Quieting} (hb : (s.part tag).broken = [(p, dir)])
    (hz : (s.region (s.part tag).lead).quiet = some z) (hr : z.repair = some tag) (hq : s.isQuiet z = true) :
    execRouteRepair tag s =
      .next (((s.setPart tag { s.part tag with broken := [] }).repairLink tag p dir).releaseQuiet z) := by
  simp [execRouteRepair, hb, hz, hr, hq]

/-- Where a spare lane is free, the last fault ends on it, and injection is released. -/
theorem execRouteRepair_spare {s : State} {tag p dir q : Nat} {z : Quieting} (hd : nextPos p dir = some q)
    (hb : (s.part tag).broken = [(p, dir)]) (hz : (s.region (s.part tag).lead).quiet = some z) (hr : z.repair = some tag)
    (hq : s.isQuiet z = true) (hs : s.spareFree p dir = true) : ∃ u : State, execRouteRepair tag s = .next u ∧
      (u.router p).spare = (s.router p).spare ++ [dir] ∧ (u.router p).broken = (s.router p).broken.filter (· ≠ dir) ∧
      (u.part tag).broken = [] ∧ u.cores = s.cores ∧ ∀ r ∈ z.regions, (u.region r).quiet = none := by
  generalize hv : s.setPart tag { s.part tag with broken := [] } = v
  have hexec := execRouteRepair_last hb hz hr hq
  rw [hv] at hexec
  have hpart : v.part tag = { s.part tag with broken := [] } := by rw [← hv]; exact Tab.get_put_same _ _ _ _
  have hrouter : v.router p = s.router p := by rw [← hv]; rfl
  have hspare : v.spareFree p dir = true := by rw [← hv]; exact hs
  have keeps {β : Type} (f : State → β) (hg : ∀ s r g, f (State.setRegion s r g) = f s)
      (hw : ∀ s a bs, f (State.writeMem s a bs) = f s) := (State.releaseQuiet_keeps hg (v.repairLink tag p dir) z).trans
    (State.repairLink_spare hw (tag := tag) hd hspare)
  have hmoved := (keeps (State.router · p) (fun _ _ _ => rfl) fun _ _ _ => rfl).trans (State.router_setRouter_same _ _ _)
  rw [hrouter] at hmoved
  refine ⟨_, hexec, congrArg Router.spare hmoved, congrArg Router.broken hmoved, ?_, ?_, fun r h => State.releaseQuiet_quiet _ z h⟩
  · exact congrArg Partition.broken ((keeps (State.part · tag) (fun _ _ _ => rfl) fun _ _ _ => rfl).trans hpart)
  · refine (keeps State.cores (fun _ _ _ => rfl) fun _ _ _ => rfl).trans ?_
    rw [← hv]; rfl

end Sys2Proof.Machine

namespace Sys2Proof.Proofs
open Sys2Proof Sys2Proof.Machine

/-- Links: a fault breaks the direction and quiets the partition; its repair onto a spare lane ends the quieting. -/
theorem linkSteps : Parts.LinkSteps := by
  unfold Parts.LinkSteps
  intro s p q dir tag rest hq
  refine ⟨fun hb => ?_, fun hbr => ⟨execRouteRepair_begins hbr, fun z hz hrep hquiet hrest hspare => ?_⟩⟩
  · obtain ⟨t, ht, hexec⟩ := execLinkFault_struck hq hb
    have htag (r : Nat) : (t.region r).tag = (s.region r).tag := by rw [State.region, ht.regions]; rfl
    refine ⟨_, hexec, fun m hm hs => (t.afterFault_carries p dir q).mem (ht.net m hm hs), fun ha hb h0 => ?_⟩
    obtain ⟨hrouters, hmem, hcores, hbroken, hquiet⟩ :=
      State.afterFault_inside (dir := dir) ((htag _).trans ha) ((htag _).trans hb) h0
    have hpart : t.part tag = s.part tag := by rw [State.part, ht.parts]; rfl
    rw [hpart] at hbroken hquiet
    exact ⟨by rw [State.router, hrouters]; exact ht.broken, hmem.trans ht.mem, hcores.trans ht.cores, hbroken, hquiet⟩
  · subst hrest
    exact execRouteRepair_spare hq hbr hz hrep hquiet hspare

end Sys2Proof.Proofs

/-! SUPPORT. The lockstep steps (16: R349, R351), and the statement O49. -/

namespace Sys2Proof.Machine

/-! ### A pair (16: R347) -/

/-- The first core of a pair stays as it is when the second one takes over its state. -/
@[simp] theorem State.core_mirror (s : State) (k : Nat) : (s.mirror k).core k = s.core k := by
  simp only [State.mirror]
  split
  · rfl
  · exact State.core_setCore_ne _ _ (by omega)

/-- What no core is part of, the mirroring leaves. -/
theorem State.mirror_keeps {β : Type} {f : State → β} (hf : ∀ s k c, f (State.setCore s k c) = f s) (s : State) (k : Nat) :
    f (s.mirror k) = f s := by
  simp only [State.mirror]
  split
  · rfl
  · exact hf _ _ _

/-! ### LOCKSTEP_CHECKPOINT (16: R349) -/

/-- The state that a checkpoint of a pair copies. -/
def Core.shadowed (c : Core) : Shadow :=
  { reg := c.reg, pc := c.pc, came := c.came, fcsr := c.fcsr, vbase := c.vbase, abase := c.abase, pidx := c.pidx, tms := c.tms
    fmts := c.fmts, seq := c.nextSeq }

/-- With no word pending a pair takes its checkpoint. -/
theorem State.checkpoint_taken {s : State} {k : Nat} (hp : (s.core k).pair = .first)
    (hw : ((s.core k).reg.pend.any fun e => e.2) = false) : s.checkpoint k =
      s.setCore k { s.core k with shadow := (s.core k).shadowed, sinceCkpt := 0, ckptDue := false, mismatch := 0 }.releaseHeld := by
  have hw' : (s.core k).reg.pend.any (fun e => e.2 && !inRanges (s.owedByFailure k) e.1) = false := by
    rw [List.any_eq_false] at hw ⊢
    intro e he
    simp [hw e he]
  have hno : ¬((s.core k).pair ≠ .first || (s.core k).reg.pend.any (fun e => e.2 && !inRanges (s.owedByFailure k) e.1)) = true := by
    simp [hp, hw']
  exact if_neg hno

/-- Outside a save a checkpoint gives no lease back (16: R341). -/
theorem State.releaseLeases_running {s : State} {tag : Nat} (h : s.ctxState tag ≠ 1) : s.releaseLeases tag = s := by
  simp [State.releaseLeases, h]

/-- Where one is due, LOCKSTEP_CHECKPOINT takes the checkpoint of the pair and mirrors it. -/
theorem execLockstepCheckpoint_due {s : State} {k : Nat} (hp : (s.core k).pair = .first) (hr : (s.core k).rollback = false)
    (hd : (s.core k).ckptDue = true) (hl : (s.core k).link = none)
    (hc : s.ctxState (s.region (regionOf (corePos k))).tag ≠ 1) (hw : ((s.core k).reg.pend.any fun e => e.2) = false) :
    execLockstepCheckpoint k s = .next ((s.checkpoint k).mirror k) := by
  have hctx : ((s.checkpoint k).mirror k).ctxState (s.region (regionOf (corePos k))).tag ≠ 1 := by
    rw [State.mirror_keeps (f := fun s => State.ctxState s _) (fun _ _ _ => rfl), State.checkpoint_taken hp hw]
    exact hc
  simp [execLockstepCheckpoint, State.setLink, hp, hr, hd, hl, State.releaseLeases_running hctx]

/-! ### LOCKSTEP_MISMATCH (16: R351) -/

theorem execLockstepMismatch_due {s : State} {k : Nat} (h : (s.core k).ckptDue = true) : execLockstepMismatch k s = .next s := by
  simp [execLockstepMismatch, h]

/-- The first mismatch since a checkpoint stops the pair and is reported. -/
theorem execLockstepMismatch_first {s : State} {k : Nat} (hp : (s.core k).pair = .first) (hc : (s.core k).ch.isSome = true)
    (hs : (s.core k).still = false) (hd : (s.core k).ckptDue = false) (hpre : s.preempted (corePos k) = false)
    (hm : (s.core k).mismatch = 0) : execLockstepMismatch k s = .next (((s.setCore k { s.core k with rollback := true, mismatch := 1 }).report
      (corePos k) (regionOf (corePos k)) cLOCKSTEP_SOFT 3 0 0 0).mirror k) := by
  have hch : (s.core k).ch.isNone = false := by rw [Option.isNone_eq_false_iff]; exact hc
  simp [execLockstepMismatch, hp, hch, hs, hd, hpre, hm]

/-- A report puts one VC0 message of 32 bytes to the island of a region into the mesh (16: R337). -/
theorem State.report_net (s : State) (p r cause unit chan : Nat) (h0 h1 : Word) : ∃ m : Msg,
    (s.report p r cause unit chan h0 h1).net = s.net ++ [m] ∧ m.vc = 0 ∧ m.w0 = header0 (islandPos r) 0 0 0 32 0 :=
  ⟨_, rfl, rfl, rfl⟩

/-! ### LOCKSTEP_ROLLBACK (16: R351) -/

theorem RegSpace.keepOwed_none {g : RegSpace} (h : (g.pend.any fun e => e.2) = false) (now : RegSpace) : g.keepOwed now = g := by
  have hf : g.pend.filter (fun e => e.2) = [] := List.filter_eq_nil_iff.2 (List.any_eq_false.1 h)
  rw [RegSpace.keepOwed, hf]
  rfl

/-- The core that a rollback leaves: the shadow's state, and none of what was issued since (16: R351). -/
def State.rolledBack (s : State) (k : Nat) : Core :=
  let c := s.core k
  let h := c.shadow
  let old (o : EngOp) : Bool := decide (o.seq < h.seq)
  { c with
    reg := h.reg.keepOwed c.reg, pc := h.pc, came := h.came, fcsr := h.fcsr, vbase := h.vbase, abase := h.abase,
    pidx := h.pidx, tms := h.tms, fmts := h.fmts, held := [], sinceCkpt := 0, ckptDue := s.preempted (corePos k), rollback := false,
    blocked := none, link := none, dispq := c.dispq.filter old, stuck := c.stuck.filter (fun x => old x.2),
    due := c.due.filter fun d => !c.replayed d }

/-- Once everything since the checkpoint has ended, a rollback changes the pair and what its cluster holds of it. -/
theorem execLockstepRollback_settled {s : State} {k : Nat} (hr : (s.core k).rollback = true) (hs : s.settled k = true) :
    ∃ cl : Cluster, execLockstepRollback k s =
      .next (((s.setCluster (corePos k) cl).setCore k (s.rolledBack k)).mirror k) := by
  simp only [execLockstepRollback, hr, hs]
  exact ⟨_, rfl⟩

end Sys2Proof.Machine

namespace Sys2Proof.Proofs
open Sys2Proof Sys2Proof.Machine

/-- A pair: its checkpoint, its first mismatch and its rollback. -/
theorem lockstepSteps : Parts.LockstepSteps := by
  unfold Parts.LockstepSteps
  intro s k c p
  refine ⟨fun hp hr hd hl hc hw => ?_, fun _ hd => execLockstepMismatch_due hd, fun hp hc hs hd hpre hm => ?_, fun hr hs => ?_⟩
  · refine ⟨_, execLockstepCheckpoint_due hp hr hd hl hc hw, ?_⟩
    rw [State.core_mirror, State.mirror_keeps (f := State.mem) (fun _ _ _ => rfl), State.mirror_keeps (f := State.net) (fun _ _ _ => rfl),
      State.checkpoint_taken hp hw, State.core_setCore_same]
    exact ⟨rfl, rfl, rfl, rfl, rfl, rfl, rfl, rfl, rfl, rfl, rfl⟩
  · generalize ht : s.setCore k { c with rollback := true, mismatch := 1 } = t
    have hexec := execLockstepMismatch_first hp hc hs hd hpre hm
    rw [ht] at hexec
    obtain ⟨m, hnet, hvc, hw0⟩ := t.report_net p (regionOf p) cLOCKSTEP_SOFT 3 0 0 0
    have hcore : (t.report p (regionOf p) cLOCKSTEP_SOFT 3 0 0 0).core k = { c with rollback := true, mismatch := 1 } := by
      rw [← ht]; exact State.core_setCore_same s k _
    refine ⟨_, m, hexec, ?_⟩
    rw [State.core_mirror, State.mirror_keeps (f := State.mem) (fun _ _ _ => rfl), State.mirror_keeps (f := State.net) (fun _ _ _ => rfl),
      hcore, hnet, State.report_mem, ← ht]
    exact ⟨rfl, rfl, rfl, rfl, rfl, hvc, hw0, rfl⟩
  · obtain ⟨cl, hexec⟩ := execLockstepRollback_settled hr hs
    refine ⟨_, hexec, ?_⟩
    rw [State.core_mirror, State.mirror_keeps (f := State.mem) (fun _ _ _ => rfl), State.mirror_keeps (f := State.net) (fun _ _ _ => rfl),
      State.core_setCore_same]
    refine ⟨fun hw => RegSpace.keepOwed_none hw _, rfl, rfl, rfl, rfl, rfl, rfl, rfl, rfl, rfl, rfl, rfl, rfl, fun j hj => ?_⟩
    rw [State.mirror_keeps (f := (State.cluster · j)) (fun _ _ _ => rfl)]
    exact State.cluster_setCluster_ne s cl hj

/-- Settles O49: a fault breaks its direction and quiets the partition, a repair moves it to its spare lane; a checkpoint, a first
mismatch and a rollback of a pair keep to their rules. -/
theorem failureSteps : Obligations.FailureSteps := ⟨linkSteps, lockstepSteps⟩

end Sys2Proof.Proofs

/-! SUPPORT. Encoding and decoding (04: R71-R82), and the statements O1, O2 and O3. -/

namespace Sys2Proof

/-! ### Reading a payload: each operand stands in bits of its own, so a sum of fields in their places is their bitwise or -/

theorem field_eq_toNat_slice (p lo n : Nat) : field p lo n = (slice p lo n).toNat := by simp [slice, field]

theorem slice_eq_zero {p lo n : Nat} (h : field p lo n = 0) : slice p lo n = 0#n :=
  BitVec.eq_of_toNat_eq (by rw [← field_eq_toNat_slice, h, BitVec.toNat_zero])

theorem slice_or (a b lo n : Nat) : slice (a ||| b) lo n = slice a lo n ||| slice b lo n := by
  simp only [slice, ← Nat.shiftRight_eq_div_pow, Nat.shiftRight_or_distrib, BitVec.ofNat_or]

theorem field_or (a b lo n : Nat) : field (a ||| b) lo n = field a lo n ||| field b lo n := by
  simp only [field_eq_toNat_slice, slice_or, BitVec.toNat_or]

theorem slice_place (lo : Nat) {n : Nat} (x : BitVec n) : slice (place lo x) lo n = x := by
  simp [slice, place]

theorem place_lt {m l k : Nat} (x : BitVec m) (h : l + m ≤ k) : place l x < 2 ^ k := by
  refine lt_of_lt_of_le ?_ (Nat.pow_le_pow_right two_pos h)
  rw [place, pow_add, mul_comm]
  exact Nat.mul_lt_mul_of_pos_left x.isLt (Nat.two_pow_pos l)

theorem place_shiftRight {m l k : Nat} (x : BitVec m) (h : l + m ≤ k) : place l x >>> k = 0 := by
  rw [Nat.shiftRight_eq_div_pow, Nat.div_eq_of_lt (place_lt x h)]

theorem field_place_above {lo m l n : Nat} (x : BitVec m) (h : lo + n ≤ l) : field (place l x) lo n = 0 := by
  obtain ⟨d, rfl⟩ := Nat.exists_eq_add_of_le h
  rw [field, place, pow_add, pow_add, mul_assoc, mul_left_comm, Nat.mul_div_cancel_left _ (Nat.two_pow_pos lo), mul_left_comm,
    Nat.mul_mod_right]

theorem field_place_below {lo m l n : Nat} (x : BitVec m) (h : l + m ≤ lo) : field (place l x) lo n = 0 := by
  rw [field, Nat.div_eq_of_lt (place_lt x h), Nat.zero_mod]

/-- Where the bits of a field are free, adding it carries nothing. -/
theorem add_place {a m l : Nat} (x : BitVec m) (h : field a l m = 0) : a + place l x = a ||| place l x := by
  obtain ⟨q, hq⟩ : ∃ q, a = 2 ^ (l + m) * q + a % 2 ^ l :=
    ⟨a / 2 ^ l / 2 ^ m, by
      have hx := Nat.div_add_mod (a / 2 ^ l) (2 ^ m)
      rw [show a / 2 ^ l % 2 ^ m = 0 from h, add_zero] at hx
      rw [pow_add, mul_assoc, hx, Nat.div_add_mod]⟩
  have hlow : a % 2 ^ l < 2 ^ l := Nat.mod_lt _ (Nat.two_pow_pos l)
  have hmid : 2 ^ l * x.toNat + a % 2 ^ l < 2 ^ (l + m) := by
    have := Nat.mul_le_mul_left (2 ^ l) (Nat.succ_le_of_lt x.isLt)
    rw [pow_add]; rw [Nat.mul_succ] at this; omega
  calc a + place l x = 2 ^ (l + m) * q + (2 ^ l * x.toNat + a % 2 ^ l) := by rw [place, mul_comm x.toNat]; omega
    _ = 2 ^ (l + m) * q ||| (2 ^ l * x.toNat ||| a % 2 ^ l) := by
      rw [Nat.two_pow_add_eq_or_of_lt hmid, Nat.two_pow_add_eq_or_of_lt hlow]
    _ = (2 ^ (l + m) * q + a % 2 ^ l) ||| place l x := by
      rw [Nat.two_pow_add_eq_or_of_lt (lt_of_le_of_lt (Nat.le_add_left _ _) hmid), place, mul_comm x.toNat, Nat.or_assoc,
        Nat.or_comm (2 ^ l * _)]
    _ = a ||| place l x := by rw [← hq]

theorem field_zero (lo n : Nat) : field 0 lo n = 0 := by simp [field]

theorem field_one (lo n : Nat) : field 1 lo n = 1 / 2 ^ lo % 2 ^ n := by rw [field]

/-- A field of a numeral, by division: a rewriting rule that applies to numerals alone. -/
theorem field_literal (c lo n : Nat) [c.AtLeastTwo] :
    field (no_index (OfNat.ofNat c)) lo n = OfNat.ofNat c / 2 ^ lo % 2 ^ n := by rw [field]

/-! ### The decoder by majors (04: R79) -/

/-- The decoders of the majors of the scalar instructions, 0x00 to 0x3F, each with its number (04: R79). -/
def scalarMajors : List (Nat × (Nat → Except Reject Instr)) := [
  (0x00, decodeMajor00), (0x01, decodeMajor01), (0x02, decodeMajor02), (0x03, decodeMajor03), (0x04, decodeMajor04),
  (0x05, decodeMajor05), (0x06, decodeMajor06), (0x07, decodeMajor07), (0x08, decodeMajor08), (0x09, decodeMajor09),
  (0x0A, decodeMajor0A), (0x0B, decodeMajor0B), (0x0C, decodeMajor0C), (0x0D, decodeMajor0D), (0x0E, decodeMajor0E),
  (0x0F, decodeMajor0F), (0x10, decodeMajor10), (0x11, decodeMajor11), (0x12, decodeMajor12), (0x13, decodeMajor13),
  (0x14, decodeMajor14), (0x15, decodeMajor15), (0x16, decodeMajor16), (0x17, decodeMajor17), (0x18, decodeMajor18),
  (0x19, decodeMajor19), (0x1A, decodeMajor1A), (0x1B, decodeMajor1B), (0x1C, decodeMajor1C), (0x1D, decodeMajor1D),
  (0x1E, decodeMajor1E), (0x1F, decodeMajor1F), (0x20, decodeMajor20), (0x21, decodeMajor21), (0x22, decodeMajor22),
  (0x23, decodeMajor23), (0x24, decodeMajor24), (0x25, decodeMajor25), (0x26, decodeMajor26), (0x27, decodeMajor27),
  (0x28, decodeMajor28), (0x29, decodeMajor29), (0x2A, decodeMajor2A), (0x2B, decodeMajor2B), (0x2E, decodeMajor2E),
  (0x2F, decodeMajor2F), (0x30, decodeMajor30), (0x31, decodeMajor31), (0x32, decodeMajor32), (0x33, decodeMajor33),
  (0x34, decodeMajor34), (0x35, decodeMajor35), (0x36, decodeMajor36), (0x37, decodeMajor37), (0x38, decodeMajor38),
  (0x39, decodeMajor39), (0x3A, decodeMajor3A), (0x3B, decodeMajor3B), (0x3C, decodeMajor3C), (0x3D, decodeMajor3D),
  (0x3E, decodeMajor3E), (0x3F, decodeMajor3F)]

/-- The decoders of the majors of memory, messages, copies and the system, 0x40 to 0x68 and 0x7C to 0x7F, each with
its number (04: R79). -/
def memoryMajors : List (Nat × (Nat → Except Reject Instr)) := [
  (0x40, decodeMajor40), (0x41, decodeMajor41), (0x42, decodeMajor42), (0x43, decodeMajor43), (0x44, decodeMajor44),
  (0x45, decodeMajor45), (0x46, decodeMajor46), (0x47, decodeMajor47), (0x48, decodeMajor48), (0x49, decodeMajor49),
  (0x4A, decodeMajor4A), (0x4B, decodeMajor4B), (0x4C, decodeMajor4C), (0x4D, decodeMajor4D), (0x4E, decodeMajor4E),
  (0x4F, decodeMajor4F), (0x50, decodeMajor50), (0x51, decodeMajor51), (0x52, decodeMajor52), (0x53, decodeMajor53),
  (0x54, decodeMajor54), (0x55, decodeMajor55), (0x56, decodeMajor56), (0x57, decodeMajor57), (0x58, decodeMajor58),
  (0x59, decodeMajor59), (0x5A, decodeMajor5A), (0x5C, decodeMajor5C), (0x5D, decodeMajor5D), (0x5E, decodeMajor5E),
  (0x5F, decodeMajor5F), (0x60, decodeMajor60), (0x61, decodeMajor61), (0x62, decodeMajor62), (0x63, decodeMajor63),
  (0x64, decodeMajor64), (0x65, decodeMajor65), (0x66, decodeMajor66), (0x67, decodeMajor67), (0x68, decodeMajor68),
  (0x7C, decodeMajor7C), (0x7D, decodeMajor7D), (0x7E, decodeMajor7E), (0x7F, decodeMajor7F)]

/-- The decoders of the majors of the engines, 0x69 to 0x7B, each with its number (04: R79). -/
def engineMajors : List (Nat × (Nat → Except Reject Instr)) := [
  (0x69, decodeMajor69), (0x6A, decodeMajor6A), (0x6B, decodeMajor6B), (0x6C, decodeMajor6C), (0x6D, decodeMajor6D),
  (0x6E, decodeMajor6E), (0x6F, decodeMajor6F), (0x70, decodeMajor70), (0x71, decodeMajor71), (0x72, decodeMajor72),
  (0x73, decodeMajor73), (0x74, decodeMajor74), (0x75, decodeMajor75), (0x76, decodeMajor76), (0x77, decodeMajor77),
  (0x78, decodeMajor78), (0x79, decodeMajor79), (0x7A, decodeMajor7A), (0x7B, decodeMajor7B)]

/-- Every major that holds instructions. -/
def majors : List (Nat × (Nat → Except Reject Instr)) := scalarMajors ++ memoryMajors ++ engineMajors

/-- A payload is read by the decoder of its major. -/
theorem decodePayload_of_lookup {p : Nat} {d : Nat → Except Reject Instr} (h : majors.lookup (field p 0 7) = some d) :
    decodePayload p = d p := by
  have hf : p % 128 = field p 0 7 := by simp [field]
  have hlt : field p 0 7 < 128 := hf ▸ Nat.mod_lt _ (by decide)
  rw [decodePayload, hf]
  generalize field p 0 7 = m at h hlt
  interval_cases m <;> cases h <;> rfl

/-- A payload that decodes is one of a major that holds instructions. -/
theorem lookup_of_decodePayload {p : Nat} {i : Instr} (h : decodePayload p = .ok i) :
    ∃ d, majors.lookup (field p 0 7) = some d ∧ d p = .ok i := by
  have hf : field p 0 7 = p % 128 := by simp [field]
  unfold decodePayload at h
  split at h
  case h_126 | h_127 => cases h
  all_goals
    next hm => exact ⟨_, by rw [hf, hm]; rfl, h⟩

/-! ### What the encoder writes is read back -/

/-- A payload of the encoder has 28 bits and the number of a major. -/
theorem payload_word {i : Instr} {p : Nat} (h : payload i = some (true, p)) :
    p >>> 28 = 0 ∧ ∃ d, majors.lookup (field p 0 7) = some d := by
  cases i <;> cases h
  all_goals
    simp only [add_place, field_or, field_place_above, field_place_below, field_zero, field_one, field_literal,
      Nat.shiftRight_or_distrib, place_shiftRight, Nat.reduceLeDiff, Nat.reduceAdd, Nat.reducePow, Nat.reduceDiv, Nat.reduceMod,
      Nat.reduceOr, Nat.reduceShiftRight, true_and]
    exact ⟨_, rfl⟩

/-- A row of a major of the scalar instructions is read back: each field of its payload is the operand that stands there. -/
theorem scalarMajors_read {i : Instr} {p : Nat} {d : Nat → Except Reject Instr} (h : payload i = some (true, p))
    (hd : scalarMajors.lookup (field p 0 7) = some d) : d p = .ok i := by
  cases i <;> cases h
  all_goals
    simp only [add_place, field_or, field_place_above, field_place_below, field_zero, field_one, field_literal,
      Nat.reduceLeDiff, Nat.reduceAdd, Nat.reducePow, Nat.reduceDiv, Nat.reduceMod, Nat.reduceOr] at hd
    cases hd
  all_goals
    simp only [decodeMajor00, decodeMajor01, decodeMajor02, decodeMajor03, decodeMajor04, decodeMajor05, decodeMajor06,
      decodeMajor07, decodeMajor08, decodeMajor09, decodeMajor0A, decodeMajor0B, decodeMajor0C, decodeMajor0D, decodeMajor0E,
      decodeMajor0F, decodeMajor10, decodeMajor11, decodeMajor12, decodeMajor13, decodeMajor14, decodeMajor15, decodeMajor16,
      decodeMajor17, decodeMajor18, decodeMajor19, decodeMajor1A, decodeMajor1B, decodeMajor1C, decodeMajor1D, decodeMajor1E,
      decodeMajor1F, decodeMajor20, decodeMajor21, decodeMajor22, decodeMajor23, decodeMajor24, decodeMajor25, decodeMajor26,
      decodeMajor27, decodeMajor28, decodeMajor29, decodeMajor2A, decodeMajor2B, decodeMajor2E, decodeMajor2F, decodeMajor30,
      decodeMajor31, decodeMajor32, decodeMajor33, decodeMajor34, decodeMajor35, decodeMajor36, decodeMajor37, decodeMajor38,
      decodeMajor39, decodeMajor3A, decodeMajor3B, decodeMajor3C, decodeMajor3D, decodeMajor3E, decodeMajor3F, add_place,
      field_or, field_place_above, field_place_below, field_zero, field_one, field_literal, slice_or, slice_place,
      slice_eq_zero, BitVec.zero_or, BitVec.or_zero, Nat.reduceLeDiff, Nat.reduceAdd, Nat.reducePow, Nat.reduceDiv,
      Nat.reduceMod, Nat.reduceOr, if_true]

/-- A row of a major of memory, messages, copies and the system is read back: each field of its payload is the
operand that stands there. -/
theorem memoryMajors_read {i : Instr} {p : Nat} {d : Nat → Except Reject Instr} (h : payload i = some (true, p))
    (hw : i.wf = true)
    (hd : memoryMajors.lookup (field p 0 7) = some d) : d p = .ok i := by
  cases i <;> cases h
  all_goals
    simp only [add_place, field_or, field_place_above, field_place_below, field_zero, field_one, field_literal,
      Nat.reduceLeDiff, Nat.reduceAdd, Nat.reducePow, Nat.reduceDiv, Nat.reduceMod, Nat.reduceOr] at hd
    cases hd
  all_goals
    unfold Instr.wf at hw
    simp only [decide_eq_true_eq] at hw
    simp only [decodeMajor40, decodeMajor41, decodeMajor42, decodeMajor43, decodeMajor44, decodeMajor45, decodeMajor46,
      decodeMajor47, decodeMajor48, decodeMajor49, decodeMajor4A, decodeMajor4B, decodeMajor4C, decodeMajor4D, decodeMajor4E,
      decodeMajor4F, decodeMajor50, decodeMajor51, decodeMajor52, decodeMajor53, decodeMajor54, decodeMajor55, decodeMajor56,
      decodeMajor57, decodeMajor58, decodeMajor59, decodeMajor5A, decodeMajor5C, decodeMajor5D, decodeMajor5E, decodeMajor5F,
      decodeMajor60, decodeMajor61, decodeMajor62, decodeMajor63, decodeMajor64, decodeMajor65, decodeMajor66, decodeMajor67,
      decodeMajor68, decodeMajor7C, decodeMajor7D, decodeMajor7E, decodeMajor7F, add_place, field_or, field_place_above,
      field_place_below, field_literal, slice_or, slice_place, slice_eq_zero, BitVec.zero_or, BitVec.or_zero, Nat.reduceLeDiff,
      Nat.reduceAdd, Nat.reducePow, Nat.reduceDiv, Nat.reduceMod, Nat.reduceOr, if_true, and_self, hw]

/-- A row of a major of the engines is read back: each field of its payload is the operand that stands there. -/
theorem engineMajors_read {i : Instr} {p : Nat} {d : Nat → Except Reject Instr} (h : payload i = some (true, p))
    (hw : i.wf = true)
    (hd : engineMajors.lookup (field p 0 7) = some d) : d p = .ok i := by
  cases i <;> cases h
  all_goals
    simp only [add_place, field_or, field_place_above, field_place_below, field_zero, field_one, field_literal,
      Nat.reduceLeDiff, Nat.reduceAdd, Nat.reducePow, Nat.reduceDiv, Nat.reduceMod, Nat.reduceOr] at hd
    cases hd
  all_goals
    unfold Instr.wf at hw
    simp only [Bool.and_eq_true, decide_eq_true_eq] at hw
    simp only [decodeMajor69, decodeMajor6A, decodeMajor6B, decodeMajor6C, decodeMajor6D, decodeMajor6E, decodeMajor6F,
      decodeMajor70, decodeMajor71, decodeMajor72, decodeMajor73, decodeMajor74, decodeMajor75, decodeMajor76, decodeMajor77,
      decodeMajor78, decodeMajor79, decodeMajor7A, decodeMajor7B, add_place, field_or, field_place_above, field_place_below,
      field_literal, slice_or, slice_place, slice_eq_zero, BitVec.zero_or, BitVec.or_zero, Nat.reduceLeDiff, Nat.reduceAdd,
      Nat.reducePow, Nat.reduceDiv, Nat.reduceMod, Nat.reduceOr, if_true, and_self, hw, ne_eq, not_false_eq_true]

theorem decodePayload_payload {i : Instr} {p : Nat} (h : payload i = some (true, p)) (hw : i.wf = true) :
    decodePayload p = .ok i := by
  obtain ⟨-, d, hd⟩ := payload_word h
  rw [decodePayload_of_lookup hd]
  rw [majors, List.lookup_append, List.lookup_append, Option.or_eq_some_iff, Option.or_eq_some_iff] at hd
  obtain (hs | ⟨-, hm⟩) | ⟨-, he⟩ := hd
  · exact scalarMajors_read h hs
  · exact memoryMajors_read h hw hm
  · exact engineMajors_read h hw he

/-- The same of a 16-bit form (04: R76). -/
theorem decodeShort_payload {i : Instr} {c : Nat} (h : payload i = some (false, c))
    : c >>> 15 = 0 ∧ decodeShort c = .ok i := by
  have hf : c % 32 = field c 0 5 := by simp [field]
  rw [decodeShort, hf]
  cases i <;> cases h
  all_goals
    simp only [add_place, field_or, field_place_above, field_place_below, field_one, field_literal, Nat.shiftRight_or_distrib,
      place_shiftRight, slice_or, slice_place, slice_eq_zero, BitVec.zero_or, BitVec.or_zero, Nat.reduceLeDiff, Nat.reduceAdd,
      Nat.reducePow, Nat.reduceDiv, Nat.reduceMod, Nat.reduceOr, Nat.reduceShiftRight, true_and, if_true]

/-! ### What the decoder accepts is an encoding -/

/-- The low `k` bits of a payload. -/
def lowBits (p k : Nat) : Nat := p % 2 ^ k

theorem lowBits_add (p lo n : Nat) : lowBits p (lo + n) = lowBits p lo + field p lo n * 2 ^ lo := by
  rw [lowBits, lowBits, pow_add, Nat.mod_mul, field, Nat.mul_comm]

/-- A field put back in its place is what the low bits grow by: a sum of neighbours telescopes. -/
theorem cast_place_slice (p lo n : Nat) : ((place lo (slice p lo n) : Nat) : Int) = lowBits p (lo + n) - lowBits p lo := by
  rw [lowBits_add, place, ← field_eq_toNat_slice]
  push_cast; ring

theorem field_eq_iff {p lo n v : Nat} : field p lo n = v ↔ (lowBits p (lo + n) : Int) = lowBits p lo + v * 2 ^ lo := by
  have := Nat.two_pow_pos lo
  rw [lowBits_add, ← Nat.mul_left_inj this.ne']
  norm_cast
  omega

theorem payload_of_cast_eq {i : Instr} {b : Bool} {q p : Nat} (h : payload i = some (b, q)) (hq : (q : Int) = p) :
    payload i = some (b, p) := by
  rw [h, Int.ofNat_inj.1 hq]

/-- What the decoder `d` of the major `m` reads from a payload is an instruction with operands that it allows, whose payload it
is. -/
def MajorExact (m : Nat) (d : Nat → Except Reject Instr) : Prop :=
  ∀ (p : Nat) (i : Instr), lowBits p 28 = p → lowBits p 7 = m → d p = .ok i → payload i = some (true, p) ∧ i.wf = true

/-- Where a major of the scalar instructions reads a row, its selector and its zero bits are checked and the operands
are the rest. -/
theorem scalarMajors_exact : ∀ e ∈ scalarMajors, MajorExact e.1 e.2 := by
  simp only [scalarMajors, List.forall_mem_cons, List.not_mem_nil, false_imp_iff, imp_true_iff, and_true]
  and_intros
  all_goals
    intro p i hp hm h
    simp only [decodeMajor00, decodeMajor01, decodeMajor02, decodeMajor03, decodeMajor04, decodeMajor05, decodeMajor06,
      decodeMajor07, decodeMajor08, decodeMajor09, decodeMajor0A, decodeMajor0B, decodeMajor0C, decodeMajor0D, decodeMajor0E,
      decodeMajor0F, decodeMajor10, decodeMajor11, decodeMajor12, decodeMajor13, decodeMajor14, decodeMajor15, decodeMajor16,
      decodeMajor17, decodeMajor18, decodeMajor19, decodeMajor1A, decodeMajor1B, decodeMajor1C, decodeMajor1D, decodeMajor1E,
      decodeMajor1F, decodeMajor20, decodeMajor21, decodeMajor22, decodeMajor23, decodeMajor24, decodeMajor25, decodeMajor26,
      decodeMajor27, decodeMajor28, decodeMajor29, decodeMajor2A, decodeMajor2B, decodeMajor2E, decodeMajor2F, decodeMajor30,
      decodeMajor31, decodeMajor32, decodeMajor33, decodeMajor34, decodeMajor35, decodeMajor36, decodeMajor37, decodeMajor38,
      decodeMajor39, decodeMajor3A, decodeMajor3B, decodeMajor3C, decodeMajor3D, decodeMajor3E, decodeMajor3F] at h
    repeat' split at h
    all_goals cases h
  all_goals
    refine ⟨payload_of_cast_eq rfl ?_, ?_⟩
    · simp only [Nat.cast_add, cast_place_slice, Nat.reduceAdd, field_eq_iff] at *
      omega
    · rfl

/-- Where a major of memory, messages, copies and the system reads a row, its selector and its zero bits are checked
and the operands are the rest. -/
theorem memoryMajors_exact : ∀ e ∈ memoryMajors, MajorExact e.1 e.2 := by
  simp only [memoryMajors, List.forall_mem_cons, List.not_mem_nil, false_imp_iff, imp_true_iff, and_true]
  and_intros
  all_goals
    intro p i hp hm h
    simp only [decodeMajor40, decodeMajor41, decodeMajor42, decodeMajor43, decodeMajor44, decodeMajor45, decodeMajor46,
      decodeMajor47, decodeMajor48, decodeMajor49, decodeMajor4A, decodeMajor4B, decodeMajor4C, decodeMajor4D, decodeMajor4E,
      decodeMajor4F, decodeMajor50, decodeMajor51, decodeMajor52, decodeMajor53, decodeMajor54, decodeMajor55, decodeMajor56,
      decodeMajor57, decodeMajor58, decodeMajor59, decodeMajor5A, decodeMajor5C, decodeMajor5D, decodeMajor5E, decodeMajor5F,
      decodeMajor60, decodeMajor61, decodeMajor62, decodeMajor63, decodeMajor64, decodeMajor65, decodeMajor66, decodeMajor67,
      decodeMajor68, decodeMajor7C, decodeMajor7D, decodeMajor7E, decodeMajor7F] at h
    repeat' split at h
    all_goals cases h
  all_goals
    refine ⟨payload_of_cast_eq rfl ?_, ?_⟩
    · simp only [Nat.cast_add, cast_place_slice, Nat.reduceAdd, field_eq_iff] at *
      omega
    · unfold Instr.wf; simp only [*, decide_true]

/-- Where a major of the engines reads a row, its selector and its zero bits are checked and the operands are the rest. -/
theorem engineMajors_exact : ∀ e ∈ engineMajors, MajorExact e.1 e.2 := by
  simp only [engineMajors, List.forall_mem_cons, List.not_mem_nil, false_imp_iff, imp_true_iff, and_true]
  and_intros
  all_goals
    intro p i hp hm h
    simp only [decodeMajor69, decodeMajor6A, decodeMajor6B, decodeMajor6C, decodeMajor6D, decodeMajor6E, decodeMajor6F,
      decodeMajor70, decodeMajor71, decodeMajor72, decodeMajor73, decodeMajor74, decodeMajor75, decodeMajor76, decodeMajor77,
      decodeMajor78, decodeMajor79, decodeMajor7A, decodeMajor7B] at h
    repeat' split at h
    all_goals cases h
  all_goals
    refine ⟨payload_of_cast_eq rfl ?_, ?_⟩
    · simp only [Nat.cast_add, cast_place_slice, Nat.reduceAdd, field_eq_iff] at *
      omega
    · unfold Instr.wf; simp only [*, decide_true, Bool.and_self, ne_eq, not_false_eq_true, and_self]

theorem lowBits_eq_field (p n : Nat) : lowBits p n = field p 0 n := by simp [lowBits, field]

/-- A payload that decodes is the payload of the instruction that it decodes to. -/
theorem payload_of_decodePayload {p : Nat} {i : Instr} (hp : p < 2 ^ 28) (h : decodePayload p = .ok i) :
    payload i = some (true, p) ∧ i.wf = true := by
  obtain ⟨d, hd, hi⟩ := lookup_of_decodePayload h
  have hmem : (field p 0 7, d) ∈ majors := by
    obtain ⟨l, r, hl, -⟩ := List.lookup_eq_some_iff.1 hd
    rw [hl]; simp
  have exact_of_mem : ∀ e ∈ majors, MajorExact e.1 e.2 := by
    simp only [majors, List.forall_mem_append]
    exact ⟨⟨scalarMajors_exact, memoryMajors_exact⟩, engineMajors_exact⟩
  exact exact_of_mem _ hmem p i (Nat.mod_eq_of_lt hp) (lowBits_eq_field p 7) hi

/-- The same of a 16-bit form (04: R76). -/
theorem payload_of_decodeShort {c : Nat} {i : Instr} (hc : c < 2 ^ 15) (h : decodeShort c = .ok i) :
    payload i = some (false, c) ∧ i.wf = true := by
  have hlow : lowBits c 15 = c := Nat.mod_eq_of_lt hc
  have hf : c % 32 = lowBits c 5 := rfl
  rw [decodeShort, hf] at h
  repeat' split at h
  all_goals cases h
  all_goals
    refine ⟨payload_of_cast_eq rfl ?_, rfl⟩
    simp only [Nat.cast_add, cast_place_slice, Nat.reduceAdd, field_eq_iff] at *
    omega

/-! ### Halfwords and bytes (00: R4; 04: R71) -/

theorem encode_word {i : Instr} {p : Nat} (h : payload i = some (true, p)) :
    encode i = [BitVec.ofNat 16 (0xC000 + p % 16384), BitVec.ofNat 16 (0x8000 + p / 16384)] := by rw [encode, h]

theorem encode_short {i : Instr} {c : Nat} (h : payload i = some (false, c)) : encode i = [BitVec.ofNat 16 c] := by
  rw [encode, h]

theorem encoded_of_payload {i : Instr} {e : Bool × Nat} (h : payload i = some e) : i.encoded = true := by
  rw [Instr.encoded, h]; rfl

theorem payload_of_encoded {i : Instr} (h : i.encoded = true) : ∃ b p, payload i = some (b, p) := by
  obtain ⟨⟨b, p⟩, hp⟩ := Option.isSome_iff_exists.1 h
  exact ⟨b, p, hp⟩

theorem decodeHalves_word {h0 h1 : Nat} (hc0 : halfClass h0 = 3) (hc1 : halfClass h1 = 2) :
    decodeHalves h0 (some h1) = (decodePayload (h0 % 16384 + 16384 * (h1 % 16384))).map fun i => (i, 4) := by
  simp only [decodeHalves, hc0, hc1, if_true]

theorem decodeHalves_short {h0 : Nat} (h : h0 < 2 ^ 15) (h1 : Option Nat) :
    decodeHalves h0 h1 = (decodeShort h0).map fun i => (i, 2) := by
  have hc : halfClass h0 = 0 ∨ halfClass h0 = 1 := by unfold halfClass; omega
  have hm : h0 % 32768 = h0 := Nat.mod_eq_of_lt h
  obtain hc | hc := hc <;> simp only [decodeHalves, hc, hm]

theorem except_map_eq_ok {ε α β : Type} {f : α → β} {x : Except ε α} {b : β} :
    x.map f = .ok b ↔ ∃ a, x = .ok a ∧ f a = b := by
  cases x <;> simp [Except.map]

/-- What two halfwords decode to: a 32-bit form of both, or a 16-bit form of the first (04: R71, R73). -/
theorem decodeHalves_ok {h0 n : Nat} {h1 : Option Nat} {i : Instr} (hlt : h0 < 65536) (h : decodeHalves h0 h1 = .ok (i, n)) :
    (n = 4 ∧ halfClass h0 = 3 ∧ ∃ x, h1 = some x ∧ halfClass x = 2 ∧
      decodePayload (h0 % 16384 + 16384 * (x % 16384)) = .ok i) ∨
    (n = 2 ∧ h0 < 2 ^ 15 ∧ decodeShort h0 = .ok i) := by
  by_cases hs : h0 < 2 ^ 15
  · rw [decodeHalves_short hs, except_map_eq_ok] at h
    obtain ⟨j, hj, hr⟩ := h
    cases hr
    exact .inr ⟨rfl, hs, hj⟩
  · have hc : halfClass h0 = 2 ∨ halfClass h0 = 3 := by unfold halfClass; omega
    obtain hc | hc := hc
    · simp [decodeHalves, hc] at h
    · cases h1 with
      | none => simp [decodeHalves, hc] at h
      | some x =>
        by_cases hx : halfClass x = 2
        · rw [decodeHalves_word hc hx, except_map_eq_ok] at h
          obtain ⟨j, hj, hr⟩ := h
          cases hr
          exact .inl ⟨rfl, hc, x, rfl, hx, hj⟩
        · simp [decodeHalves, hc, hx] at h

/-- The number in the two bytes of a halfword, the low one first. -/
theorem toNat_bytes (h : BitVec 16) : (h.setWidth 8).toNat + 256 * ((h >>> 8).setWidth 8).toNat = h.toNat := by bv_omega

/-- The halfword of two bytes. -/
theorem halfBytes_ofNat (b0 b1 : BitVec 8) (t : List (BitVec 16)) :
    halfBytes (BitVec.ofNat 16 (b0.toNat + 256 * b1.toNat) :: t) = b0 :: b1 :: halfBytes t := by
  have h0 : (BitVec.ofNat 16 (b0.toNat + 256 * b1.toNat)).setWidth 8 = b0 := by bv_omega
  have h1 : (BitVec.ofNat 16 (b0.toNat + 256 * b1.toNat) >>> 8).setWidth 8 = b1 := by bv_omega
  rw [halfBytes, h0, h1]

/-- The halfwords of a 32-bit payload, from the payload's two halves (04: R74). -/
theorem encode_halves {i : Instr} {h0 h1 : Nat} (hlt0 : h0 < 65536) (hlt1 : h1 < 65536) (hc0 : halfClass h0 = 3)
    (hc1 : halfClass h1 = 2) (h : payload i = some (true, h0 % 16384 + 16384 * (h1 % 16384))) :
    encode i = [BitVec.ofNat 16 h0, BitVec.ofNat 16 h1] := by
  rw [halfClass] at hc0 hc1
  rw [encode_word h, show 0xC000 + (h0 % 16384 + 16384 * (h1 % 16384)) % 16384 = h0 by omega,
    show 0x8000 + (h0 % 16384 + 16384 * (h1 % 16384)) / 16384 = h1 by omega]

/-! ### The statements -/

theorem decodeBytes_encode_word {i : Instr} {p : Nat} (h : payload i = some (true, p)) (hw : i.wf = true)
    (rest : List (BitVec 8)) :
    decodeBytes (halfBytes (encode i) ++ rest) = .ok (i, rest) := by
  have hp : p < 2 ^ 28 := by
    have := (payload_word h).1
    rw [Nat.shiftRight_eq_div_pow] at this
    omega
  have h0 : (BitVec.ofNat 16 (0xC000 + p % 16384)).toNat = 0xC000 + p % 16384 := by rw [BitVec.toNat_ofNat]; omega
  have h1 : (BitVec.ofNat 16 (0x8000 + p / 16384)).toNat = 0x8000 + p / 16384 := by rw [BitVec.toNat_ofNat]; omega
  rw [encode_word h]
  simp only [halfBytes, List.cons_append, List.nil_append, decodeBytes, toNat_bytes, h0, h1]
  rw [decodeHalves_word (by rw [halfClass]; omega) (by rw [halfClass]; omega),
    show (0xC000 + p % 16384) % 16384 + 16384 * ((0x8000 + p / 16384) % 16384) = p by omega, decodePayload_payload h hw]
  rfl

theorem decodeBytes_encode_short {i : Instr} {c : Nat} (h : payload i = some (false, c)) (rest : List (BitVec 8)) :
    decodeBytes (halfBytes (encode i) ++ rest) = .ok (i, rest) := by
  obtain ⟨hbits, hdec⟩ := decodeShort_payload h
  have hc : c < 2 ^ 15 := by
    rw [Nat.shiftRight_eq_div_pow] at hbits
    omega
  have h0 : (BitVec.ofNat 16 c).toNat = c := by rw [BitVec.toNat_ofNat]; omega
  rw [encode_short h]
  match rest with
  | [] | [_] | _ :: _ :: _ =>
    simp only [halfBytes, List.cons_append, List.nil_append, decodeBytes, toNat_bytes, h0, decodeHalves_short hc, hdec]
    rfl

/-- The bytes of two halfwords that decode, or of one. -/
theorem decodeHalves_exact {b0 b1 : BitVec 8} {h1 : Option Nat} {i : Instr} {n : Nat}
    (h : decodeHalves (b0.toNat + 256 * b1.toNat) h1 = .ok (i, n)) : i.encoded = true ∧ i.wf = true ∧
      ((n = 4 ∧ ∃ x, h1 = some x ∧
          ∀ b2 b3 : BitVec 8, x = b2.toNat + 256 * b3.toNat → halfBytes (encode i) = [b0, b1, b2, b3]) ∨
       (n = 2 ∧ halfBytes (encode i) = [b0, b1])) := by
  have hlt (b b' : BitVec 8) : b.toNat + 256 * b'.toNat < 65536 := by omega
  obtain ⟨rfl, hc0, x, rfl, hcx, hdec⟩ | ⟨rfl, hs, hdec⟩ := decodeHalves_ok (hlt b0 b1) h
  · obtain ⟨hp, hw⟩ := payload_of_decodePayload (by omega) hdec
    refine ⟨encoded_of_payload hp, hw, .inl ⟨rfl, x, rfl, fun b2 b3 hx => ?_⟩⟩
    subst hx
    rw [encode_halves (hlt b0 b1) (hlt b2 b3) hc0 hcx hp, halfBytes_ofNat, halfBytes_ofNat, halfBytes]
  · obtain ⟨hp, hw⟩ := payload_of_decodeShort hs hdec
    refine ⟨encoded_of_payload hp, hw, .inr ⟨rfl, ?_⟩⟩
    rw [encode_short hp, halfBytes_ofNat, halfBytes]

end Sys2Proof

namespace Sys2Proof.Proofs
open Sys2Proof

/-- Settles O1: each operand is read back from its own bits of the payload, in the major of the row. -/
theorem roundTrip : Obligations.RoundTrip := by
  unfold Obligations.RoundTrip
  intro i rest he hw
  obtain ⟨b, p, h⟩ := payload_of_encoded he
  cases b with
  | true => exact decodeBytes_encode_word h hw rest
  | false => exact decodeBytes_encode_short h rest

/-- Settles O2: a row is read only where every bit outside its operands has the value that its encoding gives it, so the bits that
it was read from are its encoding. -/
theorem decodingIsExact : Obligations.DecodingIsExact := by
  unfold Obligations.DecodingIsExact
  intro i bs rest h
  match bs with
  | [] | [_] => cases h
  | [b0, b1] | [b0, b1, b2] =>
    obtain ⟨⟨j, n⟩, hj, hr⟩ := except_map_eq_ok.1 h
    cases hr
    obtain ⟨he, hw, ⟨-, x, hx, -⟩ | ⟨-, hb⟩⟩ := decodeHalves_exact hj
    · cases hx
    · exact ⟨he, hw, by rw [hb]; rfl⟩
  | b0 :: b1 :: b2 :: b3 :: t =>
    obtain ⟨⟨j, n⟩, hj, hr⟩ := except_map_eq_ok.1 h
    cases hr
    obtain ⟨he, hw, ⟨rfl, x, hx, hb⟩ | ⟨rfl, hb⟩⟩ := decodeHalves_exact hj
    · cases hx
      exact ⟨he, hw, by rw [hb b2 b3 rfl]; rfl⟩
    · exact ⟨he, hw, by rw [hb]; rfl⟩

/-- Settles O3: the decoder, run on each word. -/
theorem workedWords : Obligations.WorkedWords := by
  unfold Obligations.WorkedWords
  decide

end Sys2Proof.Proofs

/-! SUPPORT. Traps at an instruction, empty sources and refused accesses (04: R75; 10: R203; 16: R339), and the statement
O36. -/

namespace Sys2Proof.Machine

/-- A trap of a core outside a pair is taken at once, at its pc. -/
theorem State.trap_alone {s : State} {k : Nat} (h : s.cur = .tile k) (hp : (s.core k).pair = .alone) (c : Cause) :
    s.trap c = s.takeTrap k { c with pc := (s.core k).pc } := by
  simp [State.trap, h, hp]

theorem State.block_tile {s : State} {k : Nat} (h : s.cur = .tile k) (w : Wait) :
    s.block w = s.setCore k { s.core k with blocked := some w } := by
  simp [State.block, h]

/-- The first of the sources that is empty, where those before it are full. -/
theorem State.firstEmpty_pair {s : State} {k a b r : Nat} (h : s.cur = .tile k) (he : (s.core k).reg.isEmpty r = true)
    (hr : r = a ∨ r = b ∧ (s.core k).reg.isEmpty a = false) : s.firstEmpty [a, b] = some r := by
  obtain rfl | ⟨rfl, ha⟩ := hr
  · simp [State.firstEmpty, h, he]
  · simp [State.firstEmpty, h, he, ha]

/-- An empty source with W set traps EMPTY_READ (04: R75). -/
theorem State.sources_empty_trap {s : State} {k r : Nat} {rs : List Nat} (h : s.cur = .tile k)
    (hp : (s.core k).pair = .alone) (he : s.firstEmpty rs = some r) (sl : Slice) (go : State → State) :
    s.sources true sl rs go =
      s.takeTrap k { code := cEMPTY_READ, detail := BitVec.ofNat 64 r, pc := (s.core k).pc } := by
  simp [State.sources, he, State.trap_alone h hp]

/-- An empty source with W clear leaves the instruction unexecuted (04: R75). -/
theorem State.sources_empty_wait {s : State} {k r : Nat} {rs : List Nat} (h : s.cur = .tile k)
    (he : s.firstEmpty rs = some r) (sl : Slice) (go : State → State) :
    s.sources false sl rs go = s.setCore k { s.core k with blocked := some (.regWord r) } := by
  simp [State.sources, he, State.block_tile h]

/-- Every R-form integer instruction reads its two sources by the empty rule before anything else. -/
theorem exec_rIntegers : ∀ p ∈ rIntegers, ∃ f : Word → Word → Word × Flags, ∀ w cs rb ra rd s,
    exec (p.1 w cs rb ra rd) s = .next (s.alu w cs rb ra rd f) := by
  simp only [rIntegers, List.forall_mem_cons, List.not_mem_nil, false_implies, implies_true, and_true]
  and_intros
  all_goals exact ⟨_, fun _ _ _ _ _ _ => rfl⟩

theorem exec_loads : ∀ p ∈ loads, ∀ imm ra rd s,
    exec (p.1 imm ra rd) s = .next (s.load 4 p.2.1 p.2.2 (simm imm) ra.toNat rd.toNat) := by
  simp only [loads, List.forall_mem_cons, List.not_mem_nil, false_implies, implies_true, and_true]
  and_intros
  all_goals exact fun _ _ _ _ => rfl

theorem exec_stores : ∀ p ∈ stores, ∀ imm ra rd s,
    exec (p.1 imm ra rd) s = .next (s.store 4 p.2 (simm imm) ra.toNat rd.toNat) := by
  simp only [stores, List.forall_mem_cons, List.not_mem_nil, false_implies, implies_true, and_true]
  and_intros
  all_goals exact fun _ _ _ _ => rfl

/-! ### Accesses that the checks of the address refuse (10: R203) -/

section
variable {s : State} {k n ra rd : Nat} {off : Word} {signed : Bool}
  (hc : s.cur = .tile k) (hf : ∀ r ∈ [ra], (s.core k).reg.isEmpty r = false) (hp : (s.core k).pair = .alone)
include hc hf

/-- A load reads its base register and goes on at its address. -/
theorem State.load_tile : s.load 4 n signed off ra rd =
    (s.setCore k ((s.core k).readIn .m [ra])).tileLoad k 4 n signed none (s.reg ra + off) rd := by
  have hn : (s.setCore k ((s.core k).readIn .m [ra])).cur = .tile k := hc
  rw [State.load, State.sources_tile hc hf]
  simp only [hn, State.reg_readIn hc]

theorem State.store_tile : s.store 4 n off ra rd =
    (s.setCore k ((s.core k).readIn .m [ra])).tileStore k 4 n none (s.reg ra + off) rd := by
  have hn : (s.setCore k ((s.core k).readIn .m [ra])).cur = .tile k := hc
  rw [State.store, State.sources_tile hc hf]
  simp only [hn, State.reg_readIn hc]

omit hf
include hp

/-- A trap after the sources are read names the same pc. -/
theorem State.trap_readIn (sl : Slice) (rs : List Nat) (c : Cause) :
    (s.setCore k ((s.core k).readIn sl rs)).trap c =
      (s.setCore k ((s.core k).readIn sl rs)).takeTrap k { c with pc := (s.core k).pc } := by
  have hn : (s.setCore k ((s.core k).readIn sl rs)).cur = .tile k := hc
  rw [State.trap_alone hn (by simpa [Core.readIn] using hp)]
  simp [Core.readIn]

include hf

theorem State.load_refused (ho : s.operand (corePos k) (s.reg ra + off) n .load = none) :
    s.load 4 n signed off ra rd = (s.setCore k ((s.core k).readIn .m [ra])).takeTrap k
      { code := cBAD_ADDRESS, addr := s.reg ra + off, pc := (s.core k).pc } := by
  rw [State.load_tile hc hf, State.tileLoad, State.operand_setCore, ho]
  exact State.trap_readIn hc hp ..

theorem State.load_misaligned {t : Target} (ho : s.operand (corePos k) (s.reg ra + off) n .load = some t)
    (hm : (s.reg ra + off).toNat % n ≠ 0) :
    s.load 4 n signed off ra rd = (s.setCore k ((s.core k).readIn .m [ra])).takeTrap k
      { code := cMISALIGNED, addr := s.reg ra + off, pc := (s.core k).pc } := by
  rw [State.load_tile hc hf, State.tileLoad, State.operand_setCore, ho]
  exact (if_pos hm).trans (State.trap_readIn hc hp ..)

theorem State.store_refused (ho : s.operand (corePos k) (s.reg ra + off) n .store = none) :
    s.store 4 n off ra rd = (s.setCore k ((s.core k).readIn .m [ra])).takeTrap k
      { code := cBAD_ADDRESS, addr := s.reg ra + off, pc := (s.core k).pc } := by
  rw [State.store_tile hc hf, State.tileStore, State.operand_setCore, ho]
  exact State.trap_readIn hc hp ..

theorem State.store_misaligned {t : Target} (ho : s.operand (corePos k) (s.reg ra + off) n .store = some t)
    (hm : (s.reg ra + off).toNat % n ≠ 0) :
    s.store 4 n off ra rd = (s.setCore k ((s.core k).readIn .m [ra])).takeTrap k
      { code := cMISALIGNED, addr := s.reg ra + off, pc := (s.core k).pc } := by
  rw [State.store_tile hc hf, State.tileStore, State.operand_setCore, ho]
  exact (if_pos hm).trans (State.trap_readIn hc hp ..)

end

end Sys2Proof.Machine

namespace Sys2Proof.Proofs
open Sys2Proof Sys2Proof.Machine

theorem userTraps : Parts.UserTraps := by
  intro s k n ra hc hp
  have brk : s.trap { code := cBREAKPOINT } = s.takeTrap k { code := cBREAKPOINT, pc := (s.core k).pc } :=
    State.trap_alone hc hp _
  refine ⟨congrArg _ brk, congrArg _ brk, fun hf => ?_⟩
  have hg : (s.setCore k (s.core k)).cur = .tile k := hc
  show execTrap n ra s = _
  rw [execTrap, State.sources_tile hc (by simpa using hf)]
  simp only [Core.readIn_a, hg]
  rw [State.trap_alone hg (by simpa using hp)]
  simp [State.reg, hc]

theorem emptySources : Parts.EmptySources := by
  intro s k cs rb ra rd hc hp r he hr p hm
  obtain ⟨f, hf⟩ := exec_rIntegers p hm
  have hfirst : s.firstEmpty [ra.toNat, rb.toNat] = some r.toNat :=
    State.firstEmpty_pair hc he (hr.imp (congrArg _) fun h => ⟨congrArg _ h.1, h.2⟩)
  rw [hf, hf, State.alu, State.alu, State.scalar, State.scalar]
  exact ⟨congrArg _ (State.sources_empty_trap hc hp hfirst ..),
    congrArg _ (State.sources_empty_wait hc hfirst ..)⟩
theorem accessFaults : Parts.AccessFaults := by
  intro s k imm ra rd hr hp
  obtain ⟨hc, hf, -⟩ := hr
  refine ⟨fun p hm => ⟨fun ho => ?_, fun t ho hmis => ?_⟩, fun p hm => ⟨fun ho => ?_, fun t ho hmis => ?_⟩⟩
  · exact (exec_loads p hm ..).trans (congrArg _ (State.load_refused hc hf hp ho))
  · exact (exec_loads p hm ..).trans (congrArg _ (State.load_misaligned hc hf hp ho hmis))
  · exact (exec_stores p hm ..).trans (congrArg _ (State.store_refused hc hf hp ho))
  · exact (exec_stores p hm ..).trans (congrArg _ (State.store_misaligned hc hf hp ho hmis))

/-- Settles O36: BRK and TRAP take their trap, an empty source traps or waits before anything else is looked at, and a
load or store checks its address before its data register and its destination. -/
theorem scalarTraps : Obligations.ScalarTraps := ⟨userTraps, emptySources, accessFaults⟩

end Sys2Proof.Proofs

/-! SUPPORT. Replies at a cluster and the code cache that takes a line (04: R68; 09: R183, R184), and the statement O42. -/

namespace Sys2Proof.Machine

/-! ### A cache that takes a line (04: R68) -/

theorem Tab.keys_filter {α : Type} {t : Tab α} {f : Nat × α → Bool} {j : Nat} (h : j ∈ Tab.keys (t.filter f)) :
    j ∈ Tab.keys t := by
  obtain ⟨e, he, rfl⟩ := List.mem_map.1 h
  exact List.mem_map_of_mem (List.mem_of_mem_filter he)

/-- A cache that takes a line holds it, and no line but those it held. The state gives at most a free value. -/
theorem State.cachePut_spec (s : State) (case sets ways : Nat) (t : Tab (BitVec 512)) (line : Nat) (l : BitVec 512) :
    let r := s.cachePut case sets ways t line l
    Tab.get 0 r.1 line = l ∧ (∀ j ∈ Tab.keys r.1, j = line ∨ j ∈ Tab.keys t) ∧ ∃ n, r.2 = { s with free := n } := by
  simp only [State.cachePut]
  split
  · exact ⟨Tab.get_put_same .., fun j => Tab.keys_put, s.free, rfl⟩
  · exact ⟨Tab.get_put_same .., fun j hj => (Tab.keys_put hj).imp_right Tab.keys_filter, s.free + 1, rfl⟩

/-- The code cache that takes a line; nothing else of the machine changes but what is free. -/
theorem State.fillCode_spec (s : State) (p line : Nat) (l : BitVec 512) :
    ∃ n w, s.fillCode p line l = ({ s with free := n } : State).setCluster p { s.cluster p with ccache := w } ∧
      Tab.get 0 w line = l ∧ ∀ j ∈ Tab.keys w, j = line ∨ j ∈ Tab.keys (s.cluster p).ccache := by
  obtain ⟨hl, hk, n, hn⟩ := s.cachePut_spec 36 256 8 (s.cluster p).ccache line l
  refine ⟨n, _, ?_, hl, hk⟩
  rw [State.fillCode, hn]
  rfl

/-! ### The first reply of a cluster (09: R183, R184) -/

section
variable {s : State} {pos : Nat} {m : Msg} {rest : List Msg}

theorem State.takeReply_head {fills : Bool} (hq : s.inq pos 3 = m :: rest) (hb : bit m.w2 3 = fills) :
    s.takeReply pos fills = some (m, s.setInq pos 3 rest) := by
  simp [State.takeReply, hq, List.findIdx?_cons, hb, nth, dropNth]

section
variable (hq : s.inq pos 3 = m :: rest) (hb : bit m.w2 3 = false) {l : Slot}
  (hp : (s.core (4 * pos + bits m.w0 14 2)).pair = .alone)
  (hl : nth none (s.core (4 * pos + bits m.w0 14 2)).slots (bits m.w2 0 3) = some l)
include hq hb hp hl

/-- DATA for a register: the slot is free, and the register full with its bytes. -/
theorem execReplySink_data (hk : m.kind = 0) (h8 : l.len = 8) : execReplySink pos s =
    let k := 4 * pos + bits m.w0 14 2
    .next ((s.setInq pos 3 rest).setCore k { s.core k with
      slots := setNth (s.core k).slots (bits m.w2 0 3) none
      reg := (s.core k).reg.put (l.dst / 8) (extend l.signed l.acc.n (ofBytes (takeN l.acc.n m.body))) }) := by
  rw [execReplySink, State.takeReply_head hq hb]
  simp [State.setInq, hl, hk, State.sinkData, h8, State.mirror_alone, hp]

/-- An acknowledgement: the slot is free. -/
theorem execReplySink_ack (hk : m.kind = 1) : execReplySink pos s =
    let k := 4 * pos + bits m.w0 14 2
    .next ((s.setInq pos 3 rest).setCore k { s.core k with
      slots := setNth (s.core k).slots (bits m.w2 0 3) none }) := by
  rw [execReplySink, State.takeReply_head hq hb]
  simp [State.setInq, hl, hk, State.mirror_alone, hp]

/-- ERROR for what is no store: the slot is free, and its access is due. -/
theorem execReplySink_error (hk : m.kind = 2) (hs : l.store = false) : execReplySink pos s =
    let k := 4 * pos + bits m.w0 14 2
    let n := bits m.w2 0 3
    .next ((s.setInq pos 3 rest).setCore k { s.core k with
      slots := setNth (s.core k).slots n none
      due := (s.core k).due ++
        [{ kind := 1, cause := bits m.w2 8 7, pc := l.pc, addr := l.acc.addr, slotNo := n, slot := l }] }) := by
  rw [execReplySink, State.takeReply_head hq hb]
  simp [State.setInq, hl, hk, hs, State.mirror_alone, hp]

end

section
variable (hq : s.inq pos 3 = m :: rest) (hb : bit m.w2 3 = true) {f : Fill}
  (hf : nth none (s.cluster pos).fills (bits m.w2 0 3) = some f) (hs : f.stale = false)
include hq hb hf hs

/-- A failed fill waits, with its cause, for the fetch that reaches it. -/
theorem execCodeCacheFill_error (hk : m.kind = 2) : execCodeCacheFill pos s =
    .next (s.setCluster pos { s.cluster pos with
      inq := Tab.put (s.cluster pos).inq 3 rest
      fills := setNth (s.cluster pos).fills (bits m.w2 0 3) (some { f with fault := some (bits m.w2 8 7, m.w3) }) }) := by
  rw [execCodeCacheFill, State.takeReply_head hq hb]
  simp [State.setInq, hf, hk, hs]

theorem execCodeCacheFill_data (hk : m.kind ≠ 2) : execCodeCacheFill pos s =
    .next ((s.setCluster pos { s.cluster pos with
      inq := Tab.put (s.cluster pos).inq 3 rest
      fills := setNth (s.cluster pos).fills (bits m.w2 0 3) none }).fillCode pos f.line.toNat
        (BitVec.ofNat 512 (ofBytes m.body))) := by
  rw [execCodeCacheFill, State.takeReply_head hq hb]
  simp [State.setInq, hf, hk, hs]

end
end

end Sys2Proof.Machine

namespace Sys2Proof.Proofs
open Sys2Proof Sys2Proof.Machine

/-- Settles O42: each reply at the head of its queue finds its slot or its fill, and the code cache that takes a line holds no
other new one. -/
theorem replySinking : Obligations.ReplySinking := by
  intro s pos m rest hq
  refine ⟨fun hb hp l hl =>
      ⟨execReplySink_data hq hb hp hl, execReplySink_ack hq hb hp hl, execReplySink_error hq hb hp hl⟩,
    fun hb f hf hs => ⟨fun hk => ?_, execCodeCacheFill_error hq hb hf hs⟩⟩
  have hexec := execCodeCacheFill_data hq hb hf hs (by omega)
  obtain ⟨n, w, hu, hline, hkeys⟩ := State.fillCode_spec (s.setCluster pos { s.cluster pos with
    inq := Tab.put (s.cluster pos).inq 3 rest
    fills := setNth (s.cluster pos).fills (bits m.w2 0 3) none }) pos f.line.toNat (BitVec.ofNat 512 (ofBytes m.body))
  refine ⟨_, hexec, ?_⟩
  rw [hu]
  refine ⟨?_, ?_, ?_, ?_, rfl, rfl, rfl⟩
  · simp [State.inq]
  · simp
  · simpa using hline
  · simpa using hkeys

end Sys2Proof.Proofs

/-! SUPPORT. A step: fetch, decode and issue, and the agenda (04: R67-R73, R82; 16: R335, R352; 17: R364), and the statement
O4. -/

namespace Sys2Proof.Machine

/-! ### The moves of the machine (log 1) -/

theorem State.with_cur {s : State} {c : CoreRef} (h : s.cur = c) : { s with cur := c } = s := by subst h; rfl

theorem State.step_agenda_nil {s : State} (h : s.agenda = []) : step s = s.issueOn exec s.cur := by
  rw [step, State.move, h]

theorem State.step_issue {s : State} {c : CoreRef} {rest : List Move} (h : s.agenda = .issue c :: rest)
    (hc : coreOk c = true) : step s = State.issueOn exec { s with agenda := rest } c := by
  rw [step, State.move, h]
  exact if_pos hc

theorem State.step_event {s : State} {i : Instr} {rest : List Move} (h : s.agenda = .event i :: rest)
    (hi : eventOk i = true) (hs : ∀ k, i ≠ .step k) : step s = exec i { s with agenda := rest } := by
  rw [step, State.move, h]
  simp only [hi, Bool.not_true, Bool.false_eq_true, if_false]
  split
  · exact absurd rfl (hs _)
  · rfl

theorem State.step_stepEvent {s t : State} {k : Nat} {rest : List Move} (h : s.agenda = .event (.step k) :: rest)
    (hk : isCore k = true) (ht : exec (.step k) { s with agenda := rest } = .next t) :
    step s = if (t.core (t.leader k)).stepping then t.issueOn exec (.tile (t.leader k)) else .next t := by
  have hi : eventOk (.step k) = true := hk
  rw [step, State.move, h]
  simp only [hi, Bool.not_true, Bool.false_eq_true, if_false, ht]

theorem andThen_andThen (o : Out) (f g : State → State) : andThen (andThen o f) g = andThen o fun s => g (f s) := by
  cases o <;> rfl

/-! ### The tile core that issues -/

/-- Taking a trap leaves the core's role in a pair. -/
theorem State.takeTrap_pair (s : State) (k : Nat) (c : Cause) : ((s.takeTrap k c).core k).pair = (s.core k).pair := by
  simp only [State.takeTrap]
  split <;> simp [State.toIsland, State.injectCore, State.core, State.setCore, State.writeMem]

/-- A step of the hub that the instruction ends is over (17: R364). -/
def State.ended (k : Nat) (t : State) : State := if (t.core k).stepping then t.endStep k else t

theorem State.afterIssue_alone {t : State} {k : Nat} {i : Instr} (h : (t.core k).pair ≠ .first) :
    t.afterIssue k i = t := by
  simp [State.afterIssue, State.mirror, h]

/-- No step begins at a core that runs: it is under no stop, or within a step already. -/
theorem State.nextStep_running {s : State} {k : Nat} (h : (s.core k).still = false) : s.nextStep k = s := by
  simp only [Core.still, Core.inStep, Bool.or_eq_false_iff] at h
  obtain ⟨⟨-, hs⟩, -⟩ := h
  refine if_pos ?_
  cases hst : (s.core k).stepping <;> simp_all

section
variable {s : State} {k : Nat} (h : s.issuing k)
include h

/-- What the issuing core does, and what ends its step. -/
theorem State.step_issuing : step s = andThen (s.issueTile exec k) (State.ended k) := by
  obtain ⟨ha, hc, -, hs, -⟩ := h
  rw [State.step_agenda_nil ha, hc, State.issueOn, State.with_cur hc]
  simp only [State.nextStep_running hs]
  rfl

theorem State.issueTile_stop {t u : State} (hf : s.fetchTile k = (.stop t, u)) :
    s.issueTile exec k = .next (t.mirror k) := by
  obtain ⟨-, -, hp, hs, hm, hpre, hd, hch, hst, hse, hfr, hl⟩ := h
  have hch' : (s.core k).ch.isNone = false := by simpa [Option.isSome_iff_ne_none] using hch
  simp [State.issueTile, State.setLink, hp, hs, hm, hpre, hd, hch', hst, hse, hfr, hl, hf]

theorem State.issueTile_instr {i : Instr} (hf : s.fetchTile k = (.instr i, s))
    (hw : ∀ w, w < 9 → bit (Tab.get 0 (s.cluster (corePos k)).wp w) 63 = false) :
    s.issueTile exec k = andThen (exec i s) fun t => t.afterIssue k i := by
  obtain ⟨-, -, hp, hs, hm, hpre, hd, hch, hst, hse, hfr, hl⟩ := h
  have hch' : (s.core k).ch.isNone = false := by simpa [Option.isSome_iff_ne_none] using hch
  simp [State.issueTile, State.setLink, hp, hs, hm, hpre, hd, hch', hst, hse, hfr, hl, hf, Core.needsCkpt,
    State.watchExec_quiet hw]

/-- A fetch that stops at a trap: the trap is the step. -/
theorem State.step_trap {u : State} {c : Cause} (hf : s.fetchTile k = (.stop (s.trap c), u)) :
    step s = .next (State.ended k (s.takeTrap k { c with pc := (s.core k).pc })) := by
  obtain ⟨-, hc, hp, -⟩ := id h
  rw [State.step_issuing h, State.issueTile_stop h hf, State.trap_alone hc hp,
    State.mirror_alone ((State.takeTrap_pair s k _).trans hp)]
  rfl

theorem State.step_instr {i : Instr} (hf : s.fetchTile k = (.instr i, s))
    (hw : ∀ w, w < 9 → bit (Tab.get 0 (s.cluster (corePos k)).wp w) 63 = false) :
    step s = andThen (exec i s) fun t => State.ended k (t.afterIssue k i) := by
  rw [State.step_issuing h, State.issueTile_instr h hf hw, andThen_andThen]

end

/-! ### Fetch of what the I-cache holds (04: R67-R73) -/

theorem State.fetchHalf_cached {s : State} {k h : Nat} {a : Word} (hc : s.cached k a h) (at_ : Word) :
    s.fetchHalf k at_ a = (.half h, s) := by
  obtain ⟨ha, l, hl, hh⟩ := hc
  simp [State.fetchHalf, ha, hl, hh]

/-- What the decoder makes of the halfwords fetched. -/
def State.decoded (s : State) : Except Reject (Instr × Nat) → Fetched
  | .ok r => .instr r.1
  | .error _ => .stop s.illegal

/- The kernel, told to compare a call of `fetchTile` with its body, evaluates the test of the code address in `fetchHalf`.
So the proofs put a variable in the place of `fetchHalf` before they take the body. -/
section
variable {s : State} {k h : Nat} (hc : s.cur = .tile k) (h0 : s.cached k ((s.core k).pc &&& ~~~1) h)
include hc h0

theorem State.fetchTile_entry (hb : bit (s.core k).pc 0 = true ∨ halfClass h = 2) :
    s.fetchTile k = (.stop s.illegalEntry, s) := by
  have hp : s.pc = (s.core k).pc := by simp [State.pc, hc]
  have hf := State.fetchHalf_cached h0 (s.core k).pc
  generalize hg : @State.fetchTile = g
  delta State.fetchTile at hg
  generalize State.fetchHalf = fetch at hf hg
  subst hg
  simp only [hp, hf]
  exact if_pos (by simpa using hb)

/-- A well-placed first halfword, with the second where it calls for one, is what the decoder reads. -/
theorem State.fetchTile_decoded (hb : bit (s.core k).pc 0 = false) (h2 : halfClass h ≠ 2) {h' : Option Nat}
    (h3 : halfClass h = 3 → ∃ x, h' = some x ∧ s.cached k ((s.core k).pc + 2) x) (hn : halfClass h ≠ 3 → h' = none) :
    s.fetchTile k = (s.decoded (decodeHalves h h'), s) := by
  have hp : s.pc = (s.core k).pc := by simp [State.pc, hc]
  have hf := State.fetchHalf_cached h0 (s.core k).pc
  replace h3 (h3' : halfClass h = 3) : ∃ x, h' = some x ∧
      s.fetchHalf k (s.core k).pc ((s.core k).pc + 2) = (.half x, s) :=
    (h3 h3').imp fun _ hx => hx.imp_right fun h1 => State.fetchHalf_cached h1 _
  generalize hg : @State.fetchTile = g
  delta State.fetchTile at hg
  generalize State.fetchHalf = fetch at hf h3 hg
  subst hg
  simp only [hp, hf]
  refine (if_neg (by simp [hb, h2])).trans ?_
  by_cases hx : halfClass h = 3
  · obtain ⟨x, rfl, h1⟩ := h3 hx
    rw [if_pos hx, h1]
    dsimp only
    cases decodeHalves h (some x) <;> rfl
  · obtain rfl := hn hx
    rw [if_neg hx]
    cases decodeHalves h none <;> rfl

end

/-! ### The island core that issues (16: R352) -/

section
variable {s : State} {k : Nat}

/-- Counting the errors in the code read leaves the core that issues and the island cores. -/
theorem Uncounted.countXlat {β : Type} {p : State → β} (hp : Uncounted p) (s : State) (k : Nat) (a : Word) :
    p (s.countXlat k a) = p s := by
  unfold State.countXlat
  split
  · rfl
  · exact hp.countRoot ..

theorem Uncounted.countCode {β : Type} {p : State → β} (hp : Uncounted p) (s : State) (k : Nat) :
    p (s.countCode k) = p s := by
  have h2 (t : State) (h : Nat) : p ((t.countXlat k (s.pc &&& ~~~1)).countEcc (k / 8) h 2) = p t := by
    rw [hp.countEcc, hp.countXlat]
  simp only [State.countCode]
  split
  · exact hp.countXlat ..
  · split
    · exact h2 ..
    · split
      · split <;> split <;> simp only [hp.countEcc, hp.countXlat]
      · rw [hp.countXlat, h2]

theorem uncounted_cur : Uncounted State.cur := ⟨fun _ _ _ => rfl, fun _ _ => rfl⟩

theorem uncounted_icores : Uncounted State.icores := ⟨fun _ _ _ => rfl, fun _ _ => rfl⟩

theorem State.icore_countCode (s : State) (k j : Nat) : (s.countCode k).icore j = s.icore j :=
  congrArg (Tab.get _ · j) (uncounted_icores.countCode s k)

section
variable {c : ICore} (hc : s.cur = .island k) (hi : s.icore k = c) {a : Nat}
  (h0 : s.islandCode k (c.pc &&& ~~~1) = .ok a)
include hc hi h0

theorem State.fetchIsland_entry (hb : bit c.pc 0 = true ∨ halfClass (s.readMem a 2) = 2) :
    s.fetchIsland k = .stop s.illegalEntry := by
  have hp : s.pc = c.pc := by simp [State.pc, hc, hi]
  simp only [State.fetchIsland, hp, h0]
  exact if_pos (by simpa using hb)

theorem State.fetchIsland_decoded (hb : bit c.pc 0 = false) (h2 : halfClass (s.readMem a 2) ≠ 2)
    {h' : Option Nat} (h3 : halfClass (s.readMem a 2) = 3 →
      ∃ b, s.islandCode k (c.pc + 2) = .ok b ∧ h' = some (s.readMem b 2))
    (hn : halfClass (s.readMem a 2) ≠ 3 → h' = none) :
    s.fetchIsland k = s.decoded (decodeHalves (s.readMem a 2) h') := by
  have hp : s.pc = c.pc := by simp [State.pc, hc, hi]
  simp only [State.fetchIsland, hp, h0]
  refine (if_neg (by simp [hb, h2])).trans ?_
  by_cases hx : halfClass (s.readMem a 2) = 3
  · obtain ⟨b, h1, rfl⟩ := h3 hx
    rw [if_pos hx, h1]
    dsimp only
    cases decodeHalves (s.readMem a 2) (some (s.readMem b 2)) <;> rfl
  · obtain rfl := hn hx
    rw [if_neg hx]
    cases decodeHalves (s.readMem a 2) none <;> rfl

end

/-- The state in which an island core fetches: where the instruction has not begun, the errors in its code are counted. -/
def State.counted (s : State) (k : Nat) : State := if (s.icore k).blocked = none then s.countCode k else s

theorem State.counted_isNone (s : State) (k : Nat) :
    (if (s.icore k).blocked.isNone then s.countCode k else s) = s.counted k := by
  simp [State.counted]

theorem State.cur_counted (s : State) (k : Nat) : (s.counted k).cur = s.cur := by
  unfold State.counted
  split
  · exact uncounted_cur.countCode s k
  · rfl

theorem State.icore_counted (s : State) (k j : Nat) : (s.counted k).icore j = s.icore j := by
  unfold State.counted
  split
  · exact State.icore_countCode s k j
  · rfl

theorem State.trap_island (hc : s.cur = .island k) (c : Cause) :
    s.trap c = s.islandTrap k c.code c.addr (s.icore k).pc := by
  simp [State.trap, hc]

theorem State.step_island (ha : s.agenda = []) (hc : s.cur = .island k) : step s = s.issueIsland exec k := by
  rw [State.step_agenda_nil ha, hc, State.issueOn, State.with_cur hc]

section
variable (hw : (s.icore k).wedged = false)
include hw

theorem State.issueIsland_event (he : bit (s.icore k).kstat 1 = true) (hv : s.kevt k ≠ 0)
    (hb : (s.icore k).blocked = none) : s.issueIsland exec k = .next (s.takeEvent k) := by
  simp [State.issueIsland, State.eventDue, hw, he, hv, hb]

variable (he : bit (s.icore k).kstat 1 = true → s.kevt k ≠ 0 → (s.icore k).blocked ≠ none)
include he

omit hw in
/-- Nothing is taken where an event is masked, absent or within an instruction. -/
theorem State.no_event_due : ¬(s.eventDue k && (s.icore k).blocked.isNone) = true := by
  simpa [State.eventDue, Option.isSome_iff_ne_none] using he

theorem State.issueIsland_stop {t : State} (hf : (s.counted k).fetchIsland k = .stop t) :
    s.issueIsland exec k = .next t := by
  rw [State.issueIsland, hw, if_neg Bool.false_ne_true, if_neg (State.no_event_due he)]
  simp only [State.counted_isNone, hf]

theorem State.issueIsland_instr {i : Instr} (hf : (s.counted k).fetchIsland k = .instr i) :
    s.issueIsland exec k = exec i (s.counted k) := by
  rw [State.issueIsland, hw, if_neg Bool.false_ne_true, if_neg (State.no_event_due he)]
  simp only [State.counted_isNone, hf]

end
end
end Sys2Proof.Machine

namespace Sys2Proof.Proofs
open Sys2Proof Sys2Proof.Machine

theorem tileStep : Parts.TileStep := by
  intro s k h hi
  obtain ⟨-, hc, -⟩ := id hi
  have hp : s.pc = (s.core k).pc := by simp [State.pc, hc]
  refine fun h0 => ⟨fun hb => ?_, fun hb h2 h' h3 hn => ?_, fun t i ht => State.afterIssue_alone ht⟩
  · have hf := State.fetchTile_entry hc h0 hb
    simp only [State.illegalEntry, hc, hp] at hf
    exact (State.step_trap hi hf :)
  · have hf := State.fetchTile_decoded hc h0 hb h2 h3 hn
    refine ⟨fun i n hd hw => ?_, fun r hd => ?_⟩ <;> rw [hd] at hf
    · exact State.step_instr hi hf hw
    · exact (State.step_trap hi hf :)

theorem islandStep : Parts.IslandStep := by
  intro s k a ha hc hw
  rw [State.step_island ha hc]
  dsimp only
  generalize hu : (if (s.icore k).blocked = none then s.countCode k else s) = u
  obtain rfl : s.counted k = u := hu
  have hcu : (s.counted k).cur = .island k := (s.cur_counted k).trans hc
  have hic : (s.counted k).icore k = s.icore k := s.icore_counted k k
  refine ⟨State.issueIsland_event hw, fun he h0 => ⟨fun hb => ?_, fun hb h2 h' h3 hn => ?_⟩⟩
  · rw [State.issueIsland_stop hw he (State.fetchIsland_entry hcu hic h0 hb)]
    simp [State.illegalEntry, hcu, State.trap_island hcu, State.pc, hic]
  · have hf := State.fetchIsland_decoded hcu hic h0 hb h2 h3 hn
    refine ⟨fun i n hd => ?_, fun r hd => ?_⟩ <;> rw [hd] at hf
    · exact State.issueIsland_instr hw he hf
    · rw [State.issueIsland_stop hw he hf, State.illegal, State.trap_island hcu, hic]

theorem agendaStep : Parts.AgendaStep := by
  intro s rest
  refine ⟨fun i h hi hs => State.step_event h hi hs, fun k t h hk ht => ?_, fun c h hc => State.step_issue h hc,
    State.step_agenda_nil⟩
  have hstep := State.step_stepEvent h hk ht
  exact ⟨fun hj => hstep.trans (if_pos hj), fun hj => hstep.trans (if_neg (ne_true_of_eq_false hj))⟩

/-- Settles O4: nothing comes before the fetch of a core that issues; the fetch reads the halfwords that the decoder takes;
the agenda's head comes before the current core. -/
theorem stepRuns : Obligations.StepRuns := ⟨tileStep, islandStep, agendaStep⟩

end Sys2Proof.Proofs

/-! SUPPORT. POST, HMASK and DBGMARK (07: R137, R138; 17: R373), and the statement O24. -/

namespace Sys2Proof.Machine

/-! ### What every instruction of a tile core goes through (05: R93; 06: R104) -/

theorem State.onTile_tile {s : State} {k : Nat} (h : s.cur = .tile k) (go : Nat → State) : s.onTile go = go k := by
  simp [State.onTile, h]

theorem State.retire_setCore {s : State} {k : Nat} (h : s.cur = .tile k) (c : Core) :
    (s.setCore k c).retire 4 = s.setCore k (c.retired (c.pc + 4)) := by
  rw [State.retire_tile (k := k) (by simpa using h)]
  simp

theorem State.block_setCore {s : State} {k : Nat} (h : s.cur = .tile k) (c : Core) (w : Wait) :
    (s.setCore k c).block w = s.setCore k { c with blocked := some w } := by
  rw [State.block_tile (k := k) (by simpa using h)]
  simp

/-- An instruction whose sources are full goes on with its copies fresh. -/
theorem State.sources_ready {s : State} {k rd : Nat} {rs : List Nat} (hr : s.tileReady k rs rd) (w : Bool) (sl : Slice)
    (go : State → State) : s.sources w sl rs go = go (s.setCore k ((s.core k).readIn sl rs)) :=
  State.sources_tile hr.1 hr.2.1 w sl go

/-- The same where a destination may then be written. -/
theorem State.operands_ready {s : State} {k rd : Nat} {rs : List Nat} (hr : s.tileReady k rs rd) (w : Bool) (sl : Slice)
    (go : State → State) :
    (s.sources w sl rs fun s => s.destination rd go) = go (s.setCore k ((s.core k).readIn sl rs)) := by
  rw [State.sources_ready hr, State.destination_tile (s := s.setCore k _) (k := k) hr.1
    (by rw [State.writeWaits_readIn]; exact hr.2.2)]

/-! ### POST and DBGMARK (07: R137; 17: R373) -/

theorem bits_low (x : Word) (n : Nat) : bits x 0 n = x.toNat % 2 ^ n := by simp [bits]

/-- POST counts the low half of its source for the launch of the activation, and retires. -/
theorem execPost_ready {s : State} {k : Nat} {ra : Reg} (hr : s.tileReady k [ra.toNat] 0) : execPost ra s =
    .next (((s.setCore k (s.core k)).post k (s.core k).launchOf ((s.reg ra.toNat).toNat % 65536)).retire 4) := by
  rw [execPost, State.onTile_tile hr.1, State.sources_ready hr]
  simp only [State.reg_readIn hr.1, bits_low]
  rw [Core.readIn_a, State.core_setCore_same]
  rfl

/-- POST of nothing only retires. -/
theorem execPost_none {s : State} {k : Nat} {ra : Reg} (hr : s.tileReady k [ra.toNat] 0)
    (hn : (s.reg ra.toNat).toNat % 65536 = 0) :
    execPost ra s = .next (s.setCore k ((s.core k).retired ((s.core k).pc + 4))) := by
  rw [execPost_ready hr, State.post, if_pos hn, State.retire_setCore hr.1]

/-- POST of a number sends one VC0 word to the lead sequencer, before the local port, and retires. -/
theorem execPost_some {s : State} {k : Nat} {ra : Reg} (hr : s.tileReady k [ra.toNat] 0)
    (hn : (s.reg ra.toNat).toNat % 65536 ≠ 0) : execPost ra s =
      .next (((s.setCore k (s.core k)).toIsland k (s.partOf (regionOf (corePos k))).lead chPost
        [BitVec.ofNat 64 ((s.reg ra.toNat).toNat % 65536), BitVec.ofNat 64 (s.core k).launchOf]).setCore k
          ((s.core k).retired ((s.core k).pc + 4))) := by
  rw [execPost_ready hr, State.post, if_neg hn, State.retire_tile (s := (s.setCore k (s.core k)).toIsland _ _ _ _) (k := k) hr.1]
  exact congrArg (fun c : Core => Host.Outcome.next (State.setCore _ k (c.retired (c.pc + 4)))) (State.core_setCore_same s k _)

/-- DBGMARK in a cluster that is not traced only retires. -/
theorem execDbgmark_untraced {s : State} {k : Nat} {ra : Reg} (hr : s.tileReady k [ra.toNat] 0)
    (ht : (s.cluster (corePos k)).traceOn = false) :
    execDbgmark ra s = .next (s.setCore k ((s.core k).retired ((s.core k).pc + 4))) := by
  have hc : (s.setCore k (s.core k)).cur = .tile k := hr.1
  rw [execDbgmark, State.sources_ready hr, Core.readIn_a]
  simp only [hc, State.trace_off (s := s.setCore k _) ht, State.retire_setCore hr.1]

/-! ### HMASK (07: R138) -/

/-- A fold that puts the entries that a test picks: they are as put, and every other one as before. -/
theorem Tab.get_foldl_put {α : Type} (d : α) (p : Nat → Bool) (f : Nat → α) (l : List Nat) (t : Tab α) (j : Nat) :
    Tab.get d (l.foldl (fun t i => if p i then Tab.put t i (f i) else t) t) j =
      if j ∈ l ∧ p j = true then f j else Tab.get d t j := by
  induction l generalizing t with
  | nil => simp
  | cons i l ih =>
    rw [List.foldl_cons, ih]
    by_cases hp : p i = true
    · rw [if_pos hp, Tab.get_put]
      by_cases hj : j = i
      · subst hj; simp [hp]
      · simp [hj]
    · rw [if_neg hp]
      by_cases hj : j = i
      · subst hj; simp [hp]
      · simp [hj]

/-- The entry with its MASK bit replaced (01: R15). -/
def Handler.withMask (h : Handler) (b : Bool) : Handler :=
  { h with words := setNth h.words 1 ((nth 0 h.words 1 &&& ~~~8) ||| (if b then 8 else 0)) }

theorem nth_of_length_le {α : Type} {d : α} {l : List α} {i : Nat} (h : l.length ≤ i) : nth d l i = d := by
  induction l generalizing i with
  | nil => rfl
  | cons a l ih =>
    cases i with
    | zero => simp at h
    | succ i => exact ih (by simpa using h)

/-- A valid entry has its word 1, and the MASK bit written there is read back. -/
theorem Handler.mask_withMask {h : Handler} (hv : h.valid = true) (b : Bool) : (h.withMask b).mask = b := by
  have hlen : 1 < h.words.length := by
    by_contra hle
    rw [Handler.valid, nth_of_length_le (by omega)] at hv
    exact absurd hv (by decide)
  rw [Handler.mask, Handler.withMask, nth_setNth_same hlen, bit_eq_getLsbD]
  cases b <;> simp

/-- The handler table after HMASK with selection `sel` and values `val`. -/
def Core.exchanged (c : Core) (sel val : Word) : Tab Handler :=
  (span 0 32).foldl (fun t ch =>
    if (c.hand ch).valid && bit sel ch then Tab.put t ch ((c.hand ch).withMask (bit val ch)) else t) c.hands

theorem Core.mask_exchanged (c : Core) (sel val : Word) {ch : Nat} (hch : ch < 32) :
    (({ c with hands := c.exchanged sel val } : Core).hand ch).mask =
      if (c.hand ch).valid && bit sel ch then bit val ch else (c.hand ch).mask := by
  have hmem : ch ∈ span 0 32 := mem_span.2 (by omega)
  rw [Core.hand, Core.exchanged, Tab.get_foldl_put]
  by_cases h : ((c.hand ch).valid && bit sel ch) = true
  · rw [if_pos ⟨hmem, h⟩, if_pos h]
    exact Handler.mask_withMask (Bool.and_eq_true_iff.1 h).1 _
  · rw [if_neg (fun hh => h hh.2), if_neg h]
    rfl

/-- HMASK exchanges MASK bits and returns those before it. -/
theorem execHmask_ready {s : State} {k : Nat} {rb ra rd : Reg} (hr : s.tileReady k [ra.toNat, rb.toNat] rd.toNat) :
    execHmask rb ra rd s = .next (s.setCore k
      ({ s.core k with hands := (s.core k).exchanged (s.reg rb.toNat) (s.reg ra.toNat) }.done .a [] rd.toNat
        (BitVec.ofNat 64 (s.core k).masks) 0 4)) := by
  rw [execHmask, State.onTile_tile hr.1, State.operands_ready hr]
  simp only [State.reg_readIn hr.1]
  rw [Core.readIn_a, State.core_setCore_same, State.setCore_setCore, State.finish_setCore hr.1]
  rfl

/-! ### What completion leaves of a core (06: R104) -/

theorem Core.done_pc (c : Core) (sl : Slice) (rs : List Nat) (rd : Nat) (v : Word) (cs len : Nat) :
    (c.done sl rs rd v cs len).pc = c.pc + BitVec.ofNat 64 len := rfl

theorem Core.wrote_word {c : Core} {rd : Nat} (h : rd ≠ 0) (v : Word) (cs : Nat) : (c.wrote rd v cs).reg.word rd = v := by
  rw [Core.wrote, if_neg h]
  exact (RegSpace.word_put c.reg rd rd v).trans (if_pos ⟨rfl, h⟩)

theorem Core.done_word {c : Core} {rd : Nat} (h : rd ≠ 0) (sl : Slice) (rs : List Nat) (v : Word) (cs len : Nat) :
    (c.done sl rs rd v cs len).reg.word rd = v := Core.wrote_word h v cs

theorem Core.wrote_keeps {β : Type} {f : Core → β} (hf : ∀ (c : Core) g, f { c with reg := g } = f c) (c : Core) (rd : Nat)
    (v : Word) (cs : Nat) : f (c.wrote rd v cs) = f c := by
  rw [Core.wrote]
  split
  · rfl
  · exact hf _ _

theorem Reg.toNat_ne_zero {r : Reg} (h : r ≠ 0) : r.toNat ≠ 0 := fun h0 => h (BitVec.eq_of_toNat_eq h0)

end Sys2Proof.Machine

namespace Sys2Proof.Proofs
open Sys2Proof Sys2Proof.Machine

/-- Settles O24: POST sends its word where it signals anything, HMASK exchanges the MASK bits that it selects, an untraced
DBGMARK retires. -/
theorem signalResults : Obligations.SignalResults := by
  unfold Obligations.SignalResults
  intro s k rb ra rd c n
  refine ⟨fun hr => ⟨execPost_none hr, fun hn => ?_, execDbgmark_untraced hr⟩, fun hr => ?_⟩
  · refine ⟨_, ?m, execPost_some hr hn, ?net, ?_⟩
    case net => rfl
    rw [State.core_setCore_same]
    exact ⟨rfl, rfl, rfl, rfl, rfl, rfl⟩
  · refine ⟨_, execHmask_ready hr, fun ch hch => ?_, fun h => ?_, ?_, rfl, rfl⟩ <;> rw [State.core_setCore_same]
    · exact (congrArg Handler.mask (Core.wrote_keeps (f := fun c => c.hand ch) (fun _ _ => rfl) _ _ _ _)).trans
        (c.mask_exchanged (s.reg rb.toNat) (s.reg ra.toNat) hch)
    · exact Core.done_word (Reg.toNat_ne_zero h) ..
    · rfl

end Sys2Proof.Proofs

/-! SUPPORT. Barriers of a cluster (07: R139, R140), and the statement O25. -/

namespace Sys2Proof.Machine

/-! ### An arrival (07: R140) -/

/-- With every access performed there is none that a release waits for (15: R312, R317). -/
theorem Core.unperformed_drained {c : Core} (h : c.drained) (scope : Nat) : c.unperformed scope = false := by
  simp [Core.unperformed, Core.buffered_drained h, h.2.2.2]

theorem Barrier.arrive_zero (b : Barrier) : b.arrive 0 = .error cILLEGAL_OP := rfl

theorem Barrier.arrive_mismatch {b : Barrier} {t : Nat} (ht : t ≠ 0) (hb : b.target ≠ 0) (hne : b.target ≠ t) :
    b.arrive t = .error cBARRIER_MISMATCH := by
  simp [Barrier.arrive, ht, hb, hne]

theorem Barrier.arrive_last {b : Barrier} {t : Nat} (ht : t ≠ 0) (hb : b.target = 0 ∨ b.target = t) (hl : b.count + 1 = t) :
    b.arrive t = .ok (b.phase, { b with count := 0, target := 0, phase := (b.phase + 1) % 2 ^ 32 }) := by
  have hok : ¬(b.target ≠ 0 && b.target ≠ t) = true := by simpa [or_iff_not_imp_left] using hb
  rw [Barrier.arrive, if_neg ht, if_neg hok, if_pos hl]

theorem Barrier.arrive_counted {b : Barrier} {t : Nat} (ht : t ≠ 0) (hb : b.target = 0 ∨ b.target = t)
    (hl : b.count + 1 ≠ t) :
    b.arrive t = .ok (b.phase, { b with count := b.count + 1, target := t }) := by
  have hok : ¬(b.target ≠ 0 && b.target ≠ t) = true := by simpa [or_iff_not_imp_left] using hb
  rw [Barrier.arrive, if_neg ht, if_neg hok, if_neg hl]

/-- A phase has passed an earlier one where it is ahead by less than half the range. -/
theorem phasePast_iff (phase p : Nat) : phasePast phase p = true ↔
    1 ≤ (phase + 2 ^ 32 - p % 2 ^ 32) % 2 ^ 32 ∧ (phase + 2 ^ 32 - p % 2 ^ 32) % 2 ^ 32 < 2 ^ 31 := by
  simp [phasePast]

theorem phasePast_eq_false (phase p : Nat) : phasePast phase p = false ↔
    (phase + 2 ^ 32 - p % 2 ^ 32) % 2 ^ 32 = 0 ∨ 2 ^ 31 ≤ (phase + 2 ^ 32 - p % 2 ^ 32) % 2 ^ 32 := by
  rw [← Bool.not_eq_true, phasePast_iff]; omega

theorem phasePast_bits (phase : Nat) (x : Word) : phasePast phase (bits x 0 32) = phasePast phase x.toNat := by
  simp [phasePast, bits_low]

theorem phasePast_next {p : Nat} (h : p < 2 ^ 32) : phasePast ((p + 1) % 2 ^ 32) p = true := by
  rw [phasePast_iff]; omega

theorem phasePast_self {p : Nat} (h : p < 2 ^ 32) : phasePast p p = false := by
  rw [phasePast_eq_false]; omega

@[simp] theorem State.core_setBar (s : State) (p i j : Nat) (b : Barrier) : (s.setBar p i b).core j = s.core j := rfl

@[simp] theorem State.bar_setBar_same (s : State) (p i : Nat) (b : Barrier) : ((s.setBar p i b).cluster p).bar i = b := by
  rw [State.setBar, State.cluster_setCluster_same]
  exact Tab.get_put_same _ _ _ _

/-! ### The instructions -/

/-- A core put back as it is takes a trap as before. -/
theorem State.takeTrap_setCore_same (s : State) (k : Nat) (c : Cause) :
    (s.setCore k (s.core k)).takeTrap k c = s.takeTrap k c := by
  simp only [State.takeTrap, State.core_setCore_same, State.setCore_setCore]

section
variable {s : State} {k : Nat} {rb ra rd : Reg} (hr : s.tileReady k [ra.toNat, rb.toNat] rd.toNat)
include hr

/-- CBAR.ARRIVE arrives at the barrier that its first source names, with the target in its second. -/
theorem exec_cbarArrive_ready : exec (.cbarArrive rb ra rd) s = .next ((s.setCore k (s.core k)).coreArrive k
    ((s.reg ra.toNat).toNat % 8) ((s.reg rb.toNat).toNat % 65536) fun ph s => s.finish 4 rd.toNat (BitVec.ofNat 64 ph) 0) := by
  change execCbarArrive rb ra rd s = _
  rw [execCbarArrive, State.onTile_tile hr.1, State.operands_ready hr]
  simp only [State.reg_readIn hr.1, bits_low, Nat.reducePow]
  rw [Core.readIn_a]

/-- CBAR.ARRIVEWAIT arrives where it has not yet, and waits. -/
theorem exec_cbarArrivewait_arrives (hb : (s.core k).barWait = none) : exec (.cbarArrivewait rb ra rd) s =
    .next ((s.setCore k (s.core k)).coreArrive k ((s.reg ra.toNat).toNat % 8) ((s.reg rb.toNat).toNat % 65536)
      fun ph t => t.barrierWait k ((s.reg ra.toNat).toNat % 8) ph rd.toNat) := by
  change execCbarArrivewait rb ra rd s = _
  rw [execCbarArrivewait, State.onTile_tile hr.1, State.operands_ready hr]
  simp only [State.reg_readIn hr.1, bits_low, Nat.reducePow]
  rw [Core.readIn_a]
  simp only [State.core_setCore_same, hb]

/-- CBAR.ARRIVEWAIT whose arrival has been made waits for the phase after it. -/
theorem exec_cbarArrivewait_waits {j ph : Nat} (hb : (s.core k).barWait = some (j, ph)) :
    exec (.cbarArrivewait rb ra rd) s = .next ((s.setCore k (s.core k)).barrierWait k j ph rd.toNat) := by
  change execCbarArrivewait rb ra rd s = _
  rw [execCbarArrivewait, State.onTile_tile hr.1, State.operands_ready hr, Core.readIn_a]
  simp only [State.core_setCore_same, hb]

end

section
variable {s : State} {k i t : Nat}

/-- An arrival of a core with nothing under way is the barrier's. -/
theorem State.coreArrive_ok (hd : s.noneOut k) {ph : Nat} {b : Barrier}
    (ha : ((s.cluster (corePos k)).bar i).arrive t = .ok (ph, b)) (go : Nat → State → State) :
    (s.setCore k (s.core k)).coreArrive k i t go = go ph ((s.setBar (corePos k) i b).setCore k (s.core k)) := by
  simp only [State.coreArrive, State.core_setCore_same, Core.unperformed_drained hd.1, State.cluster_setCore, ha]
  rfl

/-- A refused arrival is none, and raises its cause with the two targets where they differ. -/
theorem State.coreArrive_error (hc : s.cur = .tile k) (hd : s.noneOut k) (hp : (s.core k).pair = .alone) {x : Nat}
    (ha : ((s.cluster (corePos k)).bar i).arrive t = .error x) (go : Nat → State → State) :
    (s.setCore k (s.core k)).coreArrive k i t go = s.takeTrap k
      { code := x, detail := if x = cBARRIER_MISMATCH then fields [(0, ((s.cluster (corePos k)).bar i).target), (16, t)] else 0,
        pc := (s.core k).pc } := by
  have hc' : (s.setCore k (s.core k)).cur = .tile k := hc
  have hp' : ((s.setCore k (s.core k)).core k).pair = .alone := by rw [State.core_setCore_same, hp]
  rw [← State.takeTrap_setCore_same]
  simp only [State.coreArrive, State.trap_alone hc' hp', State.core_setCore_same, Core.unperformed_drained hd.1,
    State.cluster_setCore, ha]
  rfl

/-- A wait whose phase has passed ends with the arrival's phase. -/
theorem State.barrierWait_passed (hc : s.cur = .tile k) {ph : Nat}
    (hp : phasePast ((s.cluster (corePos k)).bar i).phase ph = true) (c : Core) (rd : Nat) :
    (s.setCore k c).barrierWait k i ph rd =
      s.setCore k ({ c with barWait := none }.done .a [] rd (BitVec.ofNat 64 ph) 0 4) := by
  rw [State.barrierWait, State.cluster_setCore, if_pos hp, State.core_setCore_same, State.setCore_setCore, State.finish_setCore hc]
  rfl

theorem State.barrierWait_waits (hc : s.cur = .tile k) {ph : Nat}
    (hp : phasePast ((s.cluster (corePos k)).bar i).phase ph = false) (c : Core) (rd : Nat) :
    (s.setCore k c).barrierWait k i ph rd = s.setCore k { c with barWait := some (i, ph), blocked := some .barrier } := by
  rw [State.barrierWait, State.cluster_setCore, hp, if_neg Bool.false_ne_true, State.core_setCore_same, State.setCore_setCore,
    State.block_setCore hc]

end

/-- CBAR.WAIT goes on once the phase has passed the given one. -/
theorem exec_cbarWait_ready {s : State} {k : Nat} {rb ra : Reg} (hr : s.tileReady k [ra.toNat, rb.toNat] 0) :
    exec (.cbarWait rb ra) s = .next (if phasePast ((s.cluster (corePos k)).bar ((s.reg ra.toNat).toNat % 8)).phase
        (s.reg rb.toNat).toNat
      then s.setCore k ((s.core k).retired ((s.core k).pc + 4)) else s.setCore k { s.core k with blocked := some .barrier }) := by
  change execCbarWait rb ra s = _
  rw [execCbarWait, State.onTile_tile hr.1, State.sources_ready hr]
  simp only [phasePast_bits]
  simp only [State.reg_readIn hr.1, bits_low, Nat.reducePow]
  rw [Core.readIn_a, State.retire_setCore hr.1, State.block_setCore hr.1, State.cluster_setCore]

end Sys2Proof.Machine

namespace Sys2Proof.Proofs
open Sys2Proof Sys2Proof.Machine

/-- Settles O25: an arrival is the barrier's, whose last one steps the phase; a wait ends once the phase has passed. -/
theorem barrierResults : Obligations.BarrierResults := by
  unfold Obligations.BarrierResults
  intro s k rb ra rd c i t b
  refine ⟨fun hr hd hw ht hb => ?_, fun hr hd hw hp => ?_, fun hr j ph hw => ?_, fun hr => ?_⟩
  · have hbw : ({ c with barWait := none } : Core) = c := by rw [← hw]
    refine ⟨fun hl => ?_, fun hl hph => ⟨?_, ?_⟩, fun hl hph => ?_⟩
    · rw [exec_cbarArrive_ready hr, State.coreArrive_ok hd (Barrier.arrive_counted ht hb hl),
        State.finish_setCore (s := s.setBar _ _ _) hr.1]
      rfl
    · rw [exec_cbarArrive_ready hr, State.coreArrive_ok hd (Barrier.arrive_last ht hb hl),
        State.finish_setCore (s := s.setBar _ _ _) hr.1]
      rfl
    · rw [exec_cbarArrivewait_arrives hr hw, State.coreArrive_ok hd (Barrier.arrive_last ht hb hl),
        State.barrierWait_passed (s := s.setBar _ _ _) hr.1 (by rw [State.bar_setBar_same]; exact phasePast_next hph)]
      exact congrArg (fun c : Core => Host.Outcome.next (State.setCore _ k (c.done .a [] _ _ 0 4))) hbw
    · rw [exec_cbarArrivewait_arrives hr hw, State.coreArrive_ok hd (Barrier.arrive_counted ht hb hl),
        State.barrierWait_waits (s := s.setBar _ _ _) hr.1 (by rw [State.bar_setBar_same]; exact phasePast_self hph)]
  · have harrive : ∀ f ∈ [(Instr.cbarArrive : Reg → Reg → Reg → Instr), .cbarArrivewait], ∃ go : Nat → State → State,
        exec (f rb ra rd) s = .next ((s.setCore k c).coreArrive k i t go) := by
      simp only [List.forall_mem_cons, List.not_mem_nil, false_implies, implies_true, and_true]
      exact ⟨⟨_, exec_cbarArrive_ready hr⟩, _, exec_cbarArrivewait_arrives hr hw⟩
    intro f hf
    obtain ⟨go, hgo⟩ := harrive f hf
    refine ⟨fun ht => ?_, fun ht hb hne => ?_⟩ <;> rw [hgo]
    · rw [State.coreArrive_error hr.1 hd hp (ht ▸ Barrier.arrive_zero b)]
      rfl
    · rw [State.coreArrive_error hr.1 hd hp (Barrier.arrive_mismatch ht hb hne)]
      rfl
  · refine ⟨fun h1 h2 => ?_, fun hd => ?_⟩ <;> rw [exec_cbarArrivewait_waits hr hw]
    · rw [State.barrierWait_passed hr.1 ((phasePast_iff _ _).2 ⟨h1, h2⟩)]
    · rw [State.barrierWait_waits hr.1 ((phasePast_eq_false _ _).2 hd), ← hw]
  · refine ⟨fun h1 h2 => ?_, fun hd => ?_⟩ <;> rw [exec_cbarWait_ready hr]
    · rw [if_pos ((phasePast_iff _ _).2 ⟨h1, h2⟩)]
    · rw [if_neg (ne_true_of_eq_false ((phasePast_eq_false _ _).2 hd))]

end Sys2Proof.Proofs

/-! SUPPORT. Issue of engine operations (05: R93, R94; 07: R143), and the statements O30 and O31. -/

namespace Sys2Proof.Machine

/-! ### Words that an issue owes (05: R94) -/

theorem mem_wordsIn {rs : List (Nat × Nat)} {w : Nat} : w ∈ wordsIn rs ↔ inRanges rs w = true := by
  simp [wordsIn, inRanges, mem_span]

theorem RegSpace.isEmpty_owe_iff (g : RegSpace) (v w : Nat) :
    (g.owe v).isEmpty w = (decide (w ≠ 0) && decide (w = v) || g.isEmpty w) := by
  unfold RegSpace.owe RegSpace.isEmpty
  by_cases hv : v = 0
  · subst hv; by_cases hw : w = 0 <;> simp [hw]
  · by_cases hw : w = v <;> simp [hv, hw, Tab.get_put]

theorem RegSpace.words_owe (g : RegSpace) (v : Nat) : (g.owe v).words = g.words := by
  unfold RegSpace.owe; split <;> rfl

/-- The words of ranges owed: they are empty, but for word 0, and every other word as it was. -/
theorem RegSpace.isEmpty_owes (g : RegSpace) (rs : List (Nat × Nat)) (w : Nat) :
    (RegSpace.overRanges RegSpace.owe g rs).isEmpty w = (decide (w ≠ 0) && inRanges rs w || g.isEmpty w) := by
  have words : ∀ (l : List Nat) (g : RegSpace),
      (l.foldl RegSpace.owe g).isEmpty w = (decide (w ≠ 0) && decide (w ∈ l) || g.isEmpty w) := by
    intro l
    induction l with
    | nil => simp
    | cons v l ih =>
      intro g
      rw [List.foldl_cons, ih, RegSpace.isEmpty_owe_iff]
      by_cases hv : w = v
      · subst hv; by_cases hw : w = 0 <;> simp [hw]
      · simp [hv]
  have hfold : RegSpace.overRanges RegSpace.owe g rs = (wordsIn rs).foldl RegSpace.owe g := by
    rw [wordsIn, List.foldl_flatMap]; rfl
  rw [hfold, words]
  simp only [mem_wordsIn, Bool.decide_eq_true]

theorem RegSpace.words_owes (g : RegSpace) (rs : List (Nat × Nat)) :
    (RegSpace.overRanges RegSpace.owe g rs).words = g.words :=
  List.foldlRecOn rs _ (motive := fun h : RegSpace => h.words = g.words) rfl fun h hh r _ =>
    List.foldlRecOn (span r.1 r.2) _ (motive := fun h : RegSpace => h.words = g.words) hh fun h hh w _ =>
      (RegSpace.words_owe h w).trans hh

/-! ### Leases and the dispatch queue (07: R143, R144) -/

/-- Engines whose leases are held are passed. -/
theorem State.leased_append {s : State} {k : Nat} {pre : List Nat} (h : (s.core k).leased pre) (es : List Nat)
    (go : State → State) : s.leased k (pre ++ es) go = s.leased k es go := by
  induction pre with
  | nil => rfl
  | cons e pre ih =>
    obtain ⟨⟨hst, hy⟩, ht⟩ := List.forall_mem_cons.1 h
    have hy' : ¬((s.core k).lease e).yielding = true := ne_true_of_eq_false hy
    rw [← ih ht, List.cons_append, State.leased]
    rcases (show ((s.core k).lease e).st = .held ∨ ((s.core k).lease e).st = .grace from hst) with hst | hst
    · simp only [hst, if_neg hy']
    · simp only [hst, if_neg hy']

theorem State.leased_held {s : State} {k : Nat} {es : List Nat} (h : (s.core k).leased es) (go : State → State) :
    s.leased k es go = go s := by
  rw [← List.append_nil es, State.leased_append h]
  rfl

/-- Where no stopped operation waits to be resumed an operation starts at its beginning (13: R266). -/
theorem State.resumeAt_fresh {s : State} {k : Nat} {op : EngOp}
    (h : ∀ e ∈ op.engs, pidxValid (Tab.get 0 (s.core k).pidx e) = false) : s.resumeAt k op = (op, s) := by
  cases he : op.engs with
  | nil => simp [State.resumeAt, he]
  | cons e es =>
    have hv := h e (by rw [he]; exact List.mem_cons_self)
    simp only [State.resumeAt, he, hv, Bool.false_and, Bool.false_eq_true, if_false]

/-- What an operation takes with it as core `k` issues it. -/
def State.issued (s : State) (k : Nat) (op : EngOp) : EngOp :=
  let c := s.core k
  { op with pc := c.pc, seq := c.nextSeq, rm := s.rm, vbase := c.vbase.toNat, abase := c.abase.toNat }

/-- A core with an operation at the end of its dispatch queue and the words that it writes owed. -/
def Core.joined (c : Core) (op : EngOp) (writes : List (Nat × Nat)) : Core :=
  { c with nextSeq := c.nextSeq + 1, dispq := c.dispq ++ [op], reg := RegSpace.overRanges RegSpace.owe c.reg writes }

/-- An operation that the bay is ready for joins the dispatch queue, and its destination words are owed. -/
theorem State.dispatch_ready {s : State} {k : Nat} {op : EngOp} (h : s.bayReady k op.engs op.reads op.writes)
    (hk : (s.core k).knows (s.issued k op) = s.core k) :
    s.dispatch k op = s.setCore k (((s.core k).joined (s.issued k op) op.writes).retired ((s.core k).pc + 4)) := by
  obtain ⟨hc, -, hroom, hidx, hfree, hfull⟩ := h
  have howed : ((wordsIn op.writes).find? fun w => s.writeWaits k w) = none :=
    List.find?_eq_none.2 fun w hw => by simp [hfree w hw]
  have hread : ((wordsIn op.writes).find? fun w => inRanges op.reads w && (s.core k).reg.isEmpty w) = none :=
    List.find?_eq_none.2 fun w hw => by simpa using hfull w hw
  have hgo : ¬(!(s.core k).canDispatch) = true := by simp [hroom]
  refine (if_neg hgo).trans ?_
  rw [howed]
  dsimp only
  rw [hread]
  change (fun r : EngOp × State => (r.2.setCore k (((r.2.core k).knows r.1).joined r.1 op.writes)).retire 4)
    (s.resumeAt k (s.issued k op)) = _
  rw [State.resumeAt_fresh (op := s.issued k op) hidx]
  dsimp only
  rw [hk, State.retire_setCore hc]
  rfl

/-! ### Issue after operands have been read -/

/-- A state differs from another at most in which copies of core `k`'s scalar registers are fresh (05: R97). -/
structure State.Reads (s : State) (k : Nat) (t : State) : Prop where
  cur : t.cur = s.cur
  mem : t.mem = s.mem
  net : t.net = s.net
  clusters : t.clusters = s.clusters
  core : ∃ g : RegSpace, t.core k = { s.core k with reg := g } ∧ g.words = (s.core k).reg.words ∧
    g.empty = (s.core k).reg.empty ∧ g.pend = (s.core k).reg.pend
  others : ∀ j, j ≠ k → t.core j = s.core j

theorem State.Reads.refl (s : State) (k : Nat) : s.Reads k s :=
  ⟨rfl, rfl, rfl, rfl, ⟨_, rfl, rfl, rfl, rfl⟩, fun _ _ => rfl⟩

theorem State.Reads.readIn (s : State) (k : Nat) (sl : Slice) (rs : List Nat) :
    s.Reads k (s.setCore k ((s.core k).readIn sl rs)) := by
  refine ⟨rfl, rfl, rfl, rfl, ?_, fun j hj => State.core_setCore_ne _ _ hj⟩
  rw [State.core_setCore_same]
  exact (s.core k).readIn_eq sl rs

/-- The bay's side of an issue does not depend on which copies are fresh. -/
theorem State.Reads.bayReady {s t : State} {k : Nat} (h : s.Reads k t) {engs : List Nat} {reads writes : List (Nat × Nat)}
    (hb : s.bayReady k engs reads writes) : t.bayReady k engs reads writes := by
  obtain ⟨g, hk, -, hempty, hpend⟩ := h.core
  have hops : t.opsOf k = s.opsOf k := by simp [State.opsOf, State.cluster, hk, h.clusters]
  have hww : ∀ w, t.writeWaits k w = s.writeWaits k w := fun w => by
    simp [State.writeWaits, hops, hk, RegSpace.isPend, hpend]
  simp only [State.bayReady, h.cur, hk, hww, RegSpace.isEmpty, hempty]
  exact hb

/-- An engine instruction that comes to the dispatch of an operation which the bay is ready for issues it (07: R143). -/
theorem State.Reads.issues {s t : State} {k : Nat} (h : s.Reads k t) {i : Instr} {op : EngOp}
    (hexec : exec i s = .next (t.dispatch k op)) (hi : op.instr = i)
    (hk : ∀ (c : Core) (o : EngOp), c.knows { o with instr := i } = c) (hb : s.bayReady k op.engs op.reads op.writes) :
    s.issues k i op.engs op.reads op.writes := by
  subst hi
  have hc : s.cur = .tile k := hb.1
  rw [State.dispatch_ready (h.bayReady hb) (hk (t.core k) (t.issued k op))] at hexec
  obtain ⟨g, hcore, hwords, hempty, -⟩ := h.core
  have hrm : t.rm = s.rm := by simp [State.rm, State.fcsr, h.cur, hc, hcore]
  have hop : t.issued k op = s.issued k op := by simp only [State.issued, hcore, hrm]
  refine ⟨_, s.issued k op, hexec, ?_⟩
  rw [State.core_setCore_same, hop, hcore]
  refine ⟨rfl, rfl, rfl, rfl, rfl, rfl, rfl, rfl, rfl, fun w => ?_, ?_, rfl, rfl, h.mem, h.net, h.clusters, fun j hj => ?_⟩
  · refine (RegSpace.isEmpty_owes g op.writes w).trans ?_
    rw [RegSpace.isEmpty, RegSpace.isEmpty, hempty]
  · exact (RegSpace.words_owes g op.writes).trans hwords
  · rw [State.core_setCore_ne _ _ hj, h.others j hj]

/-! ### Operations on vector registers (14: R284) -/

/-- With the lease held and its lane types defined an operation comes to its dispatch. -/
theorem State.vissue_leased {s : State} {k eng : Nat} {tys : List Nat} (hl : (s.core k).leased [eng])
    (ht : ∀ t ∈ tys, (laneFmt (s.core k) t).isSome = true) (i : Instr) (vr sr vw sw : List Nat) (tm : BitVec 512) :
    s.vissue k eng i tys vr sr vw sw tm = s.dispatch k
      { instr := i, engs := [eng], tm := tm, fmts := (s.core k).vfmts tys,
        reads := vr.map (vWords (s.core k).vbase.toNat) ++ sr.map fun r => (r, 1),
        writes := vw.map (vWords (s.core k).vbase.toNat) ++ sw.map fun r => (r, 1) } := by
  have hno : ¬(tys.any fun t => (laneFmt (s.core k) t).isNone) = true := by
    simp only [List.any_eq_true, not_exists, not_and, Bool.not_eq_true, Option.isNone_eq_false_iff]
    exact ht
  rw [State.vissue, State.leased_held hl]
  simp only [if_neg hno]
  rfl

/-- Core `k`'s instruction is the issue of an operation on vector registers, none of the banks. -/
structure VectorIssued (o : VOp) (s : State) (k : Nat) : Prop where
  exec_eq : ∃ tm, exec o.i s = .next (s.vissue k o.eng o.i o.tys o.vr o.sr o.vw o.sw tm)
  knows : ∀ (c : Core) (op : EngOp), c.knows { op with instr := o.i } = c

theorem VectorIssued.issues {o : VOp} {s : State} {k : Nat} (h : VectorIssued o s k)
    (ht : ∀ t ∈ o.tys, (laneFmt (s.core k) t).isSome = true) :
    let v := vWords (s.core k).vbase.toNat
    let rs := o.vr.map v ++ o.sr.map fun r => (r, 1)
    let ws := o.vw.map v ++ o.sw.map fun r => (r, 1)
    s.bayReady k [o.eng] rs ws → s.issues k o.i [o.eng] rs ws := by
  intro v rs ws hb
  obtain ⟨⟨tm, hexec⟩, hk⟩ := h
  rw [State.vissue_leased hb.2.1 ht] at hexec
  exact (State.Reads.refl s k).issues hexec rfl hk hb

theorem vectorOps_issued {s : State} {k : Nat} (hc : s.cur = .tile k) (cond op3 ty : BitVec 3) (vb va vd : BitVec 5) :
    ∀ o ∈ vectorOps cond op3 ty vb va vd, VectorIssued o s k := by
  have tile : ∀ go, s.onTile go = go k := State.onTile_tile hc
  simp only [vectorOps, List.forall_mem_append, List.forall_mem_cons, List.not_mem_nil, false_implies, implies_true, and_true]
  and_intros
  all_goals exact ⟨⟨0, congrArg _ (tile _)⟩, fun _ _ => rfl⟩

/-! ### Operations that ask for more (14: R289, R291, R293, R299) -/

theorem wideLanes_none {s : State} {k : Nat} {ty : BitVec 3} (h : ∀ f, laneFmt (s.core k) ty.toNat = some f → 8 ≤ laneW f) :
    wideLanes k ty s = none := by
  unfold wideLanes
  split
  · next f hf => exact if_neg (by have := h f hf; omega)
  · rfl

section
variable {s : State} {k : Nat} (hc : s.cur = .tile k)
include hc

theorem State.vx_checked {more : Nat → State → Option Nat} (hm : more k s = none) (i : Instr) (tys vr sr vw sw : List Nat) :
    s.vx i tys vr sr vw sw more = .next (s.vissue k 2 i tys vr sr vw sw) := by
  rw [State.vx, State.onTile_tile hc, hm]

theorem State.smIssue_group {vb : BitVec 5} (hg : groupOk vb = true) (i : Instr) (sw : List Nat) :
    s.onTile (fun k => s.smIssue k i vb sw) =
      s.vissue k 4 i [] [] [vb.toNat, vb.toNat + 1, vb.toNat + 2, vb.toNat + 3] [] sw := by
  rw [State.onTile_tile hc, State.smIssue, if_pos hg]
  rfl

theorem State.vtm_fits {ty : BitVec 3} {vb vd : BitVec 5} {tm : BitVec 4} {store : Bool} (hl : (s.core k).leased [2])
    (ht : (laneFmt (s.core k) ty.toNat).isSome = true)
    (hm : ∀ f, laneFmt (s.core k) ty.toNat = some f → tmLaneOk (Tab.get 0 (s.core k).tms tm.toNat) (laneW f) store = true)
    (i : Instr) :
    s.vtm i store ty vb tm vd = .next (s.vissue k 2 i [ty.toNat] (if store then [vd.toNat] else [])
      (if vb = 0#5 then [] else [vb.toNat]) (if store then [] else [vd.toNat]) [] (Tab.get 0 (s.core k).tms tm.toNat)) := by
  obtain ⟨f, hf⟩ := Option.isSome_iff_exists.1 ht
  have hok : ¬(!tmLaneOk (Tab.get 0 (s.core k).tms tm.toNat : TMap) (laneW f) store) = true := by
    rw [hm f hf]; exact Bool.false_ne_true
  rw [State.vtm, State.onTile_tile hc, State.leased_held hl]
  simp only [hf, if_neg hok]

/-- A conversion reads its destination too where it narrows. -/
theorem execVcvt_formats {ty src part : BitVec 3} {mode : BitVec 2} {va vd : BitVec 5} {f g : Fmt}
    (hf : laneFmt (s.core k) src.toNat = some f) (hg : laneFmt (s.core k) ty.toNat = some g)
    (hok : convOk (2048 / laneW f) (2048 / laneW g) part.toNat = true) :
    execVcvt ty src part mode va vd s = .next (s.vissue k 2 (.vcvt ty src part mode va vd) [src.toNat, ty.toNat]
      (if 2048 / laneW f < 2048 / laneW g then [va.toNat, vd.toNat] else [va.toNat]) [] [vd.toNat] []) := by
  rw [execVcvt, State.onTile_tile hc]
  simp only [hf, hg, Option.map_some, hok, if_true]

theorem checkedOps_issued (src part ty : BitVec 3) (mode : BitVec 2) (tm : BitVec 4) (vb va vd : BitVec 5) :
    ∀ e ∈ checkedOps (s.core k) src part ty mode tm vb va vd, e.2 → (s.core k).leased [e.1.eng] →
      (∀ t ∈ e.1.tys, (laneFmt (s.core k) t).isSome = true) → VectorIssued e.1 s k := by
  have wide : ∀ i tys vr sr vw sw, (∀ f, laneFmt (s.core k) ty.toNat = some f → 8 ≤ laneW f) →
      s.vx i tys vr sr vw sw (fun k s => wideLanes k ty s) = .next (s.vissue k 2 i tys vr sr vw sw) :=
    fun _ _ _ _ _ _ h => State.vx_checked hc (wideLanes_none h) ..
  have lanes : (laneFmt (s.core k) src.toNat).isSome = true ∧ (laneFmt (s.core k) ty.toNat).isSome = true →
      ∃ f g, laneFmt (s.core k) src.toNat = some f ∧ laneFmt (s.core k) ty.toNat = some g := fun ⟨hf, hg⟩ =>
    let ⟨f, hf⟩ := Option.isSome_iff_exists.1 hf
    let ⟨g, hg⟩ := Option.isSome_iff_exists.1 hg
    ⟨f, g, hf, hg⟩
  simp only [checkedOps, List.forall_mem_cons, List.not_mem_nil, false_implies, implies_true, and_true]
  refine ⟨?vpermx, ?ldstr, ?ststr, ?ldgi, ?stsi, ?ldtm, ?sttm, ?widen, ?narrow, ?smpath, ?smerge, ?smkv⟩
  case vpermx | ldstr | ststr | ldgi | stsi => exact fun h _ _ => ⟨⟨0, wide _ _ _ _ _ _ h⟩, fun _ _ => rfl⟩
  case ldtm | sttm => exact fun h hl ht => ⟨⟨_, State.vtm_fits hc hl ht h _⟩, fun _ _ => rfl⟩
  case widen =>
    intro h _ ht
    obtain ⟨f, g, hf, hg⟩ := lanes ht
    obtain ⟨hle, hok⟩ := h f g hf hg
    refine ⟨⟨0, (execVcvt_formats hc hf hg hok).trans ?_⟩, fun _ _ => rfl⟩
    rw [if_neg (not_lt.2 hle)]
  case narrow =>
    intro h _ ht
    obtain ⟨f, g, hf, hg⟩ := lanes ht
    obtain ⟨hlt, hok⟩ := h f g hf hg
    refine ⟨⟨0, (execVcvt_formats hc hf hg hok).trans ?_⟩, fun _ _ => rfl⟩
    rw [if_pos hlt]
  case smpath | smerge | smkv => exact fun h _ _ => ⟨⟨0, congrArg _ (State.smIssue_group hc h _ _)⟩, fun _ _ => rfl⟩

end

end Sys2Proof.Machine

namespace Sys2Proof.Proofs
open Sys2Proof Sys2Proof.Machine

/-- Settles O30: each operation comes to its dispatch, and what the bay is ready for is issued. -/
theorem vectorIssue : Obligations.VectorIssue := by
  unfold Obligations.VectorIssue
  intro s k cond op3 src part ty mode tm vb va vd c v o ho _ ht rs ws hb
  have hissued : VectorIssued o s k := by
    rcases ho with ho | ⟨q, hq, ho⟩
    · exact vectorOps_issued hb.1 _ _ _ _ _ _ o ho
    · exact checkedOps_issued hb.1 _ _ _ _ _ _ _ _ _ ho hq hb.2.1 ht
  exact hissued.issues ht hb

end Sys2Proof.Proofs

/-! SUPPORT. Issues that a scalar register decides (12: R254-R258; 14: R290), and the statement O31. -/

namespace Sys2Proof.Machine

@[simp] theorem State.own_setCore (s : State) (k p : Nat) (c : Core) (a : Word) : (s.setCore k c).own p a = s.own p a := rfl

/-! ### VMOVSL (14: R290) -/

/-- VMOVSL with its lease held, its type defined and its scalar full dispatches an operation on the word of its lane. -/
theorem exec_vmovsl_full {s : State} {k : Nat} {ty : BitVec 3} {vb va vd : BitVec 5} {f : Fmt} (hc : s.cur = .tile k)
    (hl : (s.core k).leased [2]) (hf : laneFmt (s.core k) ty.toNat = some f) (hb : (s.core k).reg.isEmpty vb.toNat = false) :
    let c := s.core k
    let lane := (s.reg vb.toNat).toNat % (2048 / laneW f)
    exec (.vmovsl ty vb va vd) s = .next ((s.setCore k (c.readIn .d [vb.toNat])).dispatch k
      { instr := .vmovsl ty vb va vd, engs := [2], fmts := c.vfmts [ty.toNat], scal := [BitVec.ofNat 64 lane],
        reads := [(va.toNat, 1)], writes := [(vbyte c.vbase.toNat vd.toNat / 8 + lane * laneW f / 64, 1)] }) := by
  intro c lane
  change execVmovsl ty vb va vd s = _
  rw [execVmovsl, State.onTile_tile hc, State.leased_held hl]
  simp only [hf, State.sources_tile hc (rs := [vb.toNat]) (by simpa using hb), State.reg_readIn hc, State.core_setCore_same]
  rfl

/-! ### GXGATHER, GXSCAT and GXBINS (12: R254-R257) -/

/-- What a gather, scatter or bin operation asks of its type, its control word and its packed rows (12: R254). -/
structure State.GxLegal (s : State) (k : Nat) (ty : BitVec 3) (vb : BitVec 5) (maxN : Nat) : Prop where
  type : ty = 1 ∨ ty = 2
  group : groupOk vb = true
  full : ∀ r ∈ [vb.toNat, vb.toNat + 2], (s.core k).reg.isEmpty r = false
  nonempty : 1 ≤ bits (s.reg (vb.toNat + 2)) 0 16
  count : bits (s.reg (vb.toNat + 2)) 0 16 ≤ min (if ty.toNat = 1 then 128 else 64) maxN
  reserved : bits (s.reg (vb.toNat + 2)) 40 24 = 0
  aligned : (s.reg vb.toNat).toNat % 8 = 0
  own : ownRange (s.own (corePos k) (s.reg vb.toNat))
    (bits (s.reg (vb.toNat + 2)) 0 16 * (8 * bits (s.reg (vb.toNat + 2)) 16 16)) = true

/-- A legal operation with its lease held is dispatched after its control word and packed address have been read. -/
theorem State.gxIssue_legal {s : State} {k maxN : Nat} {ty : BitVec 3} {vb : BitVec 5} (h : s.GxLegal k ty vb maxN)
    (hc : s.cur = .tile k) (hl : (s.core k).leased [5]) (i : Instr) (va : BitVec 5) (vd : Option (BitVec 5)) :
    s.onTile (fun k => s.gxIssue k i ty vb va maxN vd) = (s.setCore k ((s.core k).readIn .d [vb.toNat, vb.toNat + 2])).dispatch k
      { instr := i, engs := [5], reads := [vWords (s.core k).vbase.toNat va.toNat, (vb.toNat, 3)],
        writes := match vd with
          | some d => [(vbyte (s.core k).vbase.toNat d.toNat / 8, (bits (s.reg (vb.toNat + 2)) 0 16 + 1) / 2)]
          | none => [] } := by
  have hty : ¬(ty ≠ 1#3 && ty ≠ 2#3) = true := by rcases h.type with rfl | rfl <;> decide
  have hg : ¬(!groupOk vb) = true := by simp [h.group]
  have hn : ¬(bits (s.reg (vb.toNat + 2)) 0 16 = 0 ||
      decide (min (if ty.toNat = 1 then 128 else 64) maxN < bits (s.reg (vb.toNat + 2)) 0 16)
      || bits (s.reg (vb.toNat + 2)) 40 24 ≠ 0) = true := by
    simp only [Bool.or_eq_true, decide_eq_true_eq, not_or, not_lt, h.count, h.reserved]
    exact ⟨⟨by have := h.nonempty; omega, trivial⟩, by simp⟩
  have ho : ¬(!ownRange (s.own (corePos k) (s.reg vb.toNat))
      (bits (s.reg (vb.toNat + 2)) 0 16 * (8 * bits (s.reg (vb.toNat + 2)) 16 16))) = true := by simp [h.own]
  rw [State.onTile_tile hc, State.gxIssue, if_neg hty, State.leased_held hl, if_neg hg, State.sources_tile hc h.full]
  simp only [State.reg_readIn hc, State.own_setCore, if_neg hn, if_neg (not_not.2 h.aligned), if_neg ho]
  rw [State.core_setCore_same]
  rfl

/-- Another index type is no instruction (14: R284; log 132). -/
theorem State.gxIssue_type {s : State} {k : Nat} {ty : BitVec 3} (h1 : ty ≠ 1) (h2 : ty ≠ 2) (hc : s.cur = .tile k)
    (hp : (s.core k).pair = .alone) (i : Instr) (vb va : BitVec 5) (maxN : Nat) (vd : Option (BitVec 5)) :
    s.onTile (fun k => s.gxIssue k i ty vb va maxN vd) = s.takeTrap k { code := cILLEGAL_OP, pc := (s.core k).pc } := by
  have hty : (ty ≠ 1#3 && ty ≠ 2#3) = true :=
    Bool.and_eq_true_iff.2 ⟨decide_eq_true h1, decide_eq_true h2⟩
  rw [State.onTile_tile hc, State.gxIssue, if_pos hty, State.illegal, State.trap_alone hc hp]

end Sys2Proof.Machine

namespace Sys2Proof.Proofs
open Sys2Proof Sys2Proof.Machine

/-- VMOVSL is issued with the word of its lane owed. -/
theorem laneIssue : Parts.LaneIssue := by
  unfold Parts.LaneIssue
  intro s k ty vb va vd f c w lane rs ws hf hvb hb
  exact (State.Reads.readIn s k .d [vb.toNat]).issues (exec_vmovsl_full hb.1 hb.2.1 hf hvb) rfl (fun _ _ => rfl) hb

/-- Legal gathers, scatters and bins are issued; another index type traps. -/
theorem gatherIssue : Parts.GatherIssue := by
  unfold Parts.GatherIssue
  intro s k ty vb va vd c p ctl n rs ws
  refine ⟨fun hty hg h0 h2 h1 hr ha ho => ?_, fun h1 h2 hc hp => ?_⟩
  · have read := State.Reads.readIn s k .d [vb.toNat, vb.toNat + 2]
    have legal : ∀ maxN, n ≤ min (if ty.toNat = 1 then 128 else 64) maxN → s.GxLegal k ty vb maxN := fun maxN hn =>
      ⟨hty, hg, by simp [h0, h2, c], h1, hn, hr, ha, ho⟩
    refine ⟨fun hn hb => ?_, fun hn hb => ?_⟩
    · have hl := legal 128 (by rcases hty with rfl | rfl <;> simp at hn ⊢ <;> omega)
      have gx := fun i => State.gxIssue_legal hl hb.1 hb.2.1 i va none
      have hgather : exec (.gxgather ty vb va) s = _ := congrArg Host.Outcome.next (gx _)
      have hscat : exec (.gxscat ty vb va) s = _ := congrArg Host.Outcome.next (gx _)
      exact ⟨read.issues hgather rfl (fun _ _ => rfl) hb, read.issues hscat rfl (fun _ _ => rfl) hb⟩
    · have hl := legal 64 (by rcases hty with rfl | rfl <;> simp <;> omega)
      have gx := fun i => State.gxIssue_legal hl hb.1 hb.2.1 i va (some vd)
      have hbins : exec (.gxbins ty vb va vd) s = _ := congrArg Host.Outcome.next (gx _)
      exact read.issues hbins rfl (fun _ _ => rfl) hb
  · have gx := fun i maxN vd => State.gxIssue_type h1 h2 hc hp i vb va maxN vd
    simp only [List.forall_mem_cons, List.not_mem_nil, false_implies, implies_true, and_true]
    exact ⟨congrArg _ (gx _ _ _), congrArg _ (gx _ _ _), congrArg _ (gx _ _ _)⟩

/-- Settles O31: VMOVSL, and the operations whose control word decides their issue. -/
theorem addressedIssue : Obligations.AddressedIssue := ⟨laneIssue, gatherIssue⟩

end Sys2Proof.Proofs

/-! SUPPORT. The engine bay: an operation without its lease (07: R142, R143), and its part of O33. -/

namespace Sys2Proof.Machine

/-! ### What the first engine without its lease answers (07: R143, step 2) -/

section
variable {s : State} {k e : Nat} (hc : s.cur = .tile k) (es : List Nat) (go : State → State)
include hc

theorem State.leased_none (hp : (s.core k).pair = .alone) (hl : ((s.core k).lease e).st = .none) :
    s.leased k (e :: es) go = s.takeTrap k { code := cENGINE_NOT_HELD, unit := e, pc := (s.core k).pc } := by
  rw [State.leased]
  simp only [hl]
  exact State.trap_alone hc hp _

theorem State.leased_lost (hp : (s.core k).pair = .alone) (hl : ((s.core k).lease e).st = .lost) :
    s.leased k (e :: es) go = s.takeTrap k
      { code := cLEASE_LOST, unit := e, detail := ((s.core k).lease e).restart, pc := (s.core k).pc } := by
  rw [State.leased]
  simp only [hl]
  exact State.trap_alone hc hp _

/-- While the lease is queued or being given back the instruction waits. -/
theorem State.leased_waits (hl : ((s.core k).lease e).st = .queued ∨
      (((s.core k).lease e).st = .held ∨ ((s.core k).lease e).st = .grace) ∧ ((s.core k).lease e).yielding = true) :
    s.leased k (e :: es) go = s.setCore k { s.core k with blocked := some (.lease e) } := by
  rw [State.leased]
  rcases hl with hl | ⟨hl | hl, hy⟩
  · simp only [hl, State.block_tile hc]
  · simp only [hl, hy, if_true, State.block_tile hc]
  · simp only [hl, hy, if_true, State.block_tile hc]

end

/-! ### Every engine operation asks for its leases first (07: R142) -/

/-- A gather, scatter or bin operation of an index type that the encoding allows asks for GX. -/
theorem State.gxIssue_leased {s : State} {k : Nat} (hc : s.cur = .tile k) {ty : BitVec 3}
    (hw : decide (1 ≤ ty.toNat ∧ ty.toNat < 3) = true)
    (i : Instr) (vb va : BitVec 5) (maxN : Nat) (vd : Option (BitVec 5)) :
    ∃ go, s.onTile (fun k => s.gxIssue k i ty vb va maxN vd) = s.leased k [5] go := by
  have hty : ¬(ty ≠ 1#3 && ty ≠ 2#3) = true := by
    simp only [decide_eq_true_eq] at hw
    simp only [Bool.and_eq_true, decide_eq_true_eq, ne_eq, not_and, not_not]
    intro h1
    bv_omega
  rw [State.onTile_tile hc, State.gxIssue, if_neg hty]
  exact ⟨_, rfl⟩

/-- A conversion asks for VX, whatever its types describe. -/
theorem execVcvt_leased {s : State} {k : Nat} (hc : s.cur = .tile k)
    (ty src part : BitVec 3) (mode : BitVec 2) (va vd : BitVec 5) :
    ∃ go, execVcvt ty src part mode va vd s = .next (s.leased k [2] go) := by
  rw [execVcvt, State.onTile_tile hc]
  dsimp only
  split <;> exact ⟨_, rfl⟩

/-- What an instruction does on tile core `k` begins with the leases of the engines that it needs. -/
theorem exec_leased {s : State} {k : Nat} (hc : s.cur = .tile k) {i : Instr} (hw : i.wf = true) (hn : enginesOf i ≠ []) :
    ∃ go, exec i s = .next (s.leased k (enginesOf i) go) := by
  have tile : ∀ go, s.onTile go = go k := State.onTile_tile hc
  cases i
  all_goals try exact absurd rfl hn
  case mldw pr fmt tm wb =>
    have hq : [if decide (2 ≤ wb.toNat) = true then 1 else 0] = enginesOf (.mldw pr fmt tm wb) := by simp [enginesOf]
    rw [← hq]
    exact ⟨_, congrArg _ (tile _)⟩
  case vcvt => exact execVcvt_leased hc ..
  case gxgather => exact (State.gxIssue_leased hc hw ..).imp fun _ h => congrArg _ h
  case gxscat => exact (State.gxIssue_leased hc hw ..).imp fun _ h => congrArg _ h
  case gxbins => exact (State.gxIssue_leased hc hw ..).imp fun _ h => congrArg _ h
  all_goals exact ⟨_, congrArg _ (tile _)⟩

end Sys2Proof.Machine

namespace Sys2Proof.Proofs
open Sys2Proof Sys2Proof.Machine

/-- An operation whose leases up to one engine are held answers as that lease stands. -/
theorem engineNotHeld : Parts.EngineNotHeld := by
  unfold Parts.EngineNotHeld
  intro s k e i pre post hw he hpre hc hp l
  obtain ⟨go, hgo⟩ := exec_leased hc hw (by simp [he])
  rw [he, State.leased_append hpre] at hgo
  refine ⟨fun hl => ?_, fun hl => ?_, fun hl => ?_⟩ <;> rw [hgo]
  · rw [State.leased_none hc post go hp hl]
  · rw [State.leased_lost hc post go hp hl]
    rfl
  · rw [State.leased_waits hc post go hl]

end Sys2Proof.Proofs

/-! SUPPORT. The scan of an engine bay with one engine in use (07: R147-R149). -/

namespace Sys2Proof.Machine

/-! ### One engine in use (07: R147) -/

/-- Every engine of the bay but one is gated. -/
def Cluster.Only (c : Cluster) (e : Nat) : Prop := ∀ j, j ≠ e → (c.eng j).power = .gated

theorem Cluster.only_of_engs {c : Cluster} {e : Nat} {x : Engine} (h : c.engs = [(e, x)]) : c.Only e := fun j hj => by
  simp only [Cluster.eng, h, Tab.get]
  split
  · omega
  · split <;> rfl

theorem Cluster.only_of_none {c : Cluster} (h : c.engs = []) (e : Nat) : c.Only e := fun j _ => by rw [Cluster.eng, h]; rfl

theorem Cluster.eng_of_engs {c : Cluster} {e : Nat} {x : Engine} (h : c.engs = [(e, x)]) : c.eng e = x := by
  simp [Cluster.eng, h, Tab.get]

@[simp] theorem Cluster.eng_put_same (c : Cluster) (e : Nat) (x : Engine) :
    ({ c with engs := Tab.put c.engs e x } : Cluster).eng e = x := Tab.get_put_same _ _ _ _

theorem Cluster.Only.put {c d : Cluster} {e : Nat} {x : Engine} (h : c.Only e) (hd : d.engs = Tab.put c.engs e x) : d.Only e :=
  fun j hj => by
    rw [Cluster.eng, hd, Tab.get_put_ne _ _ _ hj]
    exact h j hj

theorem Cluster.Only.units {c : Cluster} {e : Nat} (h : c.Only e) (he : e < 8) :
    c.units = if (c.eng e).power.counts then engUnits e else 0 := by
  have hoff : ∀ j, j ≠ e → (c.eng j).power.counts = false := fun j hj => by rw [h j hj]; rfl
  interval_cases e <;> simp [Cluster.units, span, hoff]

theorem engUnits_le (e : Nat) : engUnits e ≤ 2 := by unfold engUnits; split <;> omega

theorem State.three_le_allowance (s : State) (p : Nat) : 3 ≤ s.allowance p := by unfold State.allowance; split <;> omega

/-- One engine is within the allowance. -/
theorem Cluster.Only.units_le {c : Cluster} {e : Nat} (h : c.Only e) (he : e < 8) (s : State) (p : Nat) :
    c.units ≤ s.allowance p := by
  have h2 := engUnits_le e
  have h3 := s.three_le_allowance p
  rw [h.units he]
  split <;> omega

/-! ### The queue in scan order (07: R148) -/

theorem Cluster.scanOrder_nil {c : Cluster} (h : c.leaseQ = []) : c.scanOrder = [] := by simp [Cluster.scanOrder, h]

theorem Cluster.scanOrder_one {c : Cluster} {r : LeaseReq} (h : c.leaseQ = [r]) (hp : r.prio < 4) : c.scanOrder = [r] := by
  have hcases : r.prio = 3 ∨ r.prio = 2 ∨ r.prio = 1 ∨ r.prio = 0 := by omega
  rcases hcases with hr | hr | hr | hr <;> simp [Cluster.scanOrder, h, hr]

/-! ### A wake (07: R148, R149) -/

theorem Cluster.gateWarm_gated {c : Cluster} (h : ∀ j, (c.eng j).power = .gated) {need : Nat} (hn : need ≤ 4) (n : Nat) :
    c.gateWarm need n = c := by
  cases n with
  | zero => rfl
  | succ n =>
    have hu : c.units = 0 := by
      rw [Cluster.Only.units (e := 0) (fun j _ => h j) (by decide), h]; rfl
    simp [Cluster.gateWarm, h, hu, hn]

/-- An engine wakes for a request, without boost. -/
def Cluster.waking (c : Cluster) (r : LeaseReq) (warm : Bool) : Cluster :=
  { c with engs := Tab.put c.engs r.eng { c.eng r.eng with power := .waking (some r.core) r.prio warm false } }

@[simp] theorem Cluster.waking_leaseQ (c : Cluster) (r : LeaseReq) (w : Bool) : (c.waking r w).leaseQ = c.leaseQ := rfl

@[simp] theorem Cluster.waking_power (c : Cluster) (r : LeaseReq) (w : Bool) :
    ((c.waking r w).eng r.eng).power = .waking (some r.core) r.prio w false := by
  rw [Cluster.waking, Cluster.eng_put_same]

/-- The only engine in use begins to wake for a request, warm if it was. -/
theorem Cluster.Only.wake {c : Cluster} {r : LeaseReq} (h : c.Only r.eng)
    (hw : (c.eng r.eng).power = .gated ∨ (c.eng r.eng).power = .warm) :
    c.wake r = c.waking r (decide ((c.eng r.eng).power = .warm)) := by
  have h2 := engUnits_le r.eng
  have gated : ∀ d : Cluster, (∀ j, (d.eng j).power = .gated) →
      d.gateWarm (engUnits r.eng) 8 = d ∧ decide (3 < d.units + engUnits r.eng) = false := fun d hd =>
    ⟨Cluster.gateWarm_gated hd (by omega) 8, by
      rw [Cluster.Only.units (e := 0) (fun j _ => hd j) (by decide), hd]
      exact decide_eq_false (by simp [Power.counts]; omega)⟩
  rcases hw with hw | hw
  · obtain ⟨hg, hb⟩ := gated c fun j => by
      by_cases hj : j = r.eng
      · rw [hj, hw]
      · exact h j hj
    simp [Cluster.wake, Cluster.waking, hw, hg, hb]
  · obtain ⟨hg, hb⟩ := gated { c with engs := Tab.put c.engs r.eng { c.eng r.eng with power := .gated } } fun j => by
      by_cases hj : j = r.eng
      · rw [hj, Cluster.eng_put_same]
      · exact (h.put rfl) j hj
    simp [Cluster.wake, Cluster.waking, hw, hg, hb]

/-! ### Turns of the scan -/

section
variable {s : State} {p : Nat} (hd : (s.cluster p).demand = none) (hu : (s.cluster p).units ≤ s.allowance p)
include hd hu

theorem State.scanBay_rest (hs : (s.cluster p).scan (s.allowance p) (s.cluster p).scanOrder = .rest) (n : Nat) :
    s.scanBay p n = s := by
  cases n with
  | zero => rfl
  | succ n => simp [State.scanBay, hd, not_lt.2 hu, hs]

theorem State.scanBay_wake {r : LeaseReq} (hs : (s.cluster p).scan (s.allowance p) (s.cluster p).scanOrder = .wake r) (n : Nat) :
    s.scanBay p (n + 1) = (s.setCluster p ((s.cluster p).wake r)).scanBay p n := by
  simp [State.scanBay, hd, not_lt.2 hu, hs]

end

/-- With no request the scan finds nothing. -/
theorem State.bayScan_idle {s : State} {p e : Nat} (hd : (s.cluster p).demand = none) (hq : (s.cluster p).leaseQ = [])
    (ho : (s.cluster p).Only e) (he : e < 8) : s.bayScan p = s :=
  State.scanBay_rest hd (ho.units_le he s p) (by rw [Cluster.scanOrder_nil hq]; rfl) _

/-- The only request is for the only engine in use, which no core holds: it begins to wake for it. -/
theorem State.bayScan_wakes {c : Cluster} {r : LeaseReq} (hd : c.demand = none) (hq : c.leaseQ = [r]) (hp : r.prio < 4)
    (ho : c.Only r.eng) (he : r.eng < 8) (hw : (c.eng r.eng).power = .gated ∨ (c.eng r.eng).power = .warm)
    (s : State) (p : Nat) :
    (s.setCluster p c).bayScan p = s.setCluster p (c.waking r (decide ((c.eng r.eng).power = .warm))) := by
  have h2 := engUnits_le r.eng
  have h3 := (s.setCluster p c).three_le_allowance p
  have hu : c.units = 0 := by
    rw [ho.units he]
    rcases hw with hw | hw <;> rw [hw] <;> rfl
  have hscan : c.scan ((s.setCluster p c).allowance p) c.scanOrder = .wake r := by
    have hfit : c.units + engUnits r.eng ≤ (s.setCluster p c).allowance p := by omega
    rw [Cluster.scanOrder_one hq hp]
    rcases hw with hw | hw <;> simp [Cluster.scan, hw, hfit]
  have hc := s.cluster_setCluster_same p c
  rw [State.bayScan, State.scanBay_wake (r := r) (by rw [hc, hd]) (by rw [hc]; omega) (by rw [hc, hscan]) 23, hc, ho.wake hw,
    State.setCluster_setCluster]
  generalize decide ((c.eng r.eng).power = .warm) = w
  have hone : (c.waking r w).scanOrder = [r] := Cluster.scanOrder_one (by rw [Cluster.waking_leaseQ, hq]) hp
  refine State.scanBay_rest ?_ ?_ ?_ 23 <;> rw [State.cluster_setCluster_same]
  · exact hd
  · exact (ho.put rfl).units_le he _ p
  · simp [hone, Cluster.scan]

end Sys2Proof.Machine

/-! SUPPORT. LEASE, LYIELD, LFREE and LSTAT (07: R146, R152-R154), and the statement O33. -/

namespace Sys2Proof.Machine

/-! ### A release (07: R152, R153) -/

/-- The engine of a lease that is given back: warm, of no core. -/
def Cluster.freed (c : Cluster) (kc e : Nat) : Cluster :=
  { c with engs := Tab.put c.engs e { c.eng e with power := .warm, released := c.stamp }, stamp := c.stamp + 1
           demand := if c.demand.any (fun d => d.eng = e && d.core = kc) then none else c.demand }

/-- A core that gives a lease back. -/
def Core.freed (c : Core) (e : Nat) (st : LeaseState) : Core :=
  ({ c with leases := Tab.put c.leases e { c.lease e with st := st, yielding := false } } : Core).forget e

/-- The state that the scan of a release begins from. -/
def State.freed (s : State) (k e : Nat) (st : LeaseState) : State :=
  (s.setCore k ((s.core k).freed e st)).setCluster (corePos k) ((s.cluster (corePos k)).freed (coreNo k) e)

theorem State.release_freed (s : State) (k e : Nat) (st : LeaseState) :
    s.release k e st = (s.freed k e st).bayScan (corePos k) := by
  simp only [State.release, State.setLease, State.core_setCluster, State.core_setCore_same, State.setCore_setCore]
  rfl

theorem Core.forget_keeps {β : Type} {f : Core → β} (hf : ∀ (c : Core) b d, f { c with kept := b, keptC := d } = f c)
    (c : Core) (e : Nat) : f (c.forget e) = f c := by
  unfold Core.forget
  split
  · exact hf c _ c.keptC
  · split
    · exact hf c _ _
    · rfl

@[simp] theorem Core.forget_leases (c : Core) (e : Nat) : (c.forget e).leases = c.leases :=
  Core.forget_keeps (f := Core.leases) (fun _ _ _ => rfl) c e
@[simp] theorem Core.forget_reg (c : Core) (e : Nat) : (c.forget e).reg = c.reg :=
  Core.forget_keeps (f := Core.reg) (fun _ _ _ => rfl) c e
@[simp] theorem Core.forget_pc (c : Core) (e : Nat) : (c.forget e).pc = c.pc :=
  Core.forget_keeps (f := Core.pc) (fun _ _ _ => rfl) c e

@[simp] theorem Core.freed_reg (c : Core) (e : Nat) (st : LeaseState) : (c.freed e st).reg = c.reg := Core.forget_reg _ e
@[simp] theorem Core.freed_pc (c : Core) (e : Nat) (st : LeaseState) : (c.freed e st).pc = c.pc := Core.forget_pc _ e
theorem Core.freed_lease (c : Core) (e : Nat) (st : LeaseState) :
    Tab.get {} (c.freed e st).leases e = { c.lease e with st := st, yielding := false } := by
  rw [Core.freed, Core.forget_leases, Tab.get_put_same]

/-- What a core that waits to give a lease back frees is what it would free at once. -/
theorem State.freed_yielding (s : State) (k e : Nat) (st : LeaseState) :
    (s.setLease k e { (s.core k).lease e with yielding := true }).freed k e st = s.freed k e st := by
  have hc : ({ s.core k with
      leases := Tab.put (s.core k).leases e { (s.core k).lease e with yielding := true } } : Core).freed e st =
      (s.core k).freed e st := by
    simp [Core.freed, Core.lease]
  simp only [State.freed, State.setLease, State.core_setCore_same, hc, State.cluster_setCore, State.setCore_setCore]

/-! ### Giving a lease back (07: R152) -/

theorem State.opsOn_setLease (s : State) (k e : Nat) (l : Lease) : (s.setLease k e l).opsOn k e = s.opsOn k e := by
  simp [State.opsOn, State.opsOf, State.setLease]

/-- With no operation left on the engine the lease is released. -/
theorem State.letGo_idle {s : State} {k e : Nat} (h : s.opsOn k e = []) (go : Nat → State → State) :
    s.letGo k e go = go 1 ((s.freed k e .none).bayScan (corePos k)) := by
  simp only [State.letGo, State.opsOn_setLease, h, List.isEmpty_nil, if_true]
  rw [State.release_freed, State.freed_yielding]

/-- With operations left the core waits. -/
theorem State.letGo_busy {s : State} {k e : Nat} (hc : s.cur = .tile k) (h : s.opsOn k e ≠ []) (go : Nat → State → State) :
    s.letGo k e go = s.setCore k { s.core k with
      leases := Tab.put (s.core k).leases e { (s.core k).lease e with yielding := true }, blocked := some (.lease e) } := by
  have hf : ¬(s.opsOn k e).isEmpty = true := by simpa using h
  simp only [State.letGo, State.opsOn_setLease, if_neg hf]
  exact State.block_setCore hc _ _

section
variable {s : State} {k e : Nat} {x : Engine} (hx : (s.cluster (corePos k)).engs = [(e, x)]) (st : LeaseState)
include hx

theorem State.freed_only : ((s.freed k e st).cluster (corePos k)).Only e := by
  rw [State.freed, State.cluster_setCluster_same]
  exact (Cluster.only_of_engs hx).put rfl

end

theorem State.freed_cluster (s : State) (k e : Nat) (st : LeaseState) :
    (s.freed k e st).cluster (corePos k) = (s.cluster (corePos k)).freed (coreNo k) e := by
  rw [State.freed, State.cluster_setCluster_same]

theorem State.freed_core (s : State) (k e : Nat) (st : LeaseState) : (s.freed k e st).core k = (s.core k).freed e st :=
  State.core_setCore_same ..

theorem Cluster.freed_power (c : Cluster) (kc e : Nat) : ((c.freed kc e).eng e).power = .warm :=
  congrArg Engine.power (Tab.get_put_same _ _ _ _)

/-- A demand for the lease ends with it. -/
theorem Cluster.freed_demand {c : Cluster} {kc e : Nat} (h : ∀ d ∈ c.demand, d.eng = e ∧ d.core = kc) :
    (c.freed kc e).demand = none := by
  simp only [Cluster.freed]
  cases hd : c.demand with
  | none => simp
  | some d =>
    obtain ⟨h1, h2⟩ := h d hd
    simp [h1, h2]

section
variable {s : State} {k e : Nat} {x : Engine} (hx : (s.cluster (corePos k)).engs = [(e, x)]) (he : e < 8)
  (hd : ∀ d ∈ (s.cluster (corePos k)).demand, d.eng = e ∧ d.core = coreNo k) (st : LeaseState)
include hx he hd

/-- A lease that nobody waits for is given back. -/
theorem State.freed_unasked (hq : (s.cluster (corePos k)).leaseQ = []) :
    (s.freed k e st).bayScan (corePos k) = s.freed k e st := by
  refine State.bayScan_idle ?_ ?_ (s.freed_only hx st) he <;> rw [State.freed_cluster]
  · exact Cluster.freed_demand hd
  · exact hq

/-- A lease that one core waits for goes over to it: its wake begins. -/
theorem State.freed_asked {r : LeaseReq} (hq : (s.cluster (corePos k)).leaseQ = [r]) (hr : r.eng = e) (hp : r.prio < 4) :
    (s.freed k e st).bayScan (corePos k) =
      (s.freed k e st).setCluster (corePos k) (((s.cluster (corePos k)).freed (coreNo k) e).waking r true) := by
  have hw := (s.cluster (corePos k)).freed_power (coreNo k) e
  have ho := (Cluster.only_of_engs hx).put (d := (s.cluster (corePos k)).freed (coreNo k) e) rfl
  subst hr
  rw [State.freed, State.bayScan_wakes (r := r) (Cluster.freed_demand hd) hq hp ho he (.inr hw), hw, State.setCluster_setCluster]
  rfl

end

/-! ### LYIELD and LFREE (07: R146, R152) -/

theorem State.waitedFor_asked {s : State} {k e j pr : Nat}
    (hq : (s.cluster (corePos k)).leaseQ = [{ core := j, eng := e, prio := pr }])
    (hp : ((s.core k).lease e).prio ≤ pr) : s.waitedFor k e = true := by
  simp [State.waitedFor, hq, hp]

/-- LYIELD gives the lease back: another core waits for it, the core has begun to give it back, or it is in grace. -/
def State.YieldsNow (s : State) (k e : Nat) : Prop :=
  ((s.core k).lease e).st = .held ∧ (s.waitedFor k e = true ∨ ((s.core k).lease e).yielding = true) ∨
    ((s.core k).lease e).st = .grace

section
variable {s : State} {k : Nat} {eng : BitVec 3} {rd : Reg} (hy : ((s.core k).lease eng.toNat).yieldDone = none)

section
variable (hr : s.tileReady k [] rd.toNat)
include hy hr

/-- LYIELD of a lease that the core has not got, or that no other core waits for, returns 0. -/
theorem execLyield_zero (hl : ((s.core k).lease eng.toNat).st = .none ∨ ((s.core k).lease eng.toNat).st = .queued ∨
      ((s.core k).lease eng.toNat).st = .held ∧ s.waitedFor k eng.toNat = false ∧ ((s.core k).lease eng.toNat).yielding = false) :
    execLyield eng rd s = .next (s.setCore k ((s.core k).done .a [] rd.toNat 0 0 4)) := by
  obtain ⟨hc, -, hw⟩ := hr
  rw [execLyield, State.onTile_tile hc, State.destination_tile hc hw, ← State.finish_tile hc]
  rcases hl with hl | hl | ⟨hl, hwait, hyield⟩
  · simp only [hy, hl]
    rfl
  · simp only [hy, hl]
    rfl
  · simp only [hy, hl, hwait, hyield, Bool.or_self, Bool.false_eq_true, if_false]
    rfl

/-- LYIELD of a lease that was taken returns 2 and clears it. -/
theorem execLyield_lost (hl : ((s.core k).lease eng.toNat).st = .lost) : execLyield eng rd s = .next (s.setCore k
    ({ s.core k with leases := Tab.put (s.core k).leases eng.toNat { (s.core k).lease eng.toNat with st := .none } }.done
      .a [] rd.toNat 2 0 4)) := by
  obtain ⟨hc, -, hw⟩ := hr
  rw [execLyield, State.onTile_tile hc, State.destination_tile hc hw]
  simp only [hy, hl, State.leaseTo, State.setLease, State.finish_setCore hc]
  rfl

/-- LYIELD of a lease that another core waits for, or in grace, gives it back. -/
theorem execLyield_letGo (hl : s.YieldsNow k eng.toNat) :
    execLyield eng rd s = .next (s.letGo k eng.toNat fun v s => s.finish 4 rd.toNat (BitVec.ofNat 64 v) 0) := by
  obtain ⟨hc, -, hw⟩ := hr
  rw [execLyield, State.onTile_tile hc, State.destination_tile hc hw]
  rcases hl with ⟨hl, hwait⟩ | hl
  · simp only [hy, hl, Bool.or_eq_true, if_pos hwait]
  · simp only [hy, hl]

end

section
variable (hc : s.cur = .tile k)
include hy hc

theorem execLfree_none (hl : ((s.core k).lease eng.toNat).st = .none) :
    execLfree eng s = .next (s.setCore k ((s.core k).retired ((s.core k).pc + 4))) := by
  rw [execLfree, State.onTile_tile hc]
  simp only [hy, hl, State.retire_tile hc]
  rfl

theorem execLfree_lost (hl : ((s.core k).lease eng.toNat).st = .lost) : execLfree eng s = .next (s.setCore k
    ({ s.core k with leases := Tab.put (s.core k).leases eng.toNat { (s.core k).lease eng.toNat with st := .none } }.retired
      ((s.core k).pc + 4))) := by
  rw [execLfree, State.onTile_tile hc]
  simp only [hy, hl, State.leaseTo, State.setLease, State.retire_setCore hc]

theorem execLfree_queued (hl : ((s.core k).lease eng.toNat).st = .queued) :
    execLfree eng s = .next ((s.unqueue k eng.toNat .none).retire 4) := by
  rw [execLfree, State.onTile_tile hc]
  simp only [hy, hl]

theorem execLfree_letGo (hl : ((s.core k).lease eng.toNat).st = .held ∨ ((s.core k).lease eng.toNat).st = .grace) :
    execLfree eng s = .next (s.letGo k eng.toNat fun _ s => s.retire 4) := by
  rw [execLfree, State.onTile_tile hc]
  rcases hl with hl | hl <;> simp only [hy, hl]

end
end

/-! ### After a release -/

@[simp] theorem Core.done_leases (c : Core) (rs : List Nat) (rd : Nat) (v : Word) (cs len : Nat) :
    (c.done .a rs rd v cs len).leases = c.leases := by
  rw [Core.done, Core.readIn_a]
  exact Core.wrote_keeps (f := Core.leases) (fun _ _ => rfl) c rd v cs

section
variable {s u : State} {k : Nat} {eng : BitVec 3} {rd : Reg} (hy : ((s.core k).lease eng.toNat).yieldDone = none)
  (ho : s.opsOn k eng.toNat = []) (hs : (s.freed k eng.toNat .none).bayScan (corePos k) = u)
  (hu : u.core k = (s.core k).freed eng.toNat .none) (hcur : u.cur = s.cur)
include hy ho hs hu hcur

theorem execLyield_released (hr : s.tileReady k [] rd.toNat) (hl : s.YieldsNow k eng.toNat) :
    execLyield eng rd s = .next (u.setCore k (((s.core k).freed eng.toNat .none).done .a [] rd.toNat 1 0 4)) := by
  rw [execLyield_letGo hy hr hl, State.letGo_idle ho, hs, State.finish_tile (hcur.trans hr.1), hu]
  rfl

theorem execLfree_released (hc : s.cur = .tile k)
    (hl : ((s.core k).lease eng.toNat).st = .held ∨ ((s.core k).lease eng.toNat).st = .grace) :
    execLfree eng s = .next (u.setCore k (((s.core k).freed eng.toNat .none).retired ((s.core k).pc + 4))) := by
  rw [execLfree_letGo hy hc hl, State.letGo_idle ho, hs, State.retire_tile (hcur.trans hc), hu, Core.freed_pc]
  rfl

end

/-- What LYIELD and LFREE leave where they release a lease, by the state `v` after the scan. -/
structure State.GivesBack (s v u : State) (k e : Nat) : Prop where
  lease : Tab.get {} (u.core k).leases e = { (s.core k).lease e with st := .none, yielding := false }
  pc : (u.core k).pc = (s.core k).pc + 4
  cluster : ∀ p, u.cluster p = v.cluster p
  mem : u.mem = v.mem

section
variable {s v : State} {k : Nat} {eng : BitVec 3} {rd : Reg} (hy : ((s.core k).lease eng.toNat).yieldDone = none)
  (ho : s.opsOn k eng.toNat = []) (hs : (s.freed k eng.toNat .none).bayScan (corePos k) = v)
  (hv : v.core k = (s.core k).freed eng.toNat .none) (hcur : v.cur = s.cur)
include hy ho hs hv hcur

theorem execLyield_givesBack (hr : s.tileReady k [] rd.toNat) (hl : s.YieldsNow k eng.toNat) :
    ∃ u, execLyield eng rd s = .next u ∧ s.GivesBack v u k eng.toNat ∧ (rd ≠ 0 → (u.core k).reg.word rd.toNat = 1) := by
  refine ⟨_, execLyield_released hy ho hs hv hcur hr hl, ⟨?_, ?_, fun _ => rfl, rfl⟩, fun h => ?_⟩ <;>
    rw [State.core_setCore_same]
  · rw [Core.done_leases, Core.freed_lease]
  · rw [Core.done_pc, Core.freed_pc]
    rfl
  · exact Core.done_word (Reg.toNat_ne_zero h) ..

theorem execLfree_givesBack (hc : s.cur = .tile k)
    (hl : ((s.core k).lease eng.toNat).st = .held ∨ ((s.core k).lease eng.toNat).st = .grace) :
    ∃ u, execLfree eng s = .next u ∧ s.GivesBack v u k eng.toNat ∧ (u.core k).reg = (s.core k).reg := by
  refine ⟨_, execLfree_released hy ho hs hv hcur hc hl, ⟨?_, ?_, fun _ => rfl, rfl⟩, ?_⟩ <;> rw [State.core_setCore_same]
  · exact Core.freed_lease ..
  · rfl
  · exact Core.freed_reg ..

end

namespace State.GivesBack
variable {s u : State} {k e : Nat}

/-- Where nobody waits for it the engine is warm, with no demand. -/
theorem of_unasked (h : s.GivesBack (s.freed k e .none) u k e)
    (hd : ∀ d ∈ (s.cluster (corePos k)).demand, d.eng = e ∧ d.core = coreNo k) :
    ((u.cluster (corePos k)).eng e).power = .warm ∧ (u.cluster (corePos k)).demand = none := by
  rw [h.cluster, State.freed_cluster]
  exact ⟨Cluster.freed_power .., Cluster.freed_demand hd⟩

/-- Where a core waits for it the engine wakes for that core. -/
theorem of_asked {r : LeaseReq} (h : s.GivesBack ((s.freed k e .none).setCluster (corePos k)
      (((s.cluster (corePos k)).freed (coreNo k) e).waking r true)) u k e) :
    ((u.cluster (corePos k)).eng r.eng).power = .waking (some r.core) r.prio true false ∧
      (u.cluster (corePos k)).leaseQ = (s.cluster (corePos k)).leaseQ := by
  rw [h.cluster, State.cluster_setCluster_same]
  exact ⟨Cluster.waking_power .., rfl⟩

end State.GivesBack

/-! ### LEASE (07: R151) -/

/-- A bay with one request. -/
def Cluster.asked (c : Cluster) (r : LeaseReq) : Cluster := { c with leaseQ := [r] }

/-- A core whose request for an engine is queued. -/
def Core.asking (c : Core) (e : Nat) (l : Lease) : Core := { c with reg := c.reg.owe l.rd, leases := Tab.put c.leases e l }

section
variable {s : State} {k : Nat} {prio : BitVec 2} {eng : BitVec 3} {ra rd : Reg} (hr : s.tileReady k [ra.toNat] rd.toNat)
include hr

/-- LEASE of an engine that the core has returns its handle. -/
theorem execLease_held (hl : ((s.core k).lease eng.toNat).st = .held ∨ ((s.core k).lease eng.toNat).st = .grace) :
    execLease prio eng ra rd s =
      .next (s.setCore k ((s.core k).done .d [ra.toNat] rd.toNat ((s.core k).lease eng.toNat).handle 0 4)) := by
  have hlease : ((s.core k).readIn .d [ra.toNat]).lease eng.toNat = (s.core k).lease eng.toNat := rfl
  have hdest := State.destination_tile (s := s.setCore k ((s.core k).readIn .d [ra.toNat])) hr.1
    (by rw [State.writeWaits_readIn]; exact hr.2.2)
  rw [execLease, State.onTile_tile hr.1, State.sources_ready hr]
  simp only [State.core_setCore_same, hlease]
  rcases hl with hl | hl <;> simp only [hl, hdest, State.finish_setCore hr.1] <;> rfl

/-- LEASE where no request waits queues its own; then the bay is scanned. -/
theorem execLease_asks (hl : ((s.core k).lease eng.toNat).st = .none ∨ ((s.core k).lease eng.toNat).st = .lost)
    (hq : (s.cluster (corePos k)).leaseQ = []) : execLease prio eng ra rd s = .next
      ((((s.setCore k (((s.core k).readIn .d [ra.toNat]).asking eng.toNat
          { st := .queued, prio := prio.toNat, restart := s.reg ra.toNat, rd := rd.toNat })).setCluster (corePos k)
        ((s.cluster (corePos k)).asked { core := coreNo k, eng := eng.toNat, prio := prio.toNat })).bayScan
          (corePos k)).retire 4) := by
  have hlease : ((s.core k).readIn .d [ra.toNat]).lease eng.toNat = (s.core k).lease eng.toNat := rfl
  have hdest := State.destination_tile (s := s.setCore k ((s.core k).readIn .d [ra.toNat])) hr.1
    (by rw [State.writeWaits_readIn]; exact hr.2.2)
  rw [execLease, State.onTile_tile hr.1, State.sources_ready hr]
  simp only [State.core_setCore_same, hlease]
  rcases hl with hl | hl <;>
    simp only [hl, hdest, State.cluster_setCore, hq, List.length_nil, if_neg (show ¬16 ≤ 0 by decide), List.nil_append,
      State.core_setCore_same, State.setCore_setCore, State.reg_readIn hr.1] <;> rfl

end

theorem State.retire_setCluster {s : State} {k : Nat} (h : s.cur = .tile k) (d : Core) (p : Nat) (c : Cluster) :
    ((s.setCore k d).setCluster p c).retire 4 = (s.setCluster p c).setCore k (d.retired (d.pc + 4)) := by
  rw [State.retire_tile (s := (s.setCore k d).setCluster p c) h, State.core_setCluster, State.core_setCore_same]
  exact State.setCore_setCore (s.setCluster p c) k d _

/-- LEASE at a bay with nothing in use queues the request and begins the wake. -/
theorem execLease_wakes {s : State} {k : Nat} {prio : BitVec 2} {eng : BitVec 3} {ra rd : Reg}
    (hr : s.tileReady k [ra.toNat] rd.toNat)
    (hl : ((s.core k).lease eng.toNat).st = .none ∨ ((s.core k).lease eng.toNat).st = .lost)
    (hq : (s.cluster (corePos k)).leaseQ = []) (hx : (s.cluster (corePos k)).engs = [])
    (hd : (s.cluster (corePos k)).demand = none) :
    let r : LeaseReq := { core := coreNo k, eng := eng.toNat, prio := prio.toNat }
    execLease prio eng ra rd s = .next ((s.setCluster (corePos k)
      (((s.cluster (corePos k)).asked r).waking r false)).setCore k
        ((((s.core k).readIn .d [ra.toNat]).asking eng.toNat
          { st := .queued, prio := prio.toNat, restart := s.reg ra.toNat, rd := rd.toNat }).retired ((s.core k).pc + 4))) := by
  intro r
  have ho : ((s.cluster (corePos k)).asked r).Only eng.toNat := Cluster.only_of_none hx _
  have hw : (((s.cluster (corePos k)).asked r).eng eng.toNat).power = .gated := by
    rw [Cluster.eng, show ((s.cluster (corePos k)).asked r).engs = [] from hx]
    rfl
  rw [execLease_asks hr hl hq, State.bayScan_wakes (c := (s.cluster (corePos k)).asked r) hd rfl prio.isLt ho eng.isLt
      (.inl hw), hw,
    State.retire_setCluster hr.1]
  rfl

/-! ### A request is withdrawn (07: R146; log 25) -/

theorem State.dropRequest_leaseQ (s : State) (k e : Nat) : ((s.dropRequest k e).cluster (corePos k)).leaseQ =
    (s.cluster (corePos k)).leaseQ.filter fun r => !(r.core = coreNo k && r.eng = e) := by
  rw [State.dropRequest, State.cluster_setCluster_same]

theorem State.dropRequest_demand (s : State) (k e : Nat) :
    ((s.dropRequest k e).cluster (corePos k)).demand = (s.cluster (corePos k)).demand := by
  rw [State.dropRequest, State.cluster_setCluster_same]

theorem State.dropRequest_only {s : State} {k e : Nat} (h : (s.cluster (corePos k)).Only e) :
    ((s.dropRequest k e).cluster (corePos k)).Only e := by
  rw [State.dropRequest, State.cluster_setCluster_same]
  exact h.put rfl

/-- A wake for the request goes on for none. -/
theorem State.dropRequest_waking {s : State} {k e pr : Nat} {w b : Bool}
    (h : ((s.cluster (corePos k)).eng e).power = .waking (some (coreNo k)) pr w b) :
    (((s.dropRequest k e).cluster (corePos k)).eng e).power = .waking none pr w b := by
  rw [State.dropRequest, State.cluster_setCluster_same]
  refine (congrArg Engine.power (Tab.get_put_same _ _ _ _)).trans ?_
  simp only [h, if_true]

/-- A core whose request is withdrawn: its handle word is 0. -/
def Core.unasked (c : Core) (e : Nat) (st : LeaseState) : Core :=
  { c with reg := c.reg.put (c.lease e).rd 0, leases := Tab.put c.leases e { c.lease e with st := st } }

/-- The only request of a bay is withdrawn. -/
theorem State.unqueue_only {s : State} {k e pr : Nat} {x : Engine} (hx : (s.cluster (corePos k)).engs = [(e, x)]) (he : e < 8)
    (hq : (s.cluster (corePos k)).leaseQ = [{ core := coreNo k, eng := e, prio := pr }])
    (hd : (s.cluster (corePos k)).demand = none) (st : LeaseState) :
    s.unqueue k e st = (s.dropRequest k e).setCore k ((s.core k).unasked e st) :=
  State.bayScan_idle (s := (s.dropRequest k e).setCore k ((s.core k).unasked e st)) ((s.dropRequest_demand k e).trans hd)
    ((s.dropRequest_leaseQ k e).trans (by simp [hq])) (State.dropRequest_only (Cluster.only_of_engs hx)) he

/-- LFREE of a queued lease withdraws the only request of the bay. -/
theorem execLfree_withdrawn {s : State} {k pr : Nat} {eng : BitVec 3} {x : Engine}
    (hy : ((s.core k).lease eng.toNat).yieldDone = none) (hc : s.cur = .tile k)
    (hl : ((s.core k).lease eng.toNat).st = .queued) (hx : (s.cluster (corePos k)).engs = [(eng.toNat, x)])
    (hq : (s.cluster (corePos k)).leaseQ = [{ core := coreNo k, eng := eng.toNat, prio := pr }])
    (hd : (s.cluster (corePos k)).demand = none) : execLfree eng s =
      .next ((s.dropRequest k eng.toNat).setCore k (((s.core k).unasked eng.toNat .none).retired ((s.core k).pc + 4))) := by
  rw [execLfree_queued hy hc hl, State.unqueue_only hx eng.isLt hq hd, State.retire_setCore (s := s.dropRequest k eng.toNat) hc]
  rfl

/-! ### LSTAT (07: R154) -/

theorem Cluster.qpos_none {c : Cluster} {kc e : Nat} (h : ∀ r ∈ c.scanOrder, ¬(r.core = kc ∧ r.eng = e)) :
    c.qpos kc e = 31 := by
  have hf : (c.scanOrder.findIdx? fun r => r.core = kc && r.eng = e) = none := by simpa [List.findIdx?_eq_none_iff] using h
  rw [Cluster.qpos, hf]

theorem Cluster.qpos_at {c : Cluster} {kc e : Nat} {pre post : List LeaseReq} {r : LeaseReq} (hs : c.scanOrder = pre ++ r :: post)
    (hc : r.core = kc) (he : r.eng = e) (h : ∀ y ∈ pre, ¬(y.core = kc ∧ y.eng = e)) : c.qpos kc e = pre.length := by
  have hf : (pre.findIdx? fun r => r.core = kc && r.eng = e) = none := by simpa [List.findIdx?_eq_none_iff] using h
  have hi : (c.scanOrder.findIdx? fun r => r.core = kc && r.eng = e) = some pre.length := by
    rw [hs, List.findIdx?_append, hf]
    simp [List.findIdx?_cons, hc, he]
  rw [Cluster.qpos, hi]

/-- What is left of a grace window, as LSTAT returns it (log 8). -/
def State.graceLeft (s : State) (st : LeaseState) : Nat := if st = .grace then (s.fresh 26).1.toNat % 4097 else 0

theorem State.graceLeft_le (s : State) (st : LeaseState) : s.graceLeft st ≤ 4096 := by
  unfold State.graceLeft
  split <;> omega

/-- The core that holds an engine. -/
def Power.holder : Power → Option Nat
  | .held kc => some kc
  | _ => none

theorem execLstat_ready {s : State} {k : Nat} {eng : BitVec 3} {rd : Reg} (hr : s.tileReady k [] rd.toNat) :
    execLstat eng rd s =
      let l := (s.core k).lease eng.toNat
      let c := s.cluster (corePos k)
      .next ((if l.st = .grace then (s.fresh 26).2 else s).setCore k ((s.core k).done .a [] rd.toNat
        (fields [(0, l.st.code), (8, if l.st = .none ∨ l.st = .lost then 0 else l.prio),
          (13, b2n (c.eng eng.toNat).power.holder.isSome),
          (14, (c.eng eng.toNat).power.holder.getD 0), (16, (c.eng eng.toNat).power.code), (20, c.qpos (coreNo k) eng.toNat),
          (32, s.graceLeft l.st)]) 0 4)) := by
  obtain ⟨hc, -, hw⟩ := hr
  rw [execLstat, State.onTile_tile hc, State.destination_tile hc hw]
  simp only [Bool.or_eq_true, decide_eq_true_eq]
  by_cases hg : ((s.core k).lease eng.toNat).st = .grace
  · simp only [if_pos hg, State.finish_tile (s := (s.fresh 26).2) hc, State.graceLeft]
    rfl
  · simp only [if_neg hg, State.finish_tile hc, State.graceLeft]
    rfl

end Sys2Proof.Machine

namespace Sys2Proof.Proofs
open Sys2Proof Sys2Proof.Machine

/-- What LEASE, LYIELD, LFREE and LSTAT do. -/
theorem leaseInstrs : Parts.LeaseResults := by
  unfold Parts.LeaseResults
  intro s k prio eng ra rd c cl e l hy
  have he : e < 8 := eng.isLt
  refine ⟨fun hl hr => execLease_held hr hl, fun hl hr hq hx hd => ?begins,
    fun hl hr => execLyield_zero hy hr (hl.imp_right .inl), fun hl hr => execLyield_lost hy hr hl,
    fun hc hl => execLfree_none hy hc hl, fun hc hl => execLfree_lost hy hc hl,
    fun hl hn hw hr => execLyield_zero hy hr (.inr (.inr ⟨hl, hw, hn⟩)),
    fun ho => ⟨fun hl hr => (execLyield_letGo hy hr hl).trans (congrArg _ (State.letGo_busy hr.1 ho _)),
      fun hl hc => (execLfree_letGo hy hc hl).trans (congrArg _ (State.letGo_busy hc ho _))⟩,
    fun x hx hq hd ho => ?released, fun x j pr hx hq hj hp hd hl ho => ?handed, fun x hx hq hd hl hrd hc => ?withdrawn,
    fun hr => ⟨cl.qpos (coreNo k) e, s.graceLeft l.st, execLstat_ready hr, s.graceLeft_le _, fun h => if_neg h,
      Cluster.qpos_none, fun _ _ _ => Cluster.qpos_at⟩⟩
  case begins =>
    refine ⟨_, execLease_wakes hr hl hq hx hd, ?_, ?_, fun h => ?_, ?_, ?_, rfl⟩
    · rw [State.core_setCore_same]; rfl
    · rw [State.core_setCore_same]; exact Tab.get_put_same ..
    · rw [State.core_setCore_same]; exact RegSpace.isEmpty_owe _ (Reg.toNat_ne_zero h)
    · rw [State.cluster_setCore, State.cluster_setCluster_same]; rfl
    · rw [State.cluster_setCore, State.cluster_setCluster_same]; exact Cluster.waking_power ..
  case released =>
    have hs := State.freed_unasked hx he hd .none hq
    have hv := s.freed_core k e .none
    refine ⟨fun hl hr => ?_, fun hl hc => ?_⟩
    · obtain ⟨u, hu, h, hone⟩ := execLyield_givesBack hy ho hs hv rfl hr (hl.imp_left fun h => ⟨h.1, .inr h.2⟩)
      obtain ⟨hw, hdn⟩ := h.of_unasked hd
      exact ⟨u, hu, ⟨h.lease, hw, hdn, h.pc, h.mem⟩, hone⟩
    · obtain ⟨u, hu, h, hreg⟩ := execLfree_givesBack hy ho hs hv rfl hc hl
      obtain ⟨hw, hdn⟩ := h.of_unasked hd
      exact ⟨u, hu, ⟨h.lease, hw, hdn, h.pc, h.mem⟩, hreg⟩
  case handed =>
    have hs := State.freed_asked hx he (fun _ h => nomatch hd.symm.trans (Option.mem_def.1 h)) .none hq rfl hp
    have hv := s.freed_core k e .none
    refine ⟨fun hpr hr => ?_, fun hc => ?_⟩
    · obtain ⟨u, hu, h, hone⟩ := execLyield_givesBack hy ho hs hv rfl hr (.inl ⟨hl, .inl (State.waitedFor_asked hq hpr)⟩)
      obtain ⟨hw, hq'⟩ := h.of_asked
      exact ⟨u, hu, ⟨h.lease, hw, hq', h.pc, h.mem⟩, hone⟩
    · obtain ⟨u, hu, h, hreg⟩ := execLfree_givesBack hy ho hs hv rfl hc (.inl hl)
      obtain ⟨hw, hq'⟩ := h.of_asked
      exact ⟨u, hu, ⟨h.lease, hw, hq', h.pc, h.mem⟩, hreg⟩
  case withdrawn =>
    refine ⟨_, execLfree_withdrawn hy hc hl hx hq hd, ?_, ?_, fun h => ?_, ?_, fun pr w b hw => ?_, rfl⟩
    · rw [State.core_setCore_same]; exact Tab.get_put_same ..
    · rw [State.cluster_setCore, State.dropRequest_leaseQ, hq]; simp [e]
    · rw [State.core_setCore_same]
      exact ⟨(RegSpace.word_put ..).trans (if_pos ⟨rfl, h⟩), (RegSpace.isEmpty_put ..).trans (if_pos rfl)⟩
    · rw [State.core_setCore_same]; rfl
    · exact State.dropRequest_waking (by rw [Cluster.eng_of_engs hx, hw])

/-- Settles O33: an operation without its lease answers as the lease stands, and the lease instructions change it. -/
theorem leaseResults : Obligations.LeaseResults := ⟨engineNotHeld, leaseInstrs⟩

end Sys2Proof.Proofs

/-! SUPPORT. LEASE_GRANT, GRACE_EXPIRY, LEASE_RELEASE and ENGINE_GATE (07: R149-R153, R157; 23: R394), and the
statement O51. -/

namespace Sys2Proof.Machine

theorem tileOf_corePos (k : Nat) : 4 * corePos k + coreNo k = k := Nat.div_add_mod k 4

@[simp] theorem State.lease_setLease (s : State) (k e : Nat) (l : Lease) : ((s.setLease k e l).core k).lease e = l := by
  rw [State.setLease, State.core_setCore_same]
  exact Tab.get_put_same ..

/-- What is no engine's internal state, a scrub leaves. -/
theorem Cluster.scrub_keeps {β : Type} {f : Cluster → β}
    (hf : ∀ (c : Cluster) w b t z r, f { c with wbanks := w, cbanks := b, sfBuilt := t, zd := z, rd := r } = f c)
    (c : Cluster) (e : Nat) : f (c.scrub e) = f c := by
  unfold Cluster.scrub
  split
  · exact hf c _ c.cbanks c.sfBuilt c.zd c.rd
  split
  · exact hf c _ _ c.sfBuilt c.zd c.rd
  split
  · exact hf c c.wbanks c.cbanks _ c.zd c.rd
  split
  · exact hf c c.wbanks c.cbanks c.sfBuilt _ c.rd
  split
  · exact hf c c.wbanks c.cbanks c.sfBuilt c.zd _
  · rfl

@[simp] theorem Cluster.scrub_engs (c : Cluster) (e : Nat) : (c.scrub e).engs = c.engs :=
  Cluster.scrub_keeps (f := Cluster.engs) (fun _ _ _ _ _ _ => rfl) c e
@[simp] theorem Cluster.scrub_demand (c : Cluster) (e : Nat) : (c.scrub e).demand = c.demand :=
  Cluster.scrub_keeps (f := Cluster.demand) (fun _ _ _ _ _ _ => rfl) c e
@[simp] theorem Cluster.scrub_leaseQ (c : Cluster) (e : Nat) : (c.scrub e).leaseQ = c.leaseQ :=
  Cluster.scrub_keeps (f := Cluster.leaseQ) (fun _ _ _ _ _ _ => rfl) c e

/-! ### What the mirroring of a pair leaves (16: R347) -/

@[simp] theorem State.cluster_mirror (s : State) (k p : Nat) : (s.mirror k).cluster p = s.cluster p :=
  State.mirror_keeps (f := fun s => s.cluster p) (fun _ _ _ => rfl) s k
@[simp] theorem State.mem_mirror (s : State) (k : Nat) : (s.mirror k).mem = s.mem :=
  State.mirror_keeps (f := State.mem) (fun _ _ _ => rfl) s k
@[simp] theorem State.net_mirror (s : State) (k : Nat) : (s.mirror k).net = s.net :=
  State.mirror_keeps (f := State.net) (fun _ _ _ => rfl) s k

/-! ### A grant (07: R149, R151) -/

/-- A bay whose engine goes over to a core, under a new generation. -/
def Cluster.granted (c : Cluster) (kc e gen : Nat) : Cluster :=
  { c with engs := Tab.put c.engs e { c.eng e with power := .held kc, granted := c.stamp }, stamp := c.stamp + 1
           gens := Tab.put c.gens e gen, leaseQ := c.leaseQ.filter fun r => !(r.core = kc && r.eng = e) }

/-- A core that gets its lease, with the handle. -/
def Core.granted (c : Core) (e : Nat) (h : Word) : Core :=
  { c.forget e with reg := c.reg.put (c.lease e).rd h, leases := Tab.put c.leases e { c.lease e with st := .held, handle := h } }

theorem Core.granted_lease (c : Core) (e : Nat) (h : Word) :
    (c.granted e h).lease e = { c.lease e with st := .held, handle := h } :=
  Tab.get_put_same ..

/-- A wake that ends within the allowance is granted. -/
theorem State.grant_waking {s : State} {k e prio : Nat} {warm boost : Bool}
    (hu : (s.cluster (corePos k)).units ≤ s.allowance (corePos k))
    (hw : ((s.cluster (corePos k)).eng e).power = .waking (some (coreNo k)) prio warm boost) :
    let gen := (Tab.get 0 (s.cluster (corePos k)).gens e + 1) % 2 ^ 32
    s.grant (corePos k) e = (((s.setCluster (corePos k) (((s.cluster (corePos k)).scrub e).granted (coreNo k) e gen)).setCore k
      ((s.core k).granted e (handleWord gen warm boost prio e))).bayScan (corePos k)).mirror k := by
  have heng : ((s.cluster (corePos k)).scrub e).eng e = (s.cluster (corePos k)).eng e := by
    rw [Cluster.eng, Cluster.scrub_engs]; rfl
  have hlease : ((s.core k).forget e).lease e = (s.core k).lease e := by rw [Core.lease, Core.forget_leases]; rfl
  simp only [State.grant, if_neg (Nat.not_lt.2 hu), hw, tileOf_corePos, State.core_setCluster, hlease, Core.forget_reg,
    Core.forget_leases, Cluster.granted, Core.granted, heng]

/-! ### An eviction of a core with no operations (07: R157) -/

/-- A core that loses its lease. -/
def Core.evicted (c : Core) (e : Nat) (st : LeaseState) : Core :=
  { c.forget e with leases := Tab.put c.leases e { c.lease e with st := st } }

theorem Core.evicted_lease (c : Core) (e : Nat) (st : LeaseState) : (c.evicted e st).lease e = { c.lease e with st := st } :=
  Tab.get_put_same ..

/-- Stopping an engine for a core without operations stops none, and touches neither memory nor network. -/
theorem State.NoOps.stopEngine_none {s : State} {k : Nat} (h : s.NoOps k) (e : Nat) (go : State → EngOp → OpEnd) :
    (s.stopEngine k e go).1 = none ∧ (s.stopEngine k e go).2.mem = s.mem ∧ (s.stopEngine k e go).2.net = s.net := by
  simp only [State.stopEngine, h.inflight, h.stuck, List.filter_nil, List.map_nil, Tab.get, List.foldl_nil, State.syncOps_nil,
    State.dropQueued, State.core_setCore_same, State.core_setCluster, h.dispq, List.head?_nil, true_and]
  exact ⟨rfl, rfl⟩

/-- The eviction frees the engine, as a release does. -/
theorem State.NoOps.evict {s : State} {k : Nat} (h : s.NoOps k) (e n : Nat) (st : LeaseState) :
    ∃ t : State, t.mem = s.mem ∧ t.net = s.net ∧ s.evict k e n st =
      (((t.setCluster (corePos k) (((s.cluster (corePos k)).scrub e).freed (coreNo k) e)).setCore k
        ((s.core k).evicted e st)).bayScan (corePos k)).mirror k := by
  obtain ⟨hnone, hmem, hnet⟩ := h.stopEngine_none e (State.cutOp k n)
  have hsame := h.stopEngine e (State.cutOp k n)
  have hlease : ((s.core k).forget e).lease e = (s.core k).lease e := by rw [Core.lease, Core.forget_leases]; rfl
  refine ⟨_, hmem, hnet, ?_⟩
  simp only [State.evict, hnone, hsame.cluster, State.core_setCluster, hsame.core, hlease, Core.forget_leases]
  rfl

/-! ### The steps of a bay -/

/-- Where a bay has one engine in use and no request, the scan leaves a state whose cores only have changed since. -/
theorem State.scan_setCluster {s : State} {k e : Nat} {c : Cluster} (hd : c.demand = none) (hq : c.leaseQ = []) (ho : c.Only e)
    (he : e < 8) (d : Core) :
    ((s.setCluster (corePos k) c).setCore k d).bayScan (corePos k) = (s.setCluster (corePos k) c).setCore k d := by
  have hc := s.cluster_setCluster_same (corePos k) c
  exact State.bayScan_idle (by rw [State.cluster_setCore, hc, hd]) (by rw [State.cluster_setCore, hc, hq])
    (by rw [State.cluster_setCore, hc]; exact ho) he

section
variable {s : State} {k e : Nat} {x : Engine} (he : e < 8) (hx : (s.cluster (corePos k)).engs = [(e, x)])
  (hd : (s.cluster (corePos k)).demand = none)
include he hx hd

/-- LEASE_GRANT of the only request. -/
theorem execLeaseGrant_only {prio : Nat} {warm boost : Bool} (hu : (s.cluster (corePos k)).units ≤ s.allowance (corePos k))
    (hw : x.power = .waking (some (coreNo k)) prio warm boost)
    (hq : (s.cluster (corePos k)).leaseQ = [{ core := coreNo k, eng := e, prio := prio }]) :
    let gen := (Tab.get 0 (s.cluster (corePos k)).gens e + 1) % 2 ^ 32
    execLeaseGrant (corePos k) e s = .next (((s.setCluster (corePos k)
      (((s.cluster (corePos k)).scrub e).granted (coreNo k) e gen)).setCore k
        ((s.core k).granted e (handleWord gen warm boost prio e))).mirror k) := by
  intro gen
  have hset : ((s.cluster (corePos k)).scrub e).engs = [(e, x)] := (Cluster.scrub_engs _ e).trans hx
  rw [execLeaseGrant, State.grant_waking hu (by rw [Cluster.eng_of_engs hx, hw]),
    State.scan_setCluster (c := ((s.cluster (corePos k)).scrub e).granted (coreNo k) e gen)
      ((Cluster.scrub_demand ..).trans hd) ?_ ((Cluster.only_of_engs hset).put rfl) he]
  simp [Cluster.granted, hq]

variable (hw : x.power = .held (coreNo k)) (hq : (s.cluster (corePos k)).leaseQ = [])
include hw hq

/-- GRACE_EXPIRY takes the lease from a core with no operations. -/
theorem execGraceExpiry_idle (hl : ((s.core k).lease e).st = .grace) (hy : ((s.core k).lease e).yielding = false)
    (hs : (s.core k).stopped = 0) (ho : s.opsOf k = []) (n : Nat) : ∃ t : State, t.mem = s.mem ∧ t.net = s.net ∧
      execGraceExpiry (corePos k) e n s = .next (((t.setCluster (corePos k)
        (((s.cluster (corePos k)).scrub e).freed (coreNo k) e)).setCore k ((s.core k).evicted e .lost)).mirror k) := by
  obtain ⟨t, hmem, hnet, ht⟩ := (State.noOps_of_opsOf ho).evict e n .lost
  have hset : ((s.cluster (corePos k)).scrub e).engs = [(e, x)] := (Cluster.scrub_engs _ e).trans hx
  refine ⟨t, hmem, hnet, ?_⟩
  rw [State.scan_setCluster (e := e) (Cluster.freed_demand ?_) ((Cluster.scrub_leaseQ ..).trans hq)
    ((Cluster.only_of_engs hset).put rfl) he] at ht
  · rw [← ht]
    simp [execGraceExpiry, Cluster.eng_of_engs hx, hw, tileOf_corePos, hl, hy, hs]
  · simp [hd]

/-- LEASE_RELEASE gives a yielded lease back. -/
theorem execLeaseRelease_idle (hy : ((s.core k).lease e).yielding = true) (ho : s.opsOn k e = []) :
    execLeaseRelease (corePos k) e s = .next ((s.freed k e .none).setLease k e
      { (s.core k).lease e with st := .none, yielding := false, yieldDone := some 1 }) := by
  have hscan := State.freed_unasked hx he (fun _ h => nomatch hd.symm.trans (Option.mem_def.1 h)) .none hq
  have hlease : ((s.freed k e .none).core k).lease e = { (s.core k).lease e with st := .none, yielding := false } := by
    rw [State.freed_core]
    exact Core.freed_lease ..
  simp only [execLeaseRelease, Cluster.eng_of_engs hx, hw, tileOf_corePos, hy, ho, List.isEmpty_nil, Bool.and_self, if_true,
    State.release_freed, hscan, hlease]

end

end Sys2Proof.Machine

namespace Sys2Proof.Proofs
open Sys2Proof Sys2Proof.Machine

/-- Settles O51: the steps of a bay with one engine in use. -/
theorem baySteps : Obligations.BaySteps := by
  unfold Obligations.BaySteps
  intro s pos e kc x hkc he
  obtain ⟨k, rfl, rfl⟩ : ∃ k, pos = corePos k ∧ kc = coreNo k :=
    ⟨4 * pos + kc, by simp only [corePos]; omega, by simp only [coreNo]; omega⟩
  rw [tileOf_corePos]
  intro cl k' c l after
  refine ⟨fun prio warm boost hu hw hx hq hd => ?grant, fun hw hx hq hd => ⟨fun hl hy hs ho n => ?grace,
      fun hy ho => ?release⟩, fun hw => congrArg _ (if_pos hw)⟩
  case grant =>
    refine ⟨_, execLeaseGrant_only he hx hd hu hw hq, ?_, ?_, ?_, ?_, ?_, State.mem_mirror .., State.net_mirror ..⟩
    · rw [State.cluster_mirror, State.cluster_setCore, State.cluster_setCluster_same]
      exact congrArg Engine.power (Tab.get_put_same ..)
    · rw [State.cluster_mirror, State.cluster_setCore, State.cluster_setCluster_same]
      exact Tab.get_put_same ..
    · rw [State.cluster_mirror, State.cluster_setCore, State.cluster_setCluster_same]
      simp [Cluster.granted, hq, cl]
    · change ((State.mirror _ k).core k).lease e = _
      rw [State.core_mirror, State.core_setCore_same]
      exact Core.granted_lease ..
    · rw [State.core_mirror, State.core_setCore_same]
      rfl
  case grace =>
    obtain ⟨t, hmem, hnet, ht⟩ := execGraceExpiry_idle he hx hd hw hq hl hy hs ho n
    refine ⟨_, ht, ?_, ?_, ?_, (State.mem_mirror ..).trans hmem, (State.net_mirror ..).trans hnet⟩
    · change (((State.mirror _ k).core k).lease e).st = _
      rw [State.core_mirror, State.core_setCore_same, Core.evicted_lease]
    · rw [State.cluster_mirror, State.cluster_setCore, State.cluster_setCluster_same]
      exact Cluster.freed_power ..
    · rw [State.core_mirror, State.core_setCore_same]
      exact Core.forget_pc ..
  case release =>
    have hlease := (s.freed k e .none).lease_setLease k e { l with st := .none, yielding := false, yieldDone := some 1 }
    refine ⟨_, execLeaseRelease_idle he hx hd hw hq hy ho, congrArg Lease.st hlease,
      congrArg Lease.yieldDone hlease, ?_, ?_, rfl, rfl⟩
    · rw [State.setLease, State.cluster_setCore, State.freed_cluster]
      exact Cluster.freed_power ..
    · rw [State.setLease, State.core_setCore_same, State.freed_core]
      exact Core.freed_reg ..

end Sys2Proof.Proofs
